-- ==== Sys2Proof/Word.lean ====
section
/-! DEFINITION. The words and the small index types of the controller (spec/00_scope.md, Conventions). -/

namespace Sys2Proof

/-- One byte, of a frame or of a sector. -/
abbrev Byte := BitVec 8

/-- A 16-bit quantity: a check, a value field. -/
abbrev Word16 := BitVec 16

/-- A line: 0 to 7 the desk lines, 8 the supervisor line (00_scope, Conventions). -/
abbrev Line := Fin 9

/-- A drive, 0 to 3. -/
abbrev DriveNo := Fin 4

/-- A slot of the request table, two for each line (R101): slots 2k and 2k + 1 are line k's. -/
abbrev ReqId := Fin 18

/-- A buffer of the pool (R104). -/
abbrev BufNo := Fin 40

/-- A record of the retired-version pool (R26). -/
abbrev RecNo := Fin 8

/-- The supervisor line, line 8. -/
def supervisorLine : Line := 8

/-- Every line. -/
def allLines : List Line := [0, 1, 2, 3, 4, 5, 6, 7, 8]

/-- Every drive. -/
def allDrives : List DriveNo := [0, 1, 2, 3]

end Sys2Proof
end

