-- ==== Sys2Proof/Config.lean ====
section
/-! DEFINITION. What the 840 fixes (sizes and limits, each with its rule) and the free values, which the
spec leaves open: an uninterpreted constant each, so that no proof can see a value. -/

namespace Sys2Proof.Config

/-- R54, R105: which of several waiters for the same buffers is taken first is left open.
Applied to a counter of State, it names the position of the waiter taken among those that can go on.
Free value, log 4. -/
opaque claimPick : Nat → Nat

/-- R16: a sector in the middle of its FORMAT write is left with a bad header check or a bad data check, or
both. Applied to a counter of State: 0 the header, the data field as it was; 1 the data field; 2 both; 3 the header,
the data field with the zeros being written. Free value, log 10. -/
opaque formatCutOff : Nat → BitVec 2

/-- R91: the bytes a read puts in a buffer from a data field that stands on the diskette with a bad check, which the
spec does not give. Applied to a counter of State, and to the place of the byte in the field. Free value, log 45. -/
opaque badField : Nat → Nat → BitVec 8

/-- R1: cylinders 0 to 76. -/
def lastCylinder : Nat := 76

/-- R9: data indices 0 to 1215. -/
def dataSectors : Nat := 1216

/-- R1: bytes of a data field. -/
def sectorBytes : Nat := 1024

/-- R18: slots of a mirror. -/
def catalogSlots : Nat := 240

/-- R104: no request owns more than 8 buffers. -/
def requestBuffers : Nat := 8

/-- R134: frames an outbound store holds. -/
def storeFrames : Nat := 6

/-- R133: waiting direct answers a port holds. -/
def directLimit : Nat := 16

/-- R52: slots of a suspend stack, the copy cursor counted. -/
def stackSlots : Nat := 3

/-- R58: the bypass count at which an order is due. -/
def dueCount : Nat := 8

/-- R64: angle units one bypass is worth. -/
def bypassWorth : Nat := 125

/-- R92: attempts a sector is given. -/
def attempts : Nat := 4

/-- R95: times a sector is written at most, its rewrites counted. -/
def maxWrites : Nat := 3

/-- R86: steps of a recalibration. -/
def recalSteps : Nat := 80

/-- R95: the retry count from which AUTO verifies. -/
def autoVerify : Nat := 4

/-- R28: holds a line has at most. -/
def lineHolds : Nat := 8

/-- R33: extents of a version at most. -/
def maxExtents : Nat := 12

/-- R8, R13: entries of a bad list at most. -/
def maxBad : Nat := 16

/-- R113: bytes of a story at most. -/
def maxLength : Nat := 65535

/-- R43: records of a LISTING frame at most. -/
def listingRecords : Nat := 9

/-- R109: story bytes of a TEXT reply frame at most. -/
def textBytes : Nat := 256

/-- Log 5: how many pieces of follow-on work one command may start; the rules bound them far below it. -/
def settleBound : Nat := 4000

end Sys2Proof.Config
end

