-- ==== Sys2Proof/Syntax.lean ====
section
/-! DEFINITION. The commands: one constructor of Instr for each row of spec/opcode_table.json, with the data
each carries. What a command says that the block cannot know by itself (a byte received, a header as read, a
sense line) is an operand. -/

namespace Sys2Proof

/-- R4, R6: a sector header as the drive reads it, its check included. -/
structure HeaderRead where
  cyl : Byte
  side : Byte
  sector : Byte
  size : Byte
  check : Word16
deriving DecidableEq, Repr

/-- R4, R91: what the drive gives for the data field of the sector under the head: the field as the diskette
holds it, or bytes and a check as a marginal medium gave them (log 8). -/
inductive FieldRead where
  | asStored
  | asRead (bytes : List Byte) (check : Word16)
deriving DecidableEq, Repr

/-- R4: the header of a sector on a diskette: none was ever written, its check is bad, or it is good. -/
inductive HeaderField where
  | absent
  | bad
  | good (cyl side sector size : Nat)
deriving DecidableEq, Repr

/-- R4: the data field of a sector on a diskette: its check is bad, or it is good and holds these bytes. -/
inductive DataField where
  | bad
  | good (bytes : List Byte)
deriving DecidableEq, Repr

/-- R4: a sector. -/
structure Sector where
  header : HeaderField
  data : DataField
deriving DecidableEq, Repr

/-- R1: a diskette: its write-protect notch (R82) and its sectors, each under cylinder × 16 + side × 8 +
sector; a sector that is not listed was never formatted (log 8). -/
structure Diskette where
  notch : Bool
  sectors : List (Nat × Sector)
deriving DecidableEq, Repr

/-- R129: what faults an inbound frame, apart from the frame-gap limit (R128), which is a row of its own. -/
inductive FrameFaultCause where
  /-- the second length byte gives a length outside 2 to 260 -/
  | badLength (second : Byte)
  /-- the second check byte does not match -/
  | badCheck (second : Byte)
  /-- a character whose stop bit reads as space -/
  | framingFault
deriving DecidableEq, Repr

/-- The commands of spec/opcode_table.json. The operands of a desk or console command are its line, its tag
and the body fields of R188 as they are received. -/
inductive Instr where
  | fetch (line : Line) (tag drive cls edition : Byte) (slug : List Byte)
  | draw (line : Line) (tag drive cls edition : Byte) (slug : List Byte)
  | file (line : Line) (tag drive cls edition : Byte) (slug : List Byte)
  | text (line : Line) (tag : Byte) (bytes : List Byte)
  | close (line : Line) (tag keep : Byte)
  | release (line : Line) (tag drive : Byte) (slug : List Byte)
  | spike (line : Line) (tag drive cls : Byte) (slug : List Byte)
  | list (line : Line) (tag drive count : Byte) (pattern : List Byte)
  | cancel (line : Line) (tag target : Byte)
  | status (line : Line) (tag : Byte)
  | time (line : Line) (tag : Byte)
  | drive (line : Line) (tag drive : Byte)
  | set (line : Line) (tag item : Byte) (value : Word16)
  | get (line : Line) (tag item : Byte)
  | settime (line : Line) (tag yy mm dd hh mi ss : Byte)
  | trim (line : Line) (tag : Byte) (value : Word16)
  | round (line : Line) (tag : Byte)
  | edition (line : Line) (tag number enabled openHH openMM closeHH closeMM lead : Byte)
  | breakHold (line : Line) (tag drive : Byte) (slug : List Byte)
  | format (line : Line) (tag drive : Byte) (volume : List Byte)
  | copy (line : Line) (tag source dest : Byte)
  | recal (line : Line) (tag drive : Byte)
  | restart (line : Line) (tag : Byte)
  | frameComplete (line : Line) (second : Byte)
  | frameFault (line : Line) (cause : FrameFaultCause)
  | frameGapExpiry (line : Line)
  | silenceTimerExpiry (line : Line)
  | lineBreak (line : Line)
  | frameSent (line : Line)
  | powerOn (batteryKept : Bool)
  | resetHold
  | resetRelease
  | secondEnd
  | indexPulse (d : DriveNo)
  | headUnload (d : DriveNo)
  | indexStall (d : DriveNo)
  | doorLineChange (d : DriveNo) (closed : Bool) (inserted : Option Diskette)
  | doorOpening (d : DriveNo)
  | doorClosing (d : DriveNo)
  | stepDone (d : DriveNo) (track0 : Bool)
  | settleDone (d : DriveNo)
  | headLoadDone (d : DriveNo)
  | headerFound (d : DriveNo) (header : HeaderRead)
  | searchLimit (d : DriveNo)
  | sectorBoundary (d : DriveNo) (field : FieldRead)
  | verifySectorEnd (d : DriveNo) (field : FieldRead)
  | idleLimitExpiry (r : ReqId)
  | formatUnitEnd (d : DriveNo)
  | copyOpeningEnd (d : DriveNo)
  | copyCatalogUnitEnd (d : DriveNo)
  | copyLabelVerified (d : DriveNo)
  | characterReceived (line : Line) (byte : Byte)
  | lineReturnToMark (line : Line)
  | mainPowerLoss
  | angleUnitTick (d : DriveNo) (protect : Bool)
deriving DecidableEq, Repr

end Sys2Proof
end

