-- ==== Sys2Proof/Decode.lean ====
section
/-! DEFINITION. The table's bits. No row of spec/opcode_table.json gives its command any bits
(spec/98_reader.md counts 0 rows with fixed bits and 0 with fields), so no word spells a command. -/

namespace Sys2Proof

/-- The command a word spells by the table's bits: none, since the table gives no row any bits (log 28). -/
def decodeTableWord (_nbits _w : Nat) : Option Instr := none

end Sys2Proof
end

