-- ==== Sys2Proof/Machine/State.lean ====
section
/-! DEFINITION. The state of the 840, all of it plain data: the battery domain, the blocks outside it, the
drive cables with the diskettes, and the queue of commands that wait. INVENTORY.md lists every field with
its rule and its reset value. -/

namespace Sys2Proof.Machine

/-! ## Names of the spec -/

/-- R78: mount states. -/
inductive MountState where
  | empty | loading | ready | unformatted | formatting | receiving | faulted
deriving DecidableEq, Repr

/-- 00_scope, Classes: the four service classes, lowest first. -/
inductive ServiceClass where
  | background | routine | edition | flash
deriving DecidableEq, Repr

/-- R146: outcomes. -/
inductive OutcomeCode where
  | done | taken | frameFault | malformed | notPermitted | noSlot | badTag
  | notReady | writeProtected | notFound | held | inUse | catalogFull | disketteFull
  | fragmented | tooLong | editionClosed | catalogFault | copyRunning | destinationBad
  | poolBusy | readFault | sectorMissing | writeFault | seekFault | disketteRemoved
  | driveFault | cancelled | tooLate
deriving DecidableEq, Repr

/-- R101: the commands that open a request. -/
inductive ReqKind where
  | fetch | draw | file | spike | format | copy | recal
deriving DecidableEq, Repr

/-- R102: the stages of a request. -/
inductive Stage where
  | waiting | reading | delivering | opened | closing | commitWait | committing | writing
  | running | opening | tracks | catalog | label | ending | answered
deriving DecidableEq, Repr

/-- R48: kinds of order. -/
inductive OrderKind where
  | read | write | catalogWrite | copyRead | copyWrite | recalibrate
deriving DecidableEq, Repr

/-- R47: the pass an order is in. -/
inductive Pass where
  | read | write | verify
deriving DecidableEq, Repr

/-- R165: the states of an edition. -/
inductive EditionState where
  | opened | warning | closed
deriving DecidableEq, Repr

/-- R18: the states of a catalog entry. -/
inductive EntryState where
  | free | filed | damaged
deriving DecidableEq, Repr

/-! ## The battery domain -/

/-- R157: the clock. The time fields are held as the numbers their BCD digit pairs spell. -/
structure Clock where
  yy : Nat
  mm : Nat
  dd : Nat
  hh : Nat
  mi : Nat
  ss : Nat
  prescaler : Nat
  secondLength : Nat
  trim : Int
  valid : Bool
deriving DecidableEq, Repr

/-- R165: an entry of the edition table; the times are minutes of the day. -/
structure Edition where
  enabled : Bool
  opens : Nat
  closes : Nat
  lead : Nat
  state : EditionState
deriving DecidableEq, Repr

/-- R174: the settings of a desk line. -/
structure LineSettings where
  enabled : Nat
  ceiling : Nat
  readSet : Nat
  fileSet : Nat
  rate : Nat
deriving DecidableEq, Repr

/-- R174: the settings of a drive. -/
structure DriveSettings where
  stepCode : Nat
  settle : Nat
  headLoad : Nat
  unload : Nat
  verify : Nat
  preempt : Nat
deriving DecidableEq, Repr

/-- R172: the configuration table, the trim excepted (it is in the clock). -/
structure Settings where
  lines : Vector LineSettings 8
  drives : Vector DriveSettings 4
  supervisorRate : Nat
deriving DecidableEq, Repr

/-- R170: the battery domain. -/
structure Battery where
  clock : Clock
  editions : Vector Edition 8
  settings : Settings
deriving DecidableEq, Repr

/-! ## Replies and line ports -/

/-- What follows the last byte of an answer: nothing, the general reset of R156, or the rate change of R176
on the line named. -/
inductive Mark where
  | plain
  | restart
  | rate (line : Line)
deriving DecidableEq, Repr

/-- The body of a waiting reply; a LIST's answer is one item that yields its frames (R133). -/
inductive ReplyBody where
  | single (body : List Byte)
  | listing (tag : Byte) (records : List (List Byte)) (total : Nat)
deriving DecidableEq, Repr

/-- R133: a waiting reply, the moment it was made, and whether it is a direct answer. `final` says that its
placing ends its request (R101). -/
structure Waiting where
  body : ReplyBody
  direct : Bool
  final : Bool
  mark : Mark
  made : Nat
deriving DecidableEq, Repr

/-- R134: a frame in an outbound store. -/
structure Frame where
  body : List Byte
  mark : Mark
deriving DecidableEq, Repr

/-- R127: the receive assembler and the bytes it keeps. -/
inductive Assembler where
  | hunt
  | lengthField (first : Option Byte)
  | body (high low : Byte) (kept : List Byte)
  | check (high low : Byte) (kept : List Byte) (first : Option Byte)
  | discard
deriving DecidableEq, Repr

/-- R131: the break detector. -/
inductive BreakDetector where
  | idle
  | timing
deriving DecidableEq, Repr

/-- R137: the pending notice record, its sets as the bytes of R188. -/
structure Notice where
  ready : Bool
  settingsLost : Bool
  warning : Byte
  closed : Byte
  holdLost : Byte
  driveChange : Byte
deriving DecidableEq, Repr

/-- R125: a line port. -/
structure Port where
  assembler : Assembler
  gapTimer : Bool
  silenceTimer : Bool
  detector : BreakDetector
  rate : Nat
  replies : List Waiting
  store : List Frame
  notice : Notice
deriving DecidableEq, Repr

/-! ## The catalog -/

/-- A run of sectors of one track side (00_scope, Extent). -/
structure Extent where
  cyl : Nat
  side : Nat
  first : Nat
  count : Nat
deriving DecidableEq, Repr

/-- R18: the fields of a slot that are kept on the diskette. -/
structure SlotImage where
  state : EntryState
  slug : List Byte
  edition : Nat
  revision : Nat
  timestamp : List Byte
  length : Nat
  extents : List Extent
deriving DecidableEq, Repr

/-- R35, R41: a catalog write in flight: its request, whether it is a spike's, the new image, and the retired
record it has claimed. -/
structure CatWrite where
  req : ReqId
  spike : Bool
  image : SlotImage
  record : Option RecNo
deriving DecidableEq, Repr

/-- R18: an entry of the mirror. `reserved` is reserved-new, with the slug recorded there; `heldAt` orders the
holds of a line as they were set (R149). -/
structure Entry where
  image : SlotImage
  holder : Option Line
  heldAt : Nat
  filing : Option ReqId
  readers : Nat
  reserved : Option (List Byte)
  catWrite : Option CatWrite
  spike : Option ReqId
deriving DecidableEq, Repr

/-- R8: the label as read at the mount. -/
structure Label where
  volume : List Byte
  date : List Byte
  badCount : Nat
  bads : List Nat
deriving DecidableEq, Repr

/-- R17, R22: the mirror of a drive in READY; an absent slot is none. The free set is kept in address order. -/
structure Mirror where
  slots : List (Option Entry)
  free : List Nat
  bad : List Nat
  withheld : List Nat
  suspect : List Nat
  label : Label
deriving DecidableEq, Repr

/-- R26: a record of the retired-version pool. -/
inductive Retired where
  | free
  | claimed (d : DriveNo) (r : ReqId)
  | inUse (d : DriveNo) (extents : List Extent) (readers : Nat)
deriving DecidableEq, Repr

/-! ## Requests -/

/-- R106: what a fetch takes from its entry on becoming a reader. -/
structure VersionInfo where
  length : Nat
  revision : Nat
  timestamp : List Byte
  extents : List Extent
deriving DecidableEq, Repr

/-- R25: the version a reader refers to. -/
inductive VersionRef where
  | entry (slot : Nat)
  | record (k : RecNo)
deriving DecidableEq, Repr

/-- R112: a filing session. Its state is its request's stage; `fillBytes` counts the bytes of text in the fill
buffer. -/
structure Session where
  edition : Nat
  keepHold : Bool
  length : Nat
  fill : Option BufNo
  fillBytes : Nat
  full : List BufNo
  pending : List Extent
  lastSector : Option Nat
  idle : Bool
deriving DecidableEq, Repr

/-- R10, R13: what a FORMAT carries. -/
structure FormatWork where
  volume : List Byte
  bads : List Nat
deriving DecidableEq, Repr

/-- R179: what a COPY records; `holdsSource` while it still names the source (R183), `holdsDest` until the
destination's work is discarded (R185), `stop` when a catalog unit is to stop at the end of its sector (R185). -/
structure CopyWork where
  badCount : Nat
  bads : List Nat
  volume : List Byte
  date : List Byte
  holdsSource : Bool
  holdsDest : Bool
  stop : Bool
deriving DecidableEq, Repr

/-- R101: a request. `onEntry` says that the story it was admitted on has been neither spiked nor discarded with its
mirror, so that a hold of its line on the entry in its slot is a hold on that story (R28, R37, log 26). -/
structure Request where
  tag : Byte
  kind : ReqKind
  drive : DriveNo
  dest : DriveNo
  cls : ServiceClass
  edition : Nat
  stage : Stage
  slug : List Byte
  slot : Nat
  onEntry : Bool
  version : Option VersionRef
  info : VersionInfo
  ordersMade : Nat
  chain : List BufNo
  filled : Nat
  delivered : Nat
  session : Option Session
  catBuf : Option BufNo
  waitSince : Nat
  format : Option FormatWork
  copy : Option CopyWork
  replies : List Waiting
  outcome : Option OutcomeCode
  silent : Bool
  admitted : Nat
deriving DecidableEq, Repr

/-- R104: a buffer: its owner, and its bytes, which neither taking it nor returning it clears. -/
structure Buffer where
  owner : Option ReqId
  data : List Byte
deriving DecidableEq, Repr

/-! ## Scheduler and sequencer -/

/-- R92, R93: the attempts on the sector being worked: the attempt number, whether one read a bad data check,
whether every one so far ended mispositioned, and whether attempt 3's recalibration was begun. -/
structure Tries where
  attempt : Nat
  badData : Bool
  mispositioned : Bool
  recalBegun : Bool
deriving DecidableEq, Repr

/-- R47: an order. `skip` lists the sectors of the run that are skipped (R181, R182); `sampled` says that the
write-protect sample of this service period has been taken (R82); `troubled` lists the sectors of its write pass that
needed more than one attempt (R94). In a verify pass `progress` keeps the write pass's count (log 48). -/
structure Order where
  req : ReqId
  kind : OrderKind
  cyl : Nat
  side : Nat
  first : Nat
  count : Nat
  cls : ServiceClass
  bypass : Nat
  arrival : Nat
  progress : Nat
  pass : Pass
  tries : Tries
  buffers : List BufNo
  skip : List Nat
  sampled : Bool
  troubled : List Nat
deriving DecidableEq, Repr

/-- R51, R52, R53: a drive's scheduler. The copy cursor, when present, is in the bottom slot of the stack. -/
structure Scheduler where
  queue : List Order
  service : Option Order
  stack : List Order
  cursor : Option (Nat × Nat)
  pending : Bool
  nextArrival : Nat
deriving DecidableEq, Repr

/-- R77: the head. -/
inductive HeadLoad where
  | unloaded
  | loading (units : Nat)
  | loaded
deriving DecidableEq, Repr

/-- R88: a step in progress, its direction and the time it takes, in angle units. -/
structure StepMove where
  inward : Bool
  units : Nat
deriving DecidableEq, Repr

/-- R83: LOADING: the catalog sector being read (0 the label), and what has been read. -/
structure LoadWork where
  sector : Nat
  tries : Tries
  label : Option Label
  catalog : List (Option (List Byte))
deriving DecidableEq, Repr

/-- R11 to R14, R180, R183, R184: the units of a FORMAT and of a COPY's destination; track side n of 154. -/
inductive UnitKind where
  | invalidate
  | track (n : Nat)
  | catalog (half : Nat)
  | label
deriving DecidableEq, Repr

/-- A unit in progress: its sectors in the order of its passes, those left in this pass, those that failed, and
the bytes being written. -/
structure UnitWork where
  kind : UnitKind
  req : ReqId
  copy : Bool
  sectors : List Nat
  todo : List Nat
  failed : List Nat
  image : List Byte
deriving DecidableEq, Repr

/-- What the sequencer has in hand. -/
inductive Job where
  | none
  | order
  | loading (l : LoadWork)
  | unit (u : UnitWork)
deriving DecidableEq, Repr

/-- R95: a verify pass: a revolution of read-backs or of rewrites, the sectors left in it, those failing, the
writes made so far, the sectors already counted as troubled, and whether the header of the sector at hand
was found at its angle. -/
structure VerifyWork where
  rewrite : Bool
  found : Bool
  todo : List Nat
  failing : List Nat
  writes : Nat
  troubled : List Nat
deriving DecidableEq, Repr

/-- Where the work in hand stands. -/
inductive Phase where
  | idle
  | positioning
  | ready
  | searching (pulses : Nat) (right wrong : Bool)
  | transfer
  | verify (w : VerifyWork)
  | waitAngle
  | unitPass (verify found : Bool)
  | unitDone
deriving DecidableEq, Repr

/-- R77: a drive sequencer. -/
structure Sequencer where
  mount : MountState
  writeProtected : Bool
  doorClosed : Bool
  cyl : Option Nat
  head : HeadLoad
  unload : Option Nat
  angle : Nat
  retries : Nat
  stall : Bool
  side : Nat
  recal : Option Nat
  step : Option StepMove
  settle : Option Nat
  settleOwed : Bool
  job : Job
  phase : Phase
  idleDue : Bool
deriving DecidableEq, Repr

/-- R80, R82, R86: the drive cable's sense lines as they read, and the diskette in the drive. -/
structure Cable where
  doorClosed : Bool
  protect : Bool
  track0 : Bool
  disk : Diskette
deriving DecidableEq, Repr

/-- R17, R45, R179: what the catalog unit holds for a drive, and the copy-source condition. -/
structure Catalog where
  mirror : Option Mirror
  fault : Bool
  copySource : Bool
deriving DecidableEq, Repr

/-- One drive, all of it. -/
structure Drive where
  cable : Cable
  seq : Sequencer
  sched : Scheduler
  cat : Catalog
deriving DecidableEq, Repr

/-- Everything outside the battery domain, and the drive cables. -/
structure Vol where
  power : Bool
  resetHeld : Bool
  ports : Vector Port 9
  reqs : Vector (Option Request) 18
  pool : Vector Buffer 40
  drives : Vector Drive 4
  retired : Vector Retired 8
  stamp : Nat
  picks : Nat
  tests : List (DriveNo × Nat)
deriving DecidableEq, Repr

/-- The machine: the commands waiting, first in first out, the battery domain and the rest. -/
structure State where
  pending : List Instr
  bat : Battery
  vol : Vol
deriving DecidableEq, Repr

/-- No rule of the spec stops the machine; no meaning raises this. It is here because the interface asks for
a type (safe: a fault would stop a run, not falsify it). -/
inductive Fault where
  /-- Raised by no meaning. Safe. -/
  | unreachable
deriving DecidableEq, Repr

/-- Why a command is refused. -/
inductive Refusal where
  /-- Raised by Dispatch for a command not modelled yet; no arm raises it now. Safe. -/
  | notModelled (mnemonic : String)
deriving DecidableEq, Repr

/-! ## The values of a reset -/

/-- R157: the clock after a battery loss. -/
def Clock.default : Clock :=
  { yy := 0, mm := 1, dd := 1, hh := 0, mi := 0, ss := 0,
    prescaler := 0, secondLength := 32768, trim := 0, valid := false }

/-- R165: an edition entry after a battery loss. -/
def Edition.default : Edition :=
  { enabled := false, opens := 0, closes := 1, lead := 0, state := .opened }

/-- R174: the default settings of a desk line. -/
def LineSettings.default : LineSettings :=
  { enabled := 1, ceiling := 2, readSet := 15, fileSet := 15, rate := 3 }

/-- R174: the default settings of a drive. -/
def DriveSettings.default : DriveSettings :=
  { stepCode := 3, settle := 15, headLoad := 35, unload := 4, verify := 2, preempt := 1 }

/-- R174: the default configuration table. -/
def Settings.default : Settings :=
  { lines := Vector.replicate 8 LineSettings.default,
    drives := Vector.replicate 4 DriveSettings.default,
    supervisorRate := 3 }

/-- R170: the battery domain after a battery loss. -/
def Battery.default : Battery :=
  { clock := Clock.default, editions := Vector.replicate 8 Edition.default,
    settings := Settings.default }

/-- R137: the record a general reset leaves: READY and nothing else. -/
def Notice.afterReset : Notice :=
  { ready := true, settingsLost := false, warning := 0, closed := 0, holdLost := 0, driveChange := 0 }

/-- R125: a port after a general reset, at the rate given. -/
def Port.afterReset (rate : Nat) : Port :=
  { assembler := .hunt, gapTimer := false, silenceTimer := false, detector := .idle, rate,
    replies := [], store := [], notice := Notice.afterReset }

/-- R77: the sequencer after a general reset. -/
def Sequencer.afterReset : Sequencer :=
  { mount := .empty, writeProtected := false, doorClosed := false, cyl := none,
    head := .unloaded, unload := none, angle := 999, retries := 0, stall := false, side := 0,
    recal := none, step := none, settle := none, settleOwed := false, job := .none,
    phase := .idle, idleDue := false }

/-- R76: the scheduler after a general reset. -/
def Scheduler.afterReset : Scheduler :=
  { queue := [], service := none, stack := [], cursor := none, pending := false, nextArrival := 0 }

/-- R17, R45, R187: the catalog unit after a general reset. -/
def Catalog.afterReset : Catalog := { mirror := none, fault := false, copySource := false }

/-- The cable inputs the model starts from (DESIGN CHOICE, log 9): the door open, both sense lines false, an
unformatted diskette. -/
def Cable.initial : Cable :=
  { doorClosed := false, protect := false, track0 := false, disk := { notch := false, sectors := [] } }

/-- A drive after a general reset, its cable as given. -/
def Drive.afterReset (c : Cable) : Drive :=
  { cable := c, seq := Sequencer.afterReset, sched := Scheduler.afterReset, cat := Catalog.afterReset }

/-- R137: SETTINGS LOST on the supervisor line's record. -/
def Port.settingsLost (p : Port) : Port := { p with notice := { p.notice with settingsLost := true } }

/-- Everything outside the battery domain, right after the power-on that is a battery loss (R170). -/
def Vol.initial : Vol :=
  { power := true, resetHeld := false,
    ports := (Vector.replicate 9 (Port.afterReset 3)).set 8 (Port.afterReset 3).settingsLost,
    reqs := Vector.replicate 18 none,
    pool := Vector.replicate 40 { owner := none, data := List.replicate Config.sectorBytes 0 },
    drives := Vector.replicate 4 (Drive.afterReset Cable.initial),
    retired := Vector.replicate 8 .free,
    stamp := 0, picks := 0, tests := [] }

/-- The machine right after reset: a power-on that is a battery loss (R125, R157, R165, R174), which gives
every field the spec names a value (log 9); the bytes of the buffers are zeros (log 20). -/
def State.reset : State := { pending := [], bat := Battery.default, vol := Vol.initial }

end Sys2Proof.Machine
end

