-- ==== Sys2Proof/Machine/Ops.lean ====
section
/-! DEFINITION. The named operations over the blocks' stores: bytes and checks, the diskette's sectors, the drives,
ports, request slots and buffers, the waiting replies and the notices. Everything above reads and writes State
through these. -/

namespace Sys2Proof

/-! ## Bytes and checks -/

/-- A quantity of two bytes, high byte first (00_scope, Byte order). -/
def be16 (n : Nat) : List Byte := [BitVec.ofNat 8 (n / 256), BitVec.ofNat 8 n]

/-- The number two bytes give, high byte first. -/
def fromBe16 (high low : Byte) : Nat := high.toNat * 256 + low.toNat

/-- The byte at a place, 0 past the end. -/
def byteAt (bs : List Byte) (i : Nat) : Byte := bs.getD i 0

/-- The number of the byte at a place. -/
def natAt (bs : List Byte) (i : Nat) : Nat := (byteAt bs i).toNat

/-- `count` bytes from a place on. -/
def slice (bs : List Byte) (start count : Nat) : List Byte := (bs.drop start).take count

/-- A BCD digit pair (00_scope, Dates and times). -/
def bcd (n : Nat) : Byte := BitVec.ofNat 8 (n / 10 * 16 + n % 10)

/-- The number a BCD digit pair spells, if both digits are 0 to 9. -/
def fromBcd (b : Byte) : Option Nat :=
  if b.toNat / 16 < 10 && b.toNat % 16 < 10 then some (b.toNat / 16 * 10 + b.toNat % 16) else none

/-- R5: one bit of the check register. -/
def crcBit (r : Word16) : Word16 := if r.msb then (r <<< 1) ^^^ 0x1021#16 else r <<< 1

/-- R5: a byte taken into the check register, most-significant bit first. -/
def crcByte (r : Word16) (b : Byte) : Word16 :=
  crcBit (crcBit (crcBit (crcBit (crcBit (crcBit (crcBit (crcBit (r ^^^ (b.setWidth 16 <<< 8)))))))))

/-- R5: the 16-bit cyclic check. -/
def crc (bs : List Byte) : Word16 := bs.foldl crcByte 0xFFFF#16

/-- The bytes of a check, high byte first. -/
def checkBytes (c : Word16) : List Byte := [c.extractLsb' 8 8, c.extractLsb' 0 8]

/-- R126: the bytes of the envelope of a body on the line. -/
def envelope (body : List Byte) : List Byte :=
  [0xE7#8] ++ be16 body.length ++ body ++ checkBytes (crc (be16 body.length ++ body))

/-- A list filled to a length with zero bytes (R116, R9). -/
def padTo (n : Nat) (bs : List Byte) : List Byte := bs ++ List.replicate (n - bs.length) 0

/-- Exactly the 1024 bytes of a data field (R4). -/
def sectorOf (bs : List Byte) : List Byte := padTo Config.sectorBytes (bs.take Config.sectorBytes)

/-- 1024 zero bytes. -/
def zeroSector : List Byte := List.replicate Config.sectorBytes 0

/-! ## The diskette (R1, R4, R7, R9) -/

/-- R3: the angle at which the header of a sector passes. -/
def headerAngle (n : Nat) : Nat := 125 * n + 8

/-- The sector whose header stands at an angle, if one does. -/
def sectorAtAngle (a : Nat) : Option Nat :=
  if a % 125 == 8 && a / 125 < 8 then some (a / 125) else none

/-- R1: the key of a sector. -/
def sectorKey (cyl side sector : Nat) : Nat := cyl * 16 + side * 8 + sector

/-- An unformatted sector, which is what an unlisted key reads as. -/
def Sector.blank : Sector := ⟨.absent, .bad⟩

/-- The sector stored under a key. -/
def sectorsGet : List (Nat × Sector) → Nat → Sector
  | [], _ => Sector.blank
  | (j, x) :: rest, k => if j = k then x else sectorsGet rest k

/-- A sector stored under a key, in the canonical form: keys rising, no blank entry. -/
def sectorsPut : List (Nat × Sector) → Nat → Sector → List (Nat × Sector)
  | [], k, x => if x = Sector.blank then [] else [(k, x)]
  | (j, y) :: rest, k, x =>
    if k < j then (if x = Sector.blank then (j, y) :: rest else (k, x) :: (j, y) :: rest)
    else if k = j then (if x = Sector.blank then rest else (k, x) :: rest)
    else (j, y) :: sectorsPut rest k x

/-- The sector of a diskette at an address. -/
def Diskette.sector (m : Diskette) (cyl side n : Nat) : Sector := sectorsGet m.sectors (sectorKey cyl side n)

/-- R1: a sector address of the geometry. -/
def addressOk (cyl side n : Nat) : Bool := cyl ≤ Config.lastCylinder && side ≤ 1 && n ≤ 7

/-- A sector stored on a diskette; outside the geometry there is no sector to store to (R1). -/
def Diskette.put (m : Diskette) (cyl side n : Nat) (x : Sector) : Diskette :=
  if addressOk cyl side n then { m with sectors := sectorsPut m.sectors (sectorKey cyl side n) x } else m

/-- R4: a data field of 1024 bytes and its check rewritten; the header stays. -/
def Diskette.writeData (m : Diskette) (cyl side n : Nat) (bs : List Byte) : Diskette :=
  m.put cyl side n { m.sector cyl side n with data := .good (sectorOf bs) }

/-- R81, R123: a data field cut off in the middle of its write. -/
def Diskette.spoilData (m : Diskette) (cyl side n : Nat) : Diskette :=
  m.put cyl side n { m.sector cyl side n with data := .bad }

/-- R12: a sector as FORMAT writes it: a good header, 1024 zero bytes. -/
def Diskette.format (m : Diskette) (cyl side n : Nat) : Diskette :=
  m.put cyl side n ⟨.good cyl side n 3, .good zeroSector⟩

/-- R16: a sector in the middle of its FORMAT write, as the free value says (log 10): the header bad with the data
field as it was, the data field bad, both, or the header bad with the zeros being written. -/
def Diskette.spoilFormat (m : Diskette) (cyl side n : Nat) (how : BitVec 2) : Diskette :=
  if how = 0 then m.put cyl side n { m.sector cyl side n with header := .bad }
  else if how = 1 then m.put cyl side n ⟨.good cyl side n 3, .bad⟩
  else if how = 2 then m.put cyl side n ⟨.bad, .bad⟩
  else m.put cyl side n ⟨.bad, .good zeroSector⟩

/-- R4: the bytes of a data field as read at an address, if its check is good. -/
def Diskette.readField (m : Diskette) (cyl side n : Nat) : FieldRead → Option (List Byte)
  | .asStored => match (m.sector cyl side n).data with
    | .good bs => some bs
    | .bad => none
  | .asRead bs check => if bs.length = Config.sectorBytes ∧ crc bs = check then some bs else none

/-- R4: a header is good when its check matches. -/
def headerGood (h : HeaderRead) : Bool := crc [h.cyl, h.side, h.sector, h.size] == h.check

end Sys2Proof

namespace Sys2Proof.Machine

/-- R9: the data index of a sector. -/
def dataIndex (cyl side sector : Nat) : Nat := (cyl - 1) * 16 + side * 8 + sector

/-- The data indices of an extent. -/
def Extent.sectors (e : Extent) : List Nat :=
  (List.range e.count).map (fun i => dataIndex e.cyl e.side e.first + i)

/-- The data indices of a list of extents, in story order. -/
def extentSectors (es : List Extent) : List Nat := es.flatMap Extent.sectors

/-- The extent of a run of data sectors on one track side. -/
def extentOfRun (start count : Nat) : Extent :=
  { cyl := start / 16 + 1, side := start / 8 % 2, first := start % 8, count }

/-- A sector added to a set kept in address order. -/
def insertSector : List Nat → Nat → List Nat
  | [], x => [x]
  | y :: ys, x => if x < y then x :: y :: ys else if x = y then y :: ys else y :: insertSector ys x

/-- Sectors added to a set. -/
def addSectors (set xs : List Nat) : List Nat := xs.foldl insertSector set

/-- Sectors taken from a set. -/
def removeSectors (set xs : List Nat) : List Nat := set.filter (fun y => !xs.contains y)

/-! ## Drives, ports, requests -/

/-- A drive. -/
def Vol.drive (v : Vol) (d : DriveNo) : Drive := v.drives[d]

/-- A drive changed. -/
def Vol.modDrive (v : Vol) (d : DriveNo) (f : Drive → Drive) : Vol :=
  { v with drives := v.drives.set d (f v.drives[d]) }

/-- A drive's sequencer changed. -/
def Vol.modSeq (v : Vol) (d : DriveNo) (f : Sequencer → Sequencer) : Vol :=
  v.modDrive d (fun x => { x with seq := f x.seq })

/-- A drive's scheduler changed. -/
def Vol.modSched (v : Vol) (d : DriveNo) (f : Scheduler → Scheduler) : Vol :=
  v.modDrive d (fun x => { x with sched := f x.sched })

/-- A drive's catalog changed. -/
def Vol.modCat (v : Vol) (d : DriveNo) (f : Catalog → Catalog) : Vol :=
  v.modDrive d (fun x => { x with cat := f x.cat })

/-- A drive's mirror changed, where it has one. -/
def Vol.modMirror (v : Vol) (d : DriveNo) (f : Mirror → Mirror) : Vol :=
  v.modCat d (fun c => { c with mirror := c.mirror.map f })

/-- A drive's cable or diskette changed. -/
def Vol.modCable (v : Vol) (d : DriveNo) (f : Cable → Cable) : Vol :=
  v.modDrive d (fun x => { x with cable := f x.cable })

/-- The diskette in a drive changed. -/
def Vol.modDisk (v : Vol) (d : DriveNo) (f : Diskette → Diskette) : Vol :=
  v.modCable d (fun c => { c with disk := f c.disk })

/-- A line port. -/
def Vol.port (v : Vol) (k : Line) : Port := v.ports[k]

/-- A port changed. -/
def Vol.modPort (v : Vol) (k : Line) (f : Port → Port) : Vol :=
  { v with ports := v.ports.set k (f v.ports[k]) }

/-- The request in a slot. -/
def Vol.req (v : Vol) (r : ReqId) : Option Request := v.reqs[r]

/-- A request slot filled or freed. -/
def Vol.setReq (v : Vol) (r : ReqId) (q : Option Request) : Vol := { v with reqs := v.reqs.set r q }

/-- A request changed, where the slot holds one. -/
def Vol.modReq (v : Vol) (r : ReqId) (f : Request → Request) : Vol := v.setReq r ((v.req r).map f)

/-- R101: the line whose slot this is. -/
def reqLine (r : ReqId) : Line := ⟨r.val / 2, by omega⟩

/-- R101: the two slots of a line. -/
def lineReqs (k : Line) : List ReqId := [⟨2 * k.val, by omega⟩, ⟨2 * k.val + 1, by omega⟩]

/-- Every request slot. -/
def allReqs : List ReqId := allLines.flatMap lineReqs

/-- The counter that orders moments, advanced. -/
def Vol.nextStamp (v : Vol) : Vol := { v with stamp := v.stamp + 1 }

/-- Slots inserted by the moment their request was admitted, earliest first. -/
def insertByAge (v : Vol) (r : ReqId) : List ReqId → List ReqId
  | [] => [r]
  | x :: xs =>
    if ((v.req r).map Request.admitted).getD 0 < ((v.req x).map Request.admitted).getD 0 then r :: x :: xs
    else x :: insertByAge v r xs

/-- The occupied slots among these, earliest admitted first (R136, log 25). -/
def Vol.byAge (v : Vol) (rs : List ReqId) : List ReqId :=
  (rs.filter (fun r => (v.req r).isSome)).foldl (fun acc r => insertByAge v r acc) []

/-! ## The buffer pool (R104) -/

/-- Every buffer. -/
def allBufs : List BufNo := List.finRange 40

/-- A buffer. -/
def Vol.buf (v : Vol) (b : BufNo) : Buffer := v.pool[b]

/-- A buffer changed. -/
def Vol.setBuf (v : Vol) (b : BufNo) (x : Buffer) : Vol := { v with pool := v.pool.set b x }

/-- The number of free buffers. -/
def Vol.freeBufs (v : Vol) : Nat := (allBufs.filter (fun b => (v.buf b).owner == none)).length

/-- The number of buffers a request owns. -/
def Vol.heldBufs (v : Vol) (r : ReqId) : Nat := (allBufs.filter (fun b => (v.buf b).owner == some r)).length

/-- One buffer taken for a request, if one is free; its bytes are not cleared (R104). Which of the free ones it is, is
the model's choice: the lowest-numbered (log 42). -/
def Vol.takeBuf (v : Vol) (r : ReqId) : Option (BufNo × Vol) :=
  match allBufs.find? (fun b => (v.buf b).owner == none) with
  | none => none
  | some b => some (b, v.setBuf b { v.buf b with owner := some r })

/-- Buffers taken for a request, as many of `n` as are free. -/
def Vol.takeBufs (v : Vol) (r : ReqId) : Nat → List BufNo × Vol
  | 0 => ([], v)
  | n + 1 => match v.takeBuf r with
    | none => ([], v)
    | some (b, w) => match w.takeBufs r n with
      | (bs, u) => (b :: bs, u)

/-- A buffer returned; its bytes are not cleared (R104). -/
def Vol.returnBuf (v : Vol) (b : BufNo) : Vol := v.setBuf b { v.buf b with owner := none }

/-- Buffers returned. -/
def Vol.returnBufs (v : Vol) (bs : List BufNo) : Vol := bs.foldl Vol.returnBuf v

/-- Every buffer of a request returned (R103). -/
def Vol.returnAll (v : Vol) (r : ReqId) : Vol :=
  v.returnBufs (allBufs.filter (fun b => (v.buf b).owner == some r))

/-- Bytes put over those of a list from a place on. -/
def overwrite (data : List Byte) (start : Nat) (bs : List Byte) : List Byte :=
  data.take start ++ bs ++ data.drop (start + bs.length)

/-- R104, R113: bytes written into a buffer from a place on; the others stand. -/
def Vol.writeBuf (v : Vol) (b : BufNo) (start : Nat) (bs : List Byte) : Vol :=
  v.setBuf b { v.buf b with data := overwrite (v.buf b).data start bs }

/-- The bytes of a buffer set. -/
def Vol.fillBuf (v : Vol) (b : BufNo) (bs : List Byte) : Vol := v.setBuf b { v.buf b with data := bs }

/-! ## Waiting replies (R133) -/

/-- R146: the code of an outcome. -/
def OutcomeCode.code : OutcomeCode → Byte
  | .done => 0x00 | .taken => 0x01 | .frameFault => 0x10 | .malformed => 0x11
  | .notPermitted => 0x12 | .noSlot => 0x13 | .badTag => 0x14 | .notReady => 0x20
  | .writeProtected => 0x21 | .notFound => 0x22 | .held => 0x23 | .inUse => 0x24
  | .catalogFull => 0x25 | .disketteFull => 0x26 | .fragmented => 0x27 | .tooLong => 0x28
  | .editionClosed => 0x29 | .catalogFault => 0x2A | .copyRunning => 0x2B
  | .destinationBad => 0x2C | .poolBusy => 0x30 | .readFault => 0x40 | .sectorMissing => 0x41
  | .writeFault => 0x42 | .seekFault => 0x43 | .disketteRemoved => 0x44 | .driveFault => 0x45
  | .cancelled => 0x50 | .tooLate => 0x51

/-- R188: the body of an ANSWER. -/
def answerBody (tag : Byte) (oc : OutcomeCode) (data : List Byte) : List Byte :=
  [0x80#8, tag, oc.code] ++ data

/-- A reply joins the reply list of a line (R133). -/
def Vol.addReply (v : Vol) (k : Line) (body : ReplyBody) (direct : Bool) (mark : Mark) : Vol :=
  (v.modPort k (fun p =>
    { p with replies := p.replies ++ [{ body, direct, final := false, mark, made := v.stamp }] })).nextStamp

/-- R144: an ANSWER made at the moment intake takes the frame, in the reply list. -/
def Vol.answer (v : Vol) (k : Line) (tag : Byte) (oc : OutcomeCode) (data : List Byte) : Vol :=
  v.addReply k (.single (answerBody tag oc data)) true .plain

/-- A reply that carries a request's tag joins the request's waiting replies; the replies of a request that a line
reset left to run on are discarded as they are made (R121). -/
def Vol.addReqReply (v : Vol) (r : ReqId) (body : List Byte) (direct final : Bool) : Vol :=
  (v.modReq r (fun q =>
    if q.silent then q
    else { q with replies := q.replies
             ++ [{ body := .single body, direct, final, mark := .plain, made := v.stamp }] })).nextStamp

/-- An ANSWER with a request's tag. -/
def Vol.reqAnswer (v : Vol) (r : ReqId) (oc : OutcomeCode) (data : List Byte) (direct final : Bool) : Vol :=
  match v.req r with
  | none => v
  | some q => v.addReqReply r (answerBody q.tag oc data) direct final

/-- R133: the waiting direct answers of a line, in both places. -/
def Vol.directCount (v : Vol) (k : Line) : Nat :=
  ((v.port k).replies.filter Waiting.direct).length
    + ((lineReqs k).map (fun r => match v.req r with
        | none => 0
        | some q => (q.replies.filter Waiting.direct).length)).sum

/-- The blocks outside the battery domain run: main power is on and the RESET input is not held (R170, R171). -/
def Vol.live (v : Vol) : Bool := v.power && !v.resetHeld

end Sys2Proof.Machine
end

