-- ==== Sys2Proof/Machine/Flags.lean ====
section
/-! DEFINITION. The flag records and conditions: the pending notice record of each line (R137) and the changes of
mount state that set DRIVE CHANGE on every line (R78). -/

namespace Sys2Proof.Machine

/-- The bit of a drive in a drive set (R188). -/
def driveBit (d : DriveNo) : Byte := 1#8 <<< d.val

/-- The bit of edition e, 1 to 8, in an edition set (R188). -/
def editionBit (e : Nat) : Byte := 1#8 <<< (e - 1)

/-- R137: a record holds a cause. -/
def Notice.some? (n : Notice) : Bool :=
  n.ready || n.settingsLost || n.warning != 0 || n.closed != 0 || n.holdLost != 0 || n.driveChange != 0

/-- R138: the record cleared. -/
def Notice.clear : Notice :=
  { ready := false, settingsLost := false, warning := 0, closed := 0, holdLost := 0, driveChange := 0 }

/-- R188: the five bytes of a notice record. -/
def Notice.bytes (n : Notice) : List Byte :=
  [(if n.ready then 1#8 else 0#8) ||| (if n.settingsLost then 2#8 else 0#8),
   n.warning, n.closed, n.holdLost, n.driveChange]

/-- The notice record of a line changed. -/
def Vol.modNotice (v : Vol) (k : Line) (f : Notice → Notice) : Vol :=
  v.modPort k (fun p => { p with notice := f p.notice })

/-- The notice record of every line changed (R137: enabled or disabled). -/
def Vol.modNotices (v : Vol) (f : Notice → Notice) : Vol :=
  allLines.foldl (fun w k => w.modNotice k f) v

/-- R78: a DRIVE CHANGE notice for a drive set on every line. -/
def Vol.driveChange (v : Vol) (d : DriveNo) : Vol :=
  v.modNotices (fun n => { n with driveChange := n.driveChange ||| driveBit d })

/-- R29: HOLD LOST for a drive merged into a line's record. -/
def Vol.holdLost (v : Vol) (k : Line) (d : DriveNo) : Vol :=
  v.modNotice k (fun n => { n with holdLost := n.holdLost ||| driveBit d })

/-- R167: the editions that warned and closed at a minute event merged on every line. -/
def Vol.editionNotices (v : Vol) (warned closed : Byte) : Vol :=
  v.modNotices (fun n => { n with warning := n.warning ||| warned, closed := n.closed ||| closed })

/-- The mount state of a drive. -/
def Vol.mount (v : Vol) (d : DriveNo) : MountState := (v.drive d).seq.mount

/-- The mount state of a drive set. -/
def Vol.setMount (v : Vol) (d : DriveNo) (m : MountState) : Vol := v.modSeq d (fun q => { q with mount := m })

/-- R78: a change of mount state that sets the DRIVE CHANGE notice. -/
def Vol.changeMount (v : Vol) (d : DriveNo) (m : MountState) : Vol := (v.setMount d m).driveChange d

end Sys2Proof.Machine
end

