-- ==== Sys2Proof/Machine/Operands.lean ====
section
/-! DEFINITION. The operand forms of command bodies: the tests and foldings of R141 and R10 on each kind of
field, and the class clamp of R142. -/

namespace Sys2Proof.Machine

/-- R141: a character of A-Z, 0-9, hyphen and space. -/
def slugChar (b : Byte) : Bool :=
  (0x41 ≤ b.toNat && b.toNat ≤ 0x5A) || (0x30 ≤ b.toNat && b.toNat ≤ 0x39)
    || b.toNat == 0x2D || b.toNat == 0x20

/-- R141: a lower-case letter folded to its upper-case letter. -/
def foldChar (b : Byte) : Byte :=
  if 0x61 ≤ b.toNat ∧ b.toNat ≤ 0x7A then b - 0x20#8 else b

/-- Twelve or eight spaces: a blank name. -/
def isBlank (bs : List Byte) : Bool := bs.all (fun b => b == 0x20#8)

/-- Names padded with spaces. -/
def spaces (n : Nat) : List Byte := List.replicate n 0x20#8

/-- R141: a slug field: 12 bytes, folded, of the slug characters, not all spaces. -/
def parseSlug (bs : List Byte) : Option (List Byte) :=
  let g := bs.map foldChar
  if g.length == 12 && g.all slugChar && !isBlank g then some g else none

/-- R10, R141: a volume name: 8 bytes, folded, of the slug characters; 8 spaces are accepted. -/
def parseVolume (bs : List Byte) : Option (List Byte) :=
  let g := bs.map foldChar
  if g.length == 8 && g.all slugChar then some g else none

/-- R43, R141: a LIST pattern: the characters within the count folded and tested, those beyond it neither. -/
def parsePattern (count : Byte) (bs : List Byte) : Option (List Byte) :=
  let g := (bs.take count.toNat).map foldChar
  if bs.length == 12 && count.toNat ≤ 12 && g.all slugChar then some g else none

/-- R141: a drive field, 0 to 3. -/
def parseDrive (b : Byte) : Option DriveNo :=
  if h : b.toNat < 4 then some ⟨b.toNat, h⟩ else none

/-- The number of a service class (00_scope, Classes). -/
def ServiceClass.rank : ServiceClass → Nat
  | .background => 0 | .routine => 1 | .edition => 2 | .flash => 3

/-- The class of a number, FLASH above 2. -/
def ServiceClass.ofRank : Nat → ServiceClass
  | 0 => .background | 1 => .routine | 2 => .edition | _ => .flash

/-- R141: a class field, 0 to 3. -/
def parseClass (b : Byte) : Option ServiceClass :=
  if b.toNat < 4 then some (ServiceClass.ofRank b.toNat) else none

/-- R141: an edition field, 0 to 8. -/
def parseEdition (b : Byte) : Option Nat := if b.toNat ≤ 8 then some b.toNat else none

/-- R141: a flag field, 0 or 1. -/
def parseFlag (b : Byte) : Option Bool :=
  if b = 0 then some false else if b = 1 then some true else none

/-- R141: a tag is 1 to 255. -/
def tagOk (tag : Byte) : Bool := tag != 0

/-- R142: a class clamped to a ceiling. -/
def clampClass (ceiling : Nat) (c : ServiceClass) : ServiceClass :=
  if ceiling < c.rank then ServiceClass.ofRank ceiling else c

/-- The fields of FETCH, DRAW and FILE. -/
structure StoryFields where
  drive : DriveNo
  cls : ServiceClass
  edition : Nat
  slug : List Byte
deriving DecidableEq, Repr

/-- R141 for FETCH, DRAW and FILE. -/
def parseStory (tag drive cls edition : Byte) (slug : List Byte) : Option StoryFields :=
  match parseDrive drive, parseClass cls, parseEdition edition, parseSlug slug with
  | some d, some c, some e, some g => if tagOk tag then some ⟨d, c, e, g⟩ else none
  | _, _, _, _ => none

/-- R141 for SPIKE, whose edition is 0 (R101). -/
def parseSpike (tag drive cls : Byte) (slug : List Byte) : Option StoryFields :=
  match parseDrive drive, parseClass cls, parseSlug slug with
  | some d, some c, some g => if tagOk tag then some ⟨d, c, 0, g⟩ else none
  | _, _, _ => none

/-- R141 for RELEASE and BREAK. -/
def parseNamed (tag drive : Byte) (slug : List Byte) : Option (DriveNo × List Byte) :=
  match parseDrive drive, parseSlug slug with
  | some d, some g => if tagOk tag then some (d, g) else none
  | _, _ => none

/-- R141 for LIST. -/
def parseList (tag drive count : Byte) (pattern : List Byte) : Option (DriveNo × List Byte) :=
  match parseDrive drive, parsePattern count pattern with
  | some d, some g => if tagOk tag then some (d, g) else none
  | _, _ => none

/-- R141 for DRIVE and RECAL. -/
def parseOnlyDrive (tag drive : Byte) : Option DriveNo :=
  match parseDrive drive with
  | some d => if tagOk tag then some d else none
  | none => none

/-- R141 for FORMAT. -/
def parseFormat (tag drive : Byte) (volume : List Byte) : Option (DriveNo × List Byte) :=
  match parseDrive drive, parseVolume volume with
  | some d, some g => if tagOk tag then some (d, g) else none
  | _, _ => none

/-- R141 for COPY: two different drives. -/
def parseCopy (tag source dest : Byte) : Option (DriveNo × DriveNo) :=
  match parseDrive source, parseDrive dest with
  | some s, some d => if tagOk tag && s != d then some (s, d) else none
  | _, _ => none

/-- The value of two bytes taken as signed (R160, R188). -/
def signed16 (w : Word16) : Int := w.toInt

/-- The two bytes of a signed value. -/
def signedBytes (n : Int) : List Byte := be16 (BitVec.ofInt 16 n).toNat

end Sys2Proof.Machine
end

