-- ==== Sys2Proof/Machine/Layout.lean ====
section
/-! DEFINITION. The layouts of the diskette's cylinder 0 (R7, R8, R189) and the mount-time build that reads them
(R20 to R22). -/

namespace Sys2Proof.Machine

/-! ## Catalog slots -/

/-- R189: the state byte. -/
def EntryState.code : EntryState → Byte
  | .free => 0x00 | .filed => 0x01 | .damaged => 0x02

/-- A FREE slot's image (R18). -/
def SlotImage.freeImage : SlotImage :=
  { state := .free, slug := spaces 12, edition := 0, revision := 0,
    timestamp := List.replicate 6 0, length := 0, extents := [] }

/-- R189: an extent's 3 bytes. -/
def Extent.bytes (e : Extent) : List Byte :=
  [BitVec.ofNat 8 e.cyl, BitVec.ofNat 8 e.side, BitVec.ofNat 8 (e.first * 16 + e.count)]

/-- R189: the 64 bytes of a slot image; a FREE slot is 64 zero bytes. -/
def SlotImage.bytes (w : SlotImage) : List Byte :=
  match w.state with
  | .free => List.replicate 64 0
  | _ =>
    padTo 64 (w.slug ++ [w.state.code, BitVec.ofNat 8 w.edition] ++ be16 w.revision ++ w.timestamp
      ++ be16 w.length ++ [BitVec.ofNat 8 w.extents.length] ++ w.extents.flatMap Extent.bytes)

/-- R189: the extent at place i of a slot's bytes. -/
def extentAt (bs : List Byte) (i : Nat) : Extent :=
  { cyl := natAt bs (25 + 3 * i), side := natAt bs (26 + 3 * i),
    first := natAt bs (27 + 3 * i) / 16, count := natAt bs (27 + 3 * i) % 16 }

/-- A slot as read: its state byte, its extent count, and its fields with the extents up to the count, or all 12
when the count is greater (R22). -/
structure RawSlot where
  stateByte : Nat
  extentCount : Nat
  image : SlotImage
deriving DecidableEq, Repr

/-- R189: the fields of 64 bytes read. -/
def rawSlot (bs : List Byte) : RawSlot :=
  let n := natAt bs 24
  { stateByte := natAt bs 12, extentCount := n,
    image :=
      { state := .damaged, slug := slice bs 0 12, edition := natAt bs 13,
        revision := fromBe16 (byteAt bs 14) (byteAt bs 15), timestamp := slice bs 16 6,
        length := fromBe16 (byteAt bs 22) (byteAt bs 23),
        extents := (List.range (min n 12)).map (extentAt bs) } }

/-- R21: the extent test. -/
def Extent.inRange (e : Extent) : Bool :=
  1 ≤ e.cyl && e.cyl ≤ Config.lastCylinder && e.side ≤ 1 && e.first ≤ 7
    && 1 ≤ e.count && e.count ≤ 8 && e.first + e.count ≤ 8

/-- No number twice. -/
def noRepeat : List Nat → Bool
  | [] => true
  | x :: xs => !xs.contains x && noRepeat xs

/-- R9: sectors a length takes. -/
def sectorsFor (length : Nat) : Nat := (length + 1023) / 1024

/-- R21: the tests on a slot read as FILED, given the bad sectors and what FILED entries of earlier slots claim. -/
def filedTests (bads claimed : List Nat) (slugs : List (List Byte)) (s : RawSlot) : Bool :=
  let w := s.image
  let xs := extentSectors w.extents
  w.slug.all slugChar && !isBlank w.slug && w.revision != 0 && w.edition ≤ 8 && s.extentCount ≤ 12
    && w.extents.all Extent.inRange && xs.length == sectorsFor w.length
    && noRepeat xs && xs.all (fun x => !bads.contains x && !claimed.contains x)
    && !slugs.contains w.slug

/-- R18, R22: an entry with nothing but its image. -/
def Entry.ofImage (w : SlotImage) : Entry :=
  { image := w, holder := none, heldAt := 0, filing := none, readers := 0, reserved := none,
    catWrite := none, spike := none }

/-- R21: one slot settled, and what it adds to the claims and slugs of the FILED entries. -/
def settleSlot (bads claimed : List Nat) (slugs : List (List Byte)) (bs : List Byte) :
    Entry × List Nat × List (List Byte) :=
  let s := rawSlot bs
  if s.stateByte = 0 then (Entry.ofImage SlotImage.freeImage, claimed, slugs)
  else if s.stateByte = 1 && filedTests bads claimed slugs s then
    (Entry.ofImage { s.image with state := .filed }, extentSectors s.image.extents ++ claimed,
      s.image.slug :: slugs)
  else (Entry.ofImage s.image, claimed, slugs)

/-- R21: the slots settled in ascending order; an absent slot is none. -/
def settleSlots (bads : List Nat) :
    List (Option (List Byte)) → List Nat → List (List Byte) → List (Option Entry)
  | [], _, _ => []
  | none :: rest, claimed, slugs => none :: settleSlots bads rest claimed slugs
  | some bs :: rest, claimed, slugs =>
    match settleSlot bads claimed slugs bs with
    | (e, claimed', slugs') => some e :: settleSlots bads rest claimed' slugs'

/-- R7: the 16 slots of a catalog sector, absent when it could not be read. -/
def slotsOfSector : Option (List Byte) → List (Option (List Byte))
  | none => List.replicate 16 none
  | some bs => (List.range 16).map (fun i => some (slice bs (64 * i) 64))

/-- R23: the sectors of the current versions of the FILED entries. -/
def filedSectors (slots : List (Option Entry)) : List Nat :=
  slots.flatMap (fun o => match o with
    | some e => if e.image.state = .filed then extentSectors e.image.extents else []
    | none => [])

/-- R22: the sectors of the in-range extents of the DAMAGED entries. -/
def damagedSectors (slots : List (Option Entry)) : List Nat :=
  slots.flatMap (fun o => match o with
    | some e => if e.image.state = .damaged then extentSectors (e.image.extents.filter Extent.inRange) else []
    | none => [])

/-- R20, R21: a slot is absent or DAMAGED. -/
def slotDamaged : Option Entry → Bool
  | none => true
  | some e => e.image.state == .damaged

/-- R22: the mirror built from the label and the 15 catalog sectors as read. -/
def buildMirror (label : Label) (sectors : List (Option (List Byte))) : Mirror :=
  let slots := settleSlots label.bads (sectors.flatMap slotsOfSector) [] []
  let filed := filedSectors slots
  let bad := addSectors [] label.bads
  let withheld := addSectors [] ((damagedSectors slots).filter (fun x => !bad.contains x && !filed.contains x))
  { slots,
    free := (List.range Config.dataSectors).filter
      (fun x => !bad.contains x && !withheld.contains x && !filed.contains x),
    bad, withheld, suspect := [], label }

/-- R45: the mount-time build sets the catalog fault condition. -/
def Mirror.faulty (m : Mirror) : Bool := m.slots.any slotDamaged

/-! ## Catalog sectors -/

/-- R7: the catalog sector that holds a slot: its side and sector on cylinder 0. -/
def slotPlace (slot : Nat) : Nat × Nat :=
  let c := slot / 16 + 1
  if c ≤ 7 then (0, c) else (1, c - 8)

/-- R7: the first slot of the catalog sector at a side and sector of cylinder 0. -/
def firstSlotAt (side sector : Nat) : Nat := (side * 8 + sector - 1) * 16

/-- R35: the image a slot takes in a catalog sector: the new image of the commit or spike whose write this is
(given by its slot), or the entry as the mirror serves it. -/
def slotImageFor (own : Nat) (i : Nat) : Option Entry → SlotImage
  | none => SlotImage.freeImage
  | some e => match e.catWrite with
    | some w => if i = own then w.image else e.image
    | none => e.image

/-- R35: the 1024 bytes of the catalog sector holding a slot, composed from the mirror. -/
def composeSector (m : Mirror) (own : Nat) : List Byte :=
  (List.range 16).flatMap (fun i =>
    (slotImageFor own (own / 16 * 16 + i) ((m.slots[own / 16 * 16 + i]?).getD none)).bytes)

/-- R183: the image a slot of the source gives the copy: a FILED entry's own, any other FREE. -/
def copyImage : Option Entry → SlotImage
  | none => SlotImage.freeImage
  | some e => if e.image.state = .filed then e.image else SlotImage.freeImage

/-- R183: a catalog sector of a copy's destination, composed from the source's mirror. -/
def composeCopy (m : Mirror) (side sector : Nat) : List Byte :=
  (List.range 16).flatMap (fun i => (copyImage ((m.slots[firstSlotAt side sector + i]?).getD none)).bytes)

/-! ## The label -/

/-- R8: the stamp "KWJ1". -/
def labelStamp : List Byte := [0x4B, 0x57, 0x4A, 0x31]

/-- R189: the 1024 bytes of a label. -/
def labelBytes (volume date : List Byte) (badCount : Nat) (bads : List Nat) : List Byte :=
  padTo Config.sectorBytes
    (labelStamp ++ volume ++ date ++ [BitVec.ofNat 8 badCount] ++ bads.flatMap be16)

/-- R189: the data index at place i of a label's bad list. -/
def badEntryAt (bs : List Byte) (i : Nat) : Nat := fromBe16 (byteAt bs (19 + 2 * i)) (byteAt bs (20 + 2 * i))

/-- R8: a label read good, if it is valid. -/
def parseLabel (bs : List Byte) : Option Label :=
  let n := natAt bs 18
  let bads := (List.range n).map (badEntryAt bs)
  if slice bs 0 4 == labelStamp && n ≤ Config.maxBad && bads.all (fun x => x < Config.dataSectors) then
    some { volume := slice bs 4 8, date := slice bs 12 6, badCount := n, bads }
  else none

end Sys2Proof.Machine
end

