-- ==== Sys2Proof/Machine/Catalog.lean ====
section
/-! DEFINITION. The story catalog unit: lookups (R19), holds (R28, R29), readers and retired versions (R25,
R26), and allocation (R31 to R33). -/

namespace Sys2Proof.Machine

/-! ## The mirror -/

/-- The entry of a slot, none where the slot is absent. -/
def Mirror.entry (m : Mirror) (i : Nat) : Option Entry := (m.slots[i]?).join

/-- An entry changed. -/
def Mirror.modEntry (m : Mirror) (i : Nat) (f : Entry → Entry) : Mirror :=
  { m with slots := m.slots.set i ((m.entry i).map f) }

/-- The lowest slot from `i` on whose entry passes a test. -/
def findSlot (p : Entry → Bool) : List (Option Entry) → Nat → Option Nat
  | [], _ => none
  | none :: rest, i => findSlot p rest (i + 1)
  | some e :: rest, i => if p e then some i else findSlot p rest (i + 1)

/-- R19: the slot found for a slug: the FILED entry that carries it, else the lowest DAMAGED one. The slug looked up
has been folded (R141); a DAMAGED entry's is compared as it was read: the model's choice (log 34). -/
def Mirror.lookup (m : Mirror) (g : List Byte) : Option Nat :=
  match findSlot (fun e => e.image.state == .filed && e.image.slug == g) m.slots 0 with
  | some i => some i
  | none => findSlot (fun e => e.image.state == .damaged && e.image.slug == g) m.slots 0

/-- R34: another filing has reserved a slot for a slug. -/
def Mirror.reservedFor (m : Mirror) (g : List Byte) : Bool :=
  m.slots.any (fun o => match o with
    | some e => e.reserved == some g
    | none => false)

/-- R34: the lowest FREE slot that is not reserved-new. -/
def Mirror.freeSlot (m : Mirror) : Option Nat :=
  findSlot (fun e => e.image.state == .free && e.reserved == none) m.slots 0

/-- R151: the entries served as FILED. -/
def Mirror.filedCount (m : Mirror) : Nat :=
  (m.slots.filter (fun o => match o with
    | some e => e.image.state == .filed
    | none => false)).length

/-- The mirror of a drive. -/
def Vol.mirror (v : Vol) (d : DriveNo) : Option Mirror := (v.drive d).cat.mirror

/-- The entry of a drive's slot. -/
def Vol.entry (v : Vol) (d : DriveNo) (i : Nat) : Option Entry := (v.mirror d).bind (fun m => m.entry i)

/-- An entry of a drive's mirror changed. -/
def Vol.modEntry (v : Vol) (d : DriveNo) (i : Nat) (f : Entry → Entry) : Vol :=
  v.modMirror d (fun m => m.modEntry i f)

/-- Sectors that join a drive's free set, where it has a mirror (R23). -/
def Vol.addFree (v : Vol) (d : DriveNo) (xs : List Nat) : Vol :=
  v.modMirror d (fun m => { m with free := addSectors m.free xs })

/-! ## Holds -/

/-- The holds of a line on a list of slots: when each was set, and its slot. -/
def holdsIn (k : Line) : List (Option Entry) → Nat → List (Nat × Nat)
  | [], _ => []
  | none :: rest, i => holdsIn k rest (i + 1)
  | some e :: rest, i =>
    if e.holder = some k then (e.heldAt, i) :: holdsIn k rest (i + 1) else holdsIn k rest (i + 1)

/-- The holds of a line, as (moment, drive, slot). -/
def Vol.holdList (v : Vol) (k : Line) : List (Nat × DriveNo × Nat) :=
  allDrives.flatMap (fun d => match v.mirror d with
    | none => []
    | some m => (holdsIn k m.slots 0).map (fun p => (p.1, d, p.2)))

/-- R28: the count of a line's holds, over every drive. -/
def Vol.holdCount (v : Vol) (k : Line) : Nat := (v.holdList k).length

/-- A hold put in its place by the moment it was set. -/
def insertHold (h : Nat × DriveNo × Nat) : List (Nat × DriveNo × Nat) → List (Nat × DriveNo × Nat)
  | [] => [h]
  | x :: xs => if h.1 < x.1 then h :: x :: xs else x :: insertHold h xs

/-- R149: a line's holds in the order they were set. -/
def Vol.holdsInOrder (v : Vol) (k : Line) : List (Nat × DriveNo × Nat) :=
  (v.holdList k).foldl (fun acc h => insertHold h acc) []

/-- R29: a hold dropped. -/
def Vol.dropHold (v : Vol) (d : DriveNo) (i : Nat) : Vol := v.modEntry d i (fun e => { e with holder := none })

/-- R28: a hold set for a line, unless the line already holds the entry. -/
def Vol.setHold (v : Vol) (d : DriveNo) (i : Nat) (k : Line) : Vol :=
  (v.modEntry d i (fun e =>
    if e.holder = some k then e else { e with holder := some k, heldAt := v.stamp })).nextStamp

/-- Every hold of a line among these slots dropped. -/
def dropLineHolds (k : Line) (slots : List (Option Entry)) : List (Option Entry) :=
  slots.map (fun o => o.map (fun e => if e.holder = some k then { e with holder := none } else e))

/-- R29, R131: a line's holds dropped without notice. -/
def Vol.dropLine (v : Vol) (k : Line) : Vol :=
  allDrives.foldl (fun w d => w.modMirror d (fun m => { m with slots := dropLineHolds k m.slots })) v

/-- A line holds some entry of a drive. -/
def Vol.holdsOn (v : Vol) (k : Line) (d : DriveNo) : Bool :=
  match v.mirror d with
  | none => false
  | some m => m.slots.any (fun o => match o with
    | some e => e.holder == some k
    | none => false)

/-- R29: HOLD LOST set once on the line of each holder of a drive whose mirror is discarded. -/
def Vol.loseHolds (v : Vol) (d : DriveNo) : Vol :=
  allLines.foldl (fun w k => if v.holdsOn k d then w.holdLost k d else w) v

/-! ## Readers and retired versions -/

/-- Every record of the pool. -/
def allRecords : List RecNo := [0, 1, 2, 3, 4, 5, 6, 7]

/-- A record. -/
def Vol.record (v : Vol) (k : RecNo) : Retired := v.retired[k]

/-- A record changed. -/
def Vol.setRecord (v : Vol) (k : RecNo) (x : Retired) : Vol := { v with retired := v.retired.set k x }

/-- R26: a free record, if there is one; which of them is the model's choice: the lowest-numbered (log 42). -/
def Vol.freeRecord (v : Vol) : Option RecNo := allRecords.find? (fun k => v.record k == .free)

/-- A record is a drive's: in use with its sectors, or claimed on it. -/
def Retired.onDrive (d : DriveNo) : Retired → Bool
  | .free => false
  | .claimed e _ => e == d
  | .inUse e _ _ => e == d

/-- R17, R26: the records of a drive become free when its mirror is discarded. -/
def Vol.freeRecordsOf (v : Vol) (d : DriveNo) : Vol :=
  allRecords.foldl (fun w k => if (w.record k).onDrive d then w.setRecord k .free else w) v

/-- R25, R26: a reader taken from the version it refers to; the last reader of a retired version frees its
sectors and its record. -/
def Vol.releaseVersion (v : Vol) (d : DriveNo) : VersionRef → Vol
  | .entry i => v.modEntry d i (fun e => { e with readers := e.readers - 1 })
  | .record k => match v.record k with
    | .inUse e xs n =>
      if n ≤ 1 then (v.setRecord k .free).addFree e (extentSectors xs)
      else v.setRecord k (.inUse e xs (n - 1))
    | .free => v
    | .claimed _ _ => v

/-- R25: a request released as a reader, if it is one. -/
def Vol.releaseReader (v : Vol) (r : ReqId) : Vol :=
  match v.req r with
  | none => v
  | some q => match q.version with
    | none => v
    | some ref => (v.releaseVersion q.drive ref).modReq r (fun q => { q with version := none })

/-- R26: every reader of an entry's old version refers to the record. -/
def Vol.moveReaders (v : Vol) (d : DriveNo) (i : Nat) (k : RecNo) : Vol :=
  allReqs.foldl (fun w r => w.modReq r (fun q =>
    if q.drive = d ∧ q.version = some (.entry i) then { q with version := some (.record k) } else q)) v

/-! ## Allocation (R31 to R33) -/

/-- The free sectors in the order of search from a start point (R31). -/
def searchOrder (free : List Nat) (start : Nat) : List Nat :=
  free.filter (fun x => start ≤ x) ++ free.filter (fun x => x < start)

/-- R31: the runs of a search order, each its first sector and its length. A run goes on only to the next
sector of the same track side. -/
def runsOf : List Nat → List (Nat × Nat)
  | [] => []
  | x :: xs => match runsOf xs with
    | [] => [(x, 1)]
    | (y, n) :: rest => if y = x + 1 ∧ y % 8 ≠ 0 then (x, n + 1) :: rest else (x, 1) :: (y, n) :: rest

/-- R32: the first run of at least n sectors. -/
def firstLongRun (n : Nat) (runs : List (Nat × Nat)) : Option (Nat × Nat) := runs.find? (fun p => n ≤ p.2)

/-- R32: the first run of the greatest length. -/
def longestRun : List (Nat × Nat) → Option (Nat × Nat)
  | [] => none
  | p :: rest => match longestRun rest with
    | none => some p
    | some q => if p.2 < q.2 then some q else some p

/-- R32: the sectors taken for n buffers: the first of them and how many; none when the free set is empty. -/
def chooseRun (free : List Nat) (start n : Nat) : Option (Nat × Nat) :=
  match firstLongRun n (runsOf (searchOrder free start)) with
  | some (x, _) => some (x, n)
  | none => longestRun (runsOf (searchOrder free start))

/-- R33: the pending extents with the run taken: the last extent grown when the run follows it on the same track
side, else a new extent; none when that would be the 13th. -/
def growExtents (es : List Extent) (start count : Nat) : Option (List Extent) :=
  match es.getLast? with
  | some l =>
    if dataIndex l.cyl l.side l.first + l.count = start ∧ start % 8 ≠ 0 then
      some (es.dropLast ++ [{ l with count := l.count + count }])
    else if es.length < Config.maxExtents then some (es ++ [extentOfRun start count])
    else none
  | none => some [extentOfRun start count]

/-- R31: the start point of an allocation: after the last allocated sector, or at the head's cylinder. -/
def startPoint (last : Option Nat) (head : Option Nat) : Nat :=
  match last with
  | some x => if x = Config.dataSectors - 1 then 0 else x + 1
  | none => match head with
    | some c => if c = 0 then 0 else dataIndex c 0 0
    | none => 0

end Sys2Proof.Machine
end

