-- ==== Sys2Proof/Machine/Clock.lean ====
section
/-! DEFINITION. The edition clock (R157 to R168) and the reading of the configuration table (R172 to R177). -/

namespace Sys2Proof.Machine

/-! ## The calendar -/

/-- R159: days of a month; a year divisible by 4 is a leap year, 00 included. -/
def monthDays (yy mm : Nat) : Nat :=
  if mm = 2 then (if yy % 4 = 0 then 29 else 28)
  else if mm = 4 ∨ mm = 6 ∨ mm = 9 ∨ mm = 11 then 30 else 31

/-- R157: the time fields form a valid date and time of the calendar. -/
def Clock.validDate (c : Clock) : Bool :=
  c.yy ≤ 99 && 1 ≤ c.mm && c.mm ≤ 12 && 1 ≤ c.dd && c.dd ≤ monthDays c.yy c.mm
    && c.hh ≤ 23 && c.mi ≤ 59 && c.ss ≤ 59

/-- R159: a carry into YY. -/
def Clock.carryYear (c : Clock) : Clock := { c with yy := if c.yy = 99 then 0 else c.yy + 1 }

/-- R159: a carry into MM. -/
def Clock.carryMonth (c : Clock) : Clock :=
  if c.mm = 12 then { c.carryYear with mm := 1 } else { c with mm := c.mm + 1 }

/-- R159: a carry into DD. -/
def Clock.carryDay (c : Clock) : Clock :=
  if c.dd = monthDays c.yy c.mm then { c.carryMonth with dd := 1 } else { c with dd := c.dd + 1 }

/-- R159: a carry into hh. -/
def Clock.carryHour (c : Clock) : Clock :=
  if c.hh = 23 then { c.carryDay with hh := 0 } else { c with hh := c.hh + 1 }

/-- R158: the length of the second that begins at an hour rollover. -/
def Clock.trimmedLength (c : Clock) : Nat := (32768 - c.trim).toNat

/-- R158, R159: a carry into mm; ss is set to 00, and the second that begins has its length fixed. -/
def Clock.carryMinute (c : Clock) : Clock :=
  if c.mi = 59 then { c.carryHour with mi := 0, ss := 0, prescaler := 0, secondLength := c.trimmedLength }
  else { c with mi := c.mi + 1, ss := 0, prescaler := 0, secondLength := 32768 }

/-- R158: the end of a second. -/
def Clock.endSecond (c : Clock) : Clock :=
  if c.ss = 59 then c.carryMinute
  else { c with ss := c.ss + 1, prescaler := 0, secondLength := 32768 }

/-- R163: ROUND: down within the minute, or one minute carried. -/
def Clock.rounded (c : Clock) : Clock :=
  if c.ss < 30 then { c with ss := 0, prescaler := 0, secondLength := 32768 } else c.carryMinute

/-- R164: the minute of the day. -/
def Clock.minute (c : Clock) : Nat := 60 * c.hh + c.mi

/-- R161: the six time fields in BCD. -/
def Clock.fields (c : Clock) : List Byte := [bcd c.yy, bcd c.mm, bcd c.dd, bcd c.hh, bcd c.mi, bcd c.ss]

/-- R161: the snapshot a commit or a FORMAT takes: six zero bytes while the clock is not valid. -/
def Clock.snapshot (c : Clock) : List Byte := if c.valid then c.fields else List.replicate 6 0

/-- R150: the snapshot TIME carries, with the clock-valid flag. -/
def Clock.report (c : Clock) : List Byte := c.fields ++ [if c.valid then 1 else 0]

/-- R160: the trim clamped. -/
def clampTrim (n : Int) : Int := if n < -2048 then -2048 else if 2047 < n then 2047 else n

/-! ## Editions -/

/-- R165: the open span. -/
def Edition.span (e : Edition) : Nat := (e.closes + 1440 - e.opens) % 1440

/-- R165: the arc state at a minute of the day. -/
def Edition.arcState (e : Edition) (m : Nat) : EditionState :=
  if (m + 1440 - e.opens) % 1440 < e.span - e.lead then .opened
  else if (m + 1440 - e.opens) % 1440 < e.span then .warning
  else .closed

/-- R168: an entry silently recomputed. -/
def Edition.recompute (e : Edition) (m : Nat) : Edition :=
  { e with state := if e.enabled then e.arcState m else .opened }

/-- R188: the state byte of an EDITION answer. -/
def EditionState.code : EditionState → Byte
  | .opened => 0 | .warning => 1 | .closed => 2

/-- The edition table's positions. -/
def allEditions : List (Fin 8) := [0, 1, 2, 3, 4, 5, 6, 7]

/-- An entry of the table changed. -/
def Battery.setEdition (b : Battery) (i : Fin 8) (e : Edition) : Battery :=
  { b with editions := b.editions.set i e }

/-- R168: every entry silently recomputed at the clock's present minute. -/
def Battery.recomputeAll (b : Battery) : Battery :=
  allEditions.foldl (fun w i => w.setEdition i ((w.editions[i]).recompute b.clock.minute)) b

/-- R167: an enabled entry whose arc state differs takes it at a minute event. -/
def Battery.evaluate (b : Battery) (i : Fin 8) : Battery :=
  let e := b.editions[i]
  if e.enabled then b.setEdition i { e with state := e.arcState b.clock.minute } else b

/-- R164: a minute event on the table: nothing while the clock is not valid. -/
def Battery.minuteEvent (b : Battery) : Battery :=
  if b.clock.valid then allEditions.foldl Battery.evaluate b else b

/-- R167: the editions that entered a state between two tables, as the set of R188. -/
def entered (st : EditionState) (before after : Battery) : Byte :=
  allEditions.foldl (fun acc i =>
    if (after.editions[i]).state = st ∧ (before.editions[i]).state ≠ st then acc ||| editionBit (i.val + 1)
    else acc) 0

/-- The state of edition e, 1 to 8; OPEN for 0, which no test consults. -/
def Battery.editionState (b : Battery) (e : Nat) : EditionState :=
  if h : 1 ≤ e ∧ e ≤ 8 then (b.editions[e - 1]'(by omega)).state else .opened

/-! ## The configuration table -/

/-- The settings of a drive. -/
def Battery.drive (b : Battery) (d : DriveNo) : DriveSettings := b.settings.drives[d]

/-- The settings of a line, if it is a desk line. -/
def Battery.desk (b : Battery) (k : Line) : Option LineSettings :=
  if h : k.val < 8 then some (b.settings.lines[k.val]'h) else none

/-- R125, R174: the stored rate code of a line. -/
def Battery.rate (b : Battery) (k : Line) : Nat :=
  match b.desk k with
  | some s => s.rate
  | none => b.settings.supervisorRate

/-- R130: a line's frames are taken: a desk line when it is enabled, the supervisor line always. -/
def Battery.lineEnabled (b : Battery) (k : Line) : Bool :=
  match b.desk k with
  | some s => s.enabled == 1
  | none => true

/-- R142: the class ceiling of a line; FLASH for the supervisor line. -/
def Battery.ceiling (b : Battery) (k : Line) : Nat :=
  match b.desk k with
  | some s => s.ceiling
  | none => 3

/-- R140, R174: a drive is in a line's read drive set. -/
def Battery.mayRead (b : Battery) (k : Line) (d : DriveNo) : Bool :=
  match b.desk k with
  | some s => s.readSet.testBit d.val
  | none => true

/-- R140, R174: a drive is in a line's file drive set. -/
def Battery.mayFile (b : Battery) (k : Line) (d : DriveNo) : Bool :=
  match b.desk k with
  | some s => s.fileSet.testBit d.val
  | none => true

/-- R174: the step time of a step code, in milliseconds. -/
def stepMillis (code : Nat) : Nat := ([3, 4, 5, 6, 8, 10, 12, 15] : List Nat).getD code 15

/-- The timing settings of a drive in angle units, an angle unit being 1/6 ms (R2). -/
structure Timing where
  step : Nat
  settle : Nat
  load : Nat
deriving DecidableEq, Repr

/-- R60, R177: a drive's timing as the settings stand. -/
def Battery.timing (b : Battery) (d : DriveNo) : Timing :=
  { step := 6 * stepMillis (b.drive d).stepCode, settle := 6 * (b.drive d).settle,
    load := 6 * (b.drive d).headLoad }

end Sys2Proof.Machine
end

