-- ==== Sys2Proof/Machine/Motion.lean ====
section
/-! DEFINITION. Positioning (R85 to R90): recalibration, steps, settle and head load, on the sequencer's own state.
The end of a step, of a settle and of a head load are commands; here is what follows each. -/

namespace Sys2Proof.Machine

/-- R85, R86: a recalibration begins: the head cylinder becomes unknown. A settle in progress goes on and one owed
for an earlier step stays owed (R66, R88): a step outward gives the one up and owes the other afresh. -/
def Sequencer.beginRecal (q : Sequencer) : Sequencer := { q with cyl := none, recal := none }

/-- R89: the head lowered when positioning begins with it unloaded; a load time of 0 loads it at once. -/
def Sequencer.lower (t : Timing) (q : Sequencer) : Sequencer :=
  match q.head with
  | .unloaded => { q with head := if t.load = 0 then .loaded else .loading t.load }
  | .loading _ => q
  | .loaded => q

/-- R88: a step begins; the step time is read now, and a settle is owed after the last step. -/
def Sequencer.beginStep (t : Timing) (inward : Bool) (q : Sequencer) : Sequencer :=
  { q with step := some { inward, units := t.step }, settle := none, settleOwed := true, phase := .positioning }

/-- R88, R89: the head stands on its target with no step owed: the settle, then the head load, then ready. -/
def Sequencer.arrive (t : Timing) (needsHead : Bool) (q : Sequencer) : Sequencer :=
  if q.settleOwed && t.settle != 0 then
    { q with settle := some t.settle, settleOwed := false, phase := .positioning }
  else if q.settle.isSome then { q with settleOwed := false, phase := .positioning }
  else if needsHead && q.head != .loaded then { q with settleOwed := false, phase := .positioning }
  else { q with settleOwed := false, phase := .ready }

/-- R85, R88: on from a known cylinder toward the target. -/
def Sequencer.seek (t : Timing) (target : Nat) (needsHead : Bool) (h : Nat) (q : Sequencer) : Sequencer :=
  if h = target then q.arrive t needsHead
  else q.beginStep t (h < target)

/-- R85, R86: positioning taken on from where the head stands. From an unknown cylinder the track-0 line is
sampled: true ends the recalibration on cylinder 0, false makes one step outward. A settle owed for a step made before,
toward whatever target, is still owed (R66, R88). -/
def Sequencer.go (t : Timing) (track0 : Bool) (target : Nat) (needsHead : Bool) (q : Sequencer) : Sequencer :=
  if q.step.isSome then { q with phase := .positioning }
  else match q.cyl with
    | some h => q.seek t target needsHead h
    | none =>
      if track0 then ({ q with cyl := some 0, recal := none } : Sequencer).seek t target needsHead 0
      else { q.beginStep t false with recal := some (q.recal.getD 0 + 1) }

/-- R12: the cylinder and side of track side n of 154. -/
def trackPlace (n : Nat) : Nat × Nat := (n / 2, n % 2)

/-- The cylinder and side a unit works on. -/
def UnitKind.place : UnitKind → Nat × Nat
  | .invalidate => (0, 0)
  | .track n => trackPlace n
  | .catalog half => (0, half)
  | .label => (0, 0)

/-- R7, R83: the side and sector of LOADING's read n: the label, then the catalog sectors. -/
def loadPlace (n : Nat) : Nat × Nat := if n ≤ 7 then (0, n) else (1, n - 8)

/-- The cylinder and side of the work in hand, and whether it needs the head loaded (R89, R100). -/
def Drive.target (x : Drive) : Option (Nat × Nat × Bool) :=
  match x.seq.job with
  | .none => none
  | .order => match x.sched.service with
    | none => none
    | some o => if o.kind = .recalibrate then some (0, x.seq.side, false) else some (o.cyl, o.side, true)
  | .loading l => some (0, (loadPlace l.sector).1, true)
  | .unit u => some (u.kind.place.1, u.kind.place.2, true)

/-- Positioning taken on for the work in hand: the side selected, the head lowered, and R85. -/
def Drive.go (t : Timing) (x : Drive) : Drive :=
  match x.target with
  | none => x
  | some (c, side, needsHead) =>
    let q := { x.seq with side }
    let q := if needsHead then q.lower t else q
    { x with seq := q.go t x.cable.track0 c needsHead }

/-- Positioning of a drive taken on. -/
def Vol.go (b : Battery) (d : DriveNo) (v : Vol) : Vol := v.modDrive d (Drive.go (b.timing d))

/-- R60, R85: the head cylinder as the scheduler sees it: the one a step in progress will reach. -/
def Sequencer.reported (q : Sequencer) : Option Nat :=
  match q.cyl with
  | none => none
  | some h => match q.step with
    | none => some h
    | some m => some (if m.inward then h + 1 else h - 1)

/-- R86, R66, R73: the work in hand taken away: a recalibration stops, a step, a settle and a head load in
progress go on. -/
def Sequencer.letGo (q : Sequencer) : Sequencer :=
  { q with job := .none, phase := .idle, recal := none }

/-- R92: the attempts on a fresh sector. -/
def Tries.fresh : Tries := { attempt := 1, badData := false, mispositioned := true, recalBegun := false }

/-- R93: the outcome of four failed attempts. -/
def Tries.outcome (t : Tries) : OutcomeCode :=
  if t.badData then .readFault else if t.mispositioned then .seekFault else .sectorMissing

/-- R92: a failed attempt counted: by a bad data check, or by a search that ended mispositioned or missing. -/
def Tries.failed (t : Tries) (bad mispositioned : Bool) : Tries :=
  { t with attempt := t.attempt + 1, badData := t.badData || bad,
           mispositioned := t.mispositioned && mispositioned }

/-- R94: the retry count raised by one, saturating at 255. -/
def raiseRetries (n : Nat) : Nat := if n < 255 then n + 1 else 255

/-- R94: a sector completed or exhausted adds one when it needed more than one attempt. -/
def Sequencer.countSector (t : Tries) (q : Sequencer) : Sequencer :=
  if 1 < t.attempt then { q with retries := raiseRetries q.retries } else q

/-- R83: LOADING's first read. -/
def LoadWork.begin : LoadWork := { sector := 0, tries := Tries.fresh, label := none, catalog := [] }

/-- R83: a drive entering LOADING. -/
def Drive.startLoading (t : Timing) (x : Drive) : Drive :=
  Drive.go t { x with
    seq := { x.seq with
      mount := .loading, retries := 0, writeProtected := x.cable.protect, stall := true,
      cyl := none, recal := none, unload := none, idleDue := true, job := .loading LoadWork.begin, phase := .positioning } }

/-- R83: LOADING started on a drive; a change into LOADING sets no notice (R78). -/
def Vol.startLoading (b : Battery) (d : DriveNo) (v : Vol) : Vol := v.modDrive d (Drive.startLoading (b.timing d))

end Sys2Proof.Machine
end

