-- ==== Sys2Proof/Machine/Scheduler.lean ====
section
/-! DEFINITION. The service scheduler: the making of orders (R49, R50), eligibility (R54), the access cost (R60 to
R64), and the order taken out of the queue, service or stack (R66, R67, R73). -/

namespace Sys2Proof.Machine

/-! ## Making orders -/

/-- R49: the class a READ, WRITE or CATALOG WRITE order of a request is made at. -/
def orderClass (b : Battery) (q : Request) (kind : OrderKind) : ServiceClass :=
  match kind with
  | .copyRead => .background
  | .copyWrite => .background
  | .recalibrate => .flash
  | _ =>
    if q.cls = .routine ∧ 1 ≤ q.edition ∧ b.editionState q.edition = .warning then .edition else q.cls

/-- R47: the pass an order begins in: writes in write, all others in read. -/
def OrderKind.firstPass : OrderKind → Pass
  | .write => .write | .catalogWrite => .write | .copyWrite => .write
  | .read => .read | .copyRead => .read | .recalibrate => .read

/-- The target of an order: its track side and run, the skipped sectors and the buffers it carries. -/
structure OrderPlace where
  cyl : Nat
  side : Nat
  first : Nat
  count : Nat
  skip : List Nat
  buffers : List BufNo
deriving DecidableEq, Repr

/-- R50: an order joins its drive's queue; on a drive with an order in service it is to be tested for
preemption (R65). -/
def Vol.makeOrder (b : Battery) (r : ReqId) (d : DriveNo) (kind : OrderKind) (p : OrderPlace) (v : Vol) : Vol :=
  match v.req r with
  | none => v
  | some q =>
    let s := (v.drive d).sched
    let o : Order :=
      { req := r, kind, cyl := p.cyl, side := p.side, first := p.first, count := p.count,
        cls := orderClass b q kind, bypass := 0, arrival := s.nextArrival, progress := 0,
        pass := kind.firstPass, tries := Tries.fresh, buffers := p.buffers, skip := p.skip,
        sampled := false, troubled := [] }
    let v := v.modSched d (fun s => { s with queue := s.queue ++ [o], nextArrival := s.nextArrival + 1 })
    if s.service.isSome then { v with tests := v.tests ++ [(d, o.arrival)] } else v

/-! ## Eligibility (R54) -/

/-- R54: a queued order could be served now. -/
def Vol.eligible (v : Vol) (o : Order) : Bool :=
  match o.kind with
  | .read => !o.buffers.isEmpty
      || (o.count ≤ v.freeBufs && v.heldBufs o.req + o.count ≤ Config.requestBuffers)
  | .copyRead => !o.buffers.isEmpty || Config.requestBuffers ≤ v.freeBufs
  | .write => true
  | .catalogWrite => true
  | .copyWrite => true
  | .recalibrate => true

/-- The eligible queued orders of a drive, oldest first. -/
def Vol.eligibleOrders (v : Vol) (d : DriveNo) : List Order := (v.drive d).sched.queue.filter v.eligible

/-! ## Access cost (R60 to R64) -/

/-- R61: the steps to an order's cylinder. -/
def stepsTo (head : Option Nat) (recal : Bool) (c : Nat) : Nat :=
  match head with
  | some h => if recal then h else if h ≤ c then c - h else h - c
  | none => if recal then 76 else 76 + c

/-- R61: the seek. -/
def seekUnits (t : Timing) (steps : Nat) : Nat := steps * t.step + (if steps = 0 then 0 else t.settle)

/-- R62: the positioning. -/
def positioning (t : Timing) (loaded : Bool) (seek : Nat) : Nat := if loaded then seek else max seek t.load

/-- R63: the wait for a sector's header after positioning. -/
def waitFor (angle pos sector : Nat) : Nat := (headerAngle sector + 1000 - (angle + pos) % 1000) % 1000

/-- R63: the cost of an order, from the head as the sequencer reports it and the timing settings. -/
def costOf (t : Timing) (head : Option Nat) (loaded : Bool) (angle : Nat) (o : Order) : Nat :=
  let recal := o.kind == .recalibrate
  let pos := positioning t loaded (seekUnits t (stepsTo head recal o.cyl))
  if recal then pos else pos + waitFor angle pos o.first

/-- R64: the effective cost; Nat subtraction stops at 0. -/
def effectiveCost (t : Timing) (head : Option Nat) (loaded : Bool) (angle : Nat) (o : Order) : Nat :=
  costOf t head loaded angle o - Config.bypassWorth * o.bypass

/-- R60: the effective cost of an order on its drive now. -/
def Drive.effectiveCost (t : Timing) (x : Drive) (o : Order) : Nat :=
  Sys2Proof.Machine.effectiveCost t x.seq.reported (x.seq.head == .loaded) x.seq.angle o

/-- R57: the order of least effective cost, the oldest of those that share it. -/
def leastCost (cost : Order → Nat) : List Order → Option Order
  | [] => none
  | o :: rest => match leastCost cost rest with
    | none => some o
    | some p => if cost p < cost o then some p else some o

/-- R57: the choice among the eligible orders of class Q: the oldest due one, else the least effective cost. -/
def chooseOrder (cost : Order → Nat) (os : List Order) : Option Order :=
  match os.find? (fun o => o.bypass == Config.dueCount) with
  | some o => some o
  | none => leastCost cost os

/-- R56: the highest class among orders. -/
def topRank (os : List Order) : Nat := os.foldl (fun n o => max n o.cls.rank) 0

/-- R58: a bypass count raised by one, at most 8. -/
def Order.passOver (o : Order) : Order := { o with bypass := min (o.bypass + 1) Config.dueCount }

/-! ## Taking orders out -/

/-- R50, R66: an order put at its own arrival position. -/
def insertByArrival (o : Order) : List Order → List Order
  | [] => [o]
  | x :: xs => if o.arrival < x.arrival then o :: x :: xs else x :: insertByArrival o xs

/-- The occupied slots of a suspend stack, the copy cursor counted (R52, R53). -/
def Scheduler.depth (s : Scheduler) : Nat := s.stack.length + (if s.cursor.isSome then 1 else 0)

/-- The order in service leaves service; a pending preemption lapses with it. -/
def Drive.leaveService (x : Drive) : Drive :=
  { x with seq := { x.seq.letGo with idleDue := true },
           sched := { x.sched with service := none, pending := false } }

/-- R66: an early preemption: the order in service returns to the queue at its own arrival position. -/
def Drive.preemptEarly (x : Drive) : Drive :=
  match x.sched.service with
  | none => x
  | some o =>
    let y := x.leaveService
    { y with sched := { y.sched with queue := insertByArrival o y.sched.queue } }

/-- R67: the order in service pushed onto the stack, its attempt number 1 for the next sector. -/
def Drive.push (x : Drive) : Drive :=
  match x.sched.service with
  | none => x
  | some o =>
    let y := x.leaveService
    { y with sched := { y.sched with stack := y.sched.stack ++ [{ o with tries := Tries.fresh }] } }

/-- R65: the order in service is in its early state: no sector completed in its current pass, no transfer in
progress, not in its verify pass. -/
def Drive.early (x : Drive) : Bool :=
  match x.sched.service with
  | none => false
  | some o => o.progress == 0 && o.pass != .verify && x.seq.phase != .transfer

/-- R73, R100: the order in service must first reach the point where it may end: a sector transfer is in progress, it is
in its verify pass, or it is a RECALIBRATE with a step in progress. -/
def Drive.mustReachBoundary (x : Drive) : Bool :=
  match x.sched.service with
  | none => false
  | some o => o.pass == .verify || x.seq.phase == .transfer || (o.kind == .recalibrate && x.seq.step.isSome)

/-- R73: a request's order on a drive taken out where it may be at once; false when it stays in service until
its boundary. A RECALIBRATE order stays until the end of its step in progress: the model takes R100, which speaks of it
alone, before R73 (log 37). -/
def Drive.takeOut (r : ReqId) (x : Drive) : Drive × Bool :=
  match x.sched.service with
  | some o =>
    if o.req = r then (if x.mustReachBoundary then (x, false) else (x.leaveService, true))
    else ({ x with sched := { x.sched with
      queue := x.sched.queue.filter (fun p => p.req != r),
      stack := x.sched.stack.filter (fun p => p.req != r) } }, true)
  | none => ({ x with sched := { x.sched with
      queue := x.sched.queue.filter (fun p => p.req != r),
      stack := x.sched.stack.filter (fun p => p.req != r) } }, true)

/-- R73: a request's order taken out wherever it is; true when none is left. -/
def Vol.takeOut (v : Vol) (r : ReqId) (d e : DriveNo) : Vol × Bool :=
  let a := (v.drive d).takeOut r
  let v1 := v.modDrive d (fun _ => a.1)
  if d = e then (v1, a.2)
  else
    let c := (v1.drive e).takeOut r
    (v1.modDrive e (fun _ => c.1), a.2 && c.2)

end Sys2Proof.Machine
end

