-- ==== Sys2Proof/Machine/Requests.lean ====
section
/-! DEFINITION. The life of a request (R101 to R118): its end and what is then released (R103), the reader of a
version and its READ orders (R106, R107), the filing's write orders (R114), and the commit and spike
(R34 to R42). -/

namespace Sys2Proof.Machine

/-! ## The end of a request -/

/-- R28: a DRAW that ends with an outcome other than DONE drops its line's hold on the entry, where the entry in its
slot still is the story it was admitted on (log 26). -/
def Vol.dropDraw (r : ReqId) (q : Request) (oc : OutcomeCode) (v : Vol) : Vol :=
  if q.kind = .draw ∧ q.onEntry = true ∧ oc ≠ .done then
    v.modEntry q.drive q.slot (fun e => if e.holder = some (reqLine r) then { e with holder := none } else e)
  else v

/-- R33, R118: a filing that ends before its commit completes: its pending sectors return to the free set, the
suspect ones excepted; a reserved-new slot is released; the entry's reference goes. -/
def Vol.dropFiling (r : ReqId) (q : Request) (v : Vol) : Vol :=
  match q.session with
  | none => v
  | some ses =>
    let v := v.modMirror q.drive (fun m =>
      { m with free := addSectors m.free (removeSectors (extentSectors ses.pending) m.suspect) })
    v.modEntry q.drive q.slot (fun e =>
      if e.filing = some r then { e with filing := none, reserved := none } else e)

/-- R41, R103: a SPIKE that ends clears its entry's spike field. -/
def Vol.dropSpike (r : ReqId) (q : Request) (v : Vol) : Vol :=
  if q.kind = .spike then
    v.modEntry q.drive q.slot (fun e => if e.spike = some r then { e with spike := none } else e)
  else v

/-- R103: everything a request lets go of at the moment it ends. -/
def Vol.letGo (r : ReqId) (oc : OutcomeCode) (v : Vol) : Vol :=
  match v.req r with
  | none => v
  | some q => (((v.releaseReader r).dropDraw r q oc).dropFiling r q |>.dropSpike r q).returnAll r

/-- R103: a request ends with an outcome: its releases, then its final reply, or, for one that ends without a
reply, its slot freed at once. -/
def Vol.finish (r : ReqId) (oc : OutcomeCode) (data : List Byte) (direct : Bool) (v : Vol) : Vol :=
  match v.req r with
  | none => v
  | some q =>
    let v := v.letGo r oc
    if q.silent then v.setReq r none
    else
      (v.modReq r (fun q => { q with stage := .answered, outcome := some oc, chain := [], filled := 0,
                                     session := none, catBuf := none })).reqAnswer r oc data direct true

/-- The outcome an ENDING request was given by its cause (R102). -/
def Request.decided (q : Request) : OutcomeCode := q.outcome.getD .cancelled

/-! ## Fetching -/

/-- R107: the READ order for a fetch's next extent. -/
def Vol.readNext (b : Battery) (r : ReqId) (v : Vol) : Vol :=
  match v.req r with
  | none => v
  | some q => match q.info.extents[q.ordersMade]? with
    | none => v
    | some e =>
      (v.makeOrder b r q.drive .read ⟨e.cyl, e.side, e.first, e.count, [], []⟩).modReq r
        (fun q => { q with ordersMade := q.ordersMade + 1 })

/-- R110: the data of a fetch's DONE answer. -/
def VersionInfo.data (i : VersionInfo) : List Byte := be16 i.length ++ be16 i.revision ++ i.timestamp

/-- R106: a fetch becomes a reader of the entry in a slot; a DRAW sets its hold; a version without extents is
released and answered at once. -/
def Vol.becomeReader (b : Battery) (r : ReqId) (slot : Nat) (direct : Bool) (v : Vol) : Vol :=
  match v.req r with
  | none => v
  | some q => match v.entry q.drive slot with
    | none => v
    | some e =>
      let info : VersionInfo :=
        { length := e.image.length, revision := e.image.revision,
          timestamp := e.image.timestamp, extents := e.image.extents }
      let v := v.modEntry q.drive slot (fun e => { e with readers := e.readers + 1 })
      let v := if q.kind = .draw then v.setHold q.drive slot (reqLine r) else v
      let v := v.modReq r (fun q =>
        { q with version := some (.entry slot), info, slot, onEntry := true, stage := .reading })
      if info.extents.isEmpty then (v.releaseReader r).finish r .done info.data direct
      else v.readNext b r

/-- R36: a request that waited for a catalog write goes on against the entry as it is then served. -/
def Vol.proceed (b : Battery) (r : ReqId) (v : Vol) : Vol :=
  match v.req r with
  | none => v
  | some q => match (v.mirror q.drive).bind (fun m => m.lookup q.slug) with
    | none => v.finish r .notFound [] false
    | some slot =>
      if q.kind = .draw && Config.lineHolds ≤ v.holdCount (reqLine r)
          && (v.entry q.drive slot).bind Entry.holder != some (reqLine r) then
        v.finish r .noSlot [] false
      else v.becomeReader b r slot false

/-- R36, R37: the requests waiting on a slot's catalog write, earliest admitted first, go on. -/
def Vol.wake (b : Battery) (d : DriveNo) (slot : Nat) (v : Vol) : Vol :=
  (v.byAge allReqs).foldl (fun w r => match w.req r with
    | none => w
    | some q =>
      if (q.kind = .fetch ∨ q.kind = .draw) ∧ q.stage = .waiting ∧ q.drive = d ∧ q.slot = slot then
        w.proceed b r
      else w) v

/-! ## The write orders of a filing -/

/-- A filing's session changed. -/
def Vol.modSession (v : Vol) (r : ReqId) (f : Session → Session) : Vol :=
  v.modReq r (fun q => { q with session := q.session.map f })

/-- R114: a filing forms a write order for its full buffers: allocation places them, or the filing ends. -/
def Vol.formWrite (b : Battery) (r : ReqId) (direct : Bool) (v : Vol) : Vol :=
  match v.req r with
  | none => v
  | some q => match q.session, v.mirror q.drive with
    | some ses, some m =>
      let n := min Config.requestBuffers ses.full.length
      match chooseRun m.free (startPoint ses.lastSector (v.drive q.drive).seq.cyl) n with
      | none => v.finish r .disketteFull [] direct
      | some (x, k) => match growExtents ses.pending x k with
        | none => v.finish r .fragmented [] direct
        | some es =>
          let v := v.modMirror q.drive (fun m =>
            { m with free := removeSectors m.free (extentSectors [extentOfRun x k]) })
          let v := v.modSession r (fun ses =>
            { ses with pending := es, lastSector := some (x + k - 1), full := ses.full.drop k })
          let e := extentOfRun x k
          v.makeOrder b r q.drive .write ⟨e.cyl, e.side, e.first, e.count, [], ses.full.take k⟩
    | _, _ => v

/-! ## Commit and spike -/

/-- R34, R41: a commit or spike has a buffer or can take one. -/
def Vol.hasBuffer (v : Vol) (q : Request) : Bool := q.catBuf.isSome || 1 ≤ v.freeBufs

/-- R34, R41: the current version of the entry has readers, so a retired record is needed. -/
def Vol.needsRecord (v : Vol) (q : Request) : Bool :=
  match v.entry q.drive q.slot with
  | none => false
  | some e => 0 < e.readers

/-- R34, R41: both needs are met. -/
def Vol.canWrite (v : Vol) (q : Request) : Bool :=
  v.hasBuffer q && (!v.needsRecord q || v.freeRecord.isSome)

/-- R35: the new image of a commit. -/
def commitImage (e : Entry) (g : List Byte) (ses : Session) (stamp : List Byte) : SlotImage :=
  { state := .filed, slug := g, edition := ses.edition,
    revision := if e.reserved.isSome then 1 else min (e.image.revision + 1) 65535,
    timestamp := stamp, length := ses.length, extents := ses.pending }

/-- R34, R41: the buffer of a commit or spike: the one kept, else one taken from the pool. -/
def Vol.catalogBuffer (v : Vol) (r : ReqId) (q : Request) : Option (BufNo × Vol) :=
  match q.catBuf with
  | some x => some (x, v)
  | none => v.takeBuf r

/-- R35, R41: a commit enters COMMITTING, or a spike WRITING: it claims a record when the version has readers,
sets the catalog write, and queues its CATALOG WRITE order. -/
def Vol.enterWrite (b : Battery) (r : ReqId) (v : Vol) : Vol :=
  match v.req r with
  | none => v
  | some q => match v.entry q.drive q.slot, v.catalogBuffer r q with
    | some e, some (x, v) =>
      let rec? := if 0 < e.readers then v.freeRecord else none
      let v := match rec? with
        | some k => v.setRecord k (.claimed q.drive r)
        | none => v
      let image := match q.session with
        | some ses => commitImage e q.slug ses b.clock.snapshot
        | none => SlotImage.freeImage
      let v := v.modEntry q.drive q.slot (fun e =>
        { e with catWrite := some { req := r, spike := q.kind == .spike, image, record := rec? } })
      let v := v.modReq r (fun q =>
        { q with stage := if q.kind = .spike then .writing else .committing, catBuf := some x })
      let p := slotPlace q.slot
      v.makeOrder b r q.drive .catalogWrite ⟨0, p.1, p.2, 1, [], [x]⟩
    | _, _ => v

/-- R34, R41: the commit is due, or the spike admitted: into its catalog write when both needs are met, else it
begins to wait. What it waits for may change while it waits; R27's moment stays this one (log 36). -/
def Vol.writeDue (b : Battery) (r : ReqId) (v : Vol) : Vol :=
  match v.req r with
  | none => v
  | some q =>
    if v.canWrite q then v.enterWrite b r
    else
      (v.modReq r (fun q =>
        { q with stage := if q.kind = .spike then .waiting else .commitWait, waitSince := v.stamp })).nextStamp

/-- R34, R104: a filing that holds no buffer when its commit is due takes one that is free then, even where it must
wait for a record. -/
def Vol.takeForCommit (r : ReqId) (v : Vol) : Vol :=
  match (v.req r).bind Request.catBuf with
  | some _ => v
  | none => match v.takeBuf r with
    | none => v
    | some (x, w) => w.modReq r (fun q => { q with catBuf := some x })

/-- R34: the commit of a filing is due: its buffer, then its catalog write or COMMIT WAIT. -/
def Vol.commitDue (b : Battery) (r : ReqId) (v : Vol) : Vol := (v.takeForCommit r).writeDue b r

/-- R37, R42: the old version leaves an entry: its sectors join the free set, or go with its readers to the
claimed record. -/
def Vol.retireOld (d : DriveNo) (slot : Nat) (e : Entry) (w : CatWrite) (v : Vol) : Vol :=
  match w.record with
  | none => v.addFree d (extentSectors e.image.extents)
  | some k =>
    if e.readers = 0 then (v.setRecord k .free).addFree d (extentSectors e.image.extents)
    else (v.setRecord k (.inUse d e.image.extents e.readers)).moveReaders d slot k

/-- R38, R42: a claimed record returned to free. -/
def Vol.unclaim (w : CatWrite) (v : Vol) : Vol :=
  match w.record with
  | none => v
  | some k => v.setRecord k .free

/-- R37: a DRAW of a line on an entry is open; one whose story in that slot was spiked is not on the entry. -/
def Vol.drawOpen (v : Vol) (k : Line) (d : DriveNo) (slot : Nat) : Bool :=
  (lineReqs k).any (fun r => match v.req r with
    | none => false
    | some q => q.kind == .draw && q.onEntry && q.drive == d && q.slot == slot && q.stage != .answered)

/-- R42: the story of a slot is gone: no request is on that entry any longer. -/
def Vol.leaveEntry (d : DriveNo) (slot : Nat) (v : Vol) : Vol :=
  allReqs.foldl (fun w r => w.modReq r (fun q =>
    if q.drive = d ∧ q.slot = slot then { q with onEntry := false } else q)) v

/-- R37: the hold after a commit: the filing line's is dropped when keep-hold is clear, unless a DRAW of that
line on the entry is open. -/
def holderAfter (holder : Option Line) (k : Line) (keep drawing : Bool) : Option Line :=
  if holder = some k ∧ keep = false ∧ drawing = false then none else holder

/-- R37: the data of a filing's DONE answer. -/
def SlotImage.doneData (w : SlotImage) : List Byte := be16 w.revision ++ w.timestamp

/-- R37: a commit's CATALOG WRITE completes verified. -/
def Vol.commitDone (b : Battery) (r : ReqId) (q : Request) (e : Entry) (w : CatWrite) (v : Vol) : Vol :=
  let keep := match q.session with
    | some ses => ses.keepHold
    | none => false
  let drawing := v.drawOpen (reqLine r) q.drive q.slot
  let v := v.retireOld q.drive q.slot e w
  let v := v.modEntry q.drive q.slot (fun e =>
    { e with image := w.image, readers := 0, reserved := none, catWrite := none, filing := none,
             holder := holderAfter e.holder (reqLine r) keep drawing })
  let v := v.modSession r (fun ses => { ses with pending := [] })
  (v.finish r .done w.image.doneData false).wake b q.drive q.slot

/-- R42: a SPIKE's CATALOG WRITE completes verified. -/
def Vol.spikeDone (b : Battery) (r : ReqId) (q : Request) (e : Entry) (w : CatWrite) (v : Vol) : Vol :=
  let v := v.retireOld q.drive q.slot e w
  let v := v.modEntry q.drive q.slot (fun e =>
    { e with image := SlotImage.freeImage, readers := 0, catWrite := none, spike := none, holder := none })
  let v := v.leaveEntry q.drive q.slot
  (v.finish r .done [] false).wake b q.drive q.slot

/-- R38, R42, R45: a CATALOG WRITE fails: the entry stays as it is served, and the drive takes the catalog fault
condition for every outcome but WRITE PROTECTED. -/
def Vol.catalogWriteFailed (b : Battery) (r : ReqId) (q : Request) (w : CatWrite) (oc : OutcomeCode)
    (v : Vol) : Vol :=
  let v := v.unclaim w
  let v := v.modEntry q.drive q.slot (fun e => { e with catWrite := none })
  let v := if oc = .writeProtected then v else v.modCat q.drive (fun c => { c with fault := true })
  (v.finish r oc [] false).wake b q.drive q.slot

/-- R37, R38, R42: the end of a CATALOG WRITE order. -/
def Vol.catalogWriteEnd (b : Battery) (r : ReqId) (oc : OutcomeCode) (v : Vol) : Vol :=
  match v.req r with
  | none => v
  | some q => match v.entry q.drive q.slot with
    | none => v
    | some e => match e.catWrite with
      | none => v
      | some w =>
        if oc ≠ .done then v.catalogWriteFailed b r q w oc
        else if q.kind = .spike then v.spikeDone b r q e w
        else v.commitDone b r q e w

end Sys2Proof.Machine
end

