-- ==== Sys2Proof/Machine/Units.lean ====
section
/-! DEFINITION. The units of FORMAT (R11 to R15) and of a COPY's destination (R180, R183, R184), the COPY's orders
(R181, R182) and its end (R185), and the cancelling of a request (R119, R120, R186). -/

namespace Sys2Proof.Machine

/-! ## Ends of a FORMAT and a COPY -/

/-- R13, R15: a FORMAT that fails or is cancelled: the drive goes to UNFORMATTED with its notice, and the
request ends. -/
def Vol.formatStops (d : DriveNo) (r : ReqId) (oc : OutcomeCode) (v : Vol) : Vol :=
  let v := v.modSeq d (fun q => { q.letGo with idleDue := true })
  (v.changeMount d .unformatted).finish r oc [] false

/-- R11, R14: a FORMAT ends and its drive reloads. -/
def Vol.formatReloads (b : Battery) (d : DriveNo) (r : ReqId) (oc : OutcomeCode) (data : List Byte) (direct : Bool)
    (v : Vol) : Vol :=
  ((v.modSeq d Sequencer.letGo).finish r oc data direct).startLoading b d

/-- R53, R183: the cursor removed from a source's stack and its copy-source condition cleared. -/
def Vol.releaseSource (d : DriveNo) (v : Vol) : Vol :=
  (v.modSched d (fun s => { s with cursor := none })).modCat d (fun c => { c with copySource := false })

/-- R184, R185: a COPY ends: its buffers return, the source is released if it is still named, a destination
still in RECEIVING reloads, and the outcome is answered. -/
def Vol.copyEnd (b : Battery) (r : ReqId) (oc : OutcomeCode) (direct : Bool) (v : Vol) : Vol :=
  match v.req r with
  | none => v
  | some q =>
    let held := match q.copy with
      | some c => c.holdsSource
      | none => false
    let still := match q.copy with
      | some c => c.holdsDest
      | none => false
    let v := if held then v.releaseSource q.drive else v
    let v := v.finish r oc [] direct
    if still && v.mount q.dest == .receiving then (v.modSeq q.dest Sequencer.letGo).startLoading b q.dest else v

/-! ## Units -/

/-- The sectors of a unit in the order of its passes; a track-side unit's order is fixed when its write pass
starts (R12, R14). -/
def UnitKind.sectors : UnitKind → List Nat
  | .invalidate => [0]
  | .track _ => [0, 1, 2, 3, 4, 5, 6, 7]
  | .catalog half => if half = 0 then [1, 2, 3, 4, 5, 6, 7] else [0, 1, 2, 3, 4, 5, 6, 7]
  | .label => [0]

/-- R14, R184: the label a unit writes: FORMAT's with the clock's snapshot, COPY's as recorded. The snapshot is taken as
the unit is begun: the model's choice (log 46). -/
def unitLabel (b : Battery) (q : Request) : List Byte :=
  match q.copy, q.format with
  | some c, _ => labelBytes c.volume c.date c.badCount (c.bads.take c.badCount)
  | none, some f => labelBytes f.volume b.clock.snapshot f.bads.length f.bads
  | none, none => zeroSector

/-- R11, R13, R14, R180, R183, R184: a unit whose write-protect sample reads protected is not begun. An invalidation
unit's is sampled as its command is taken, so its answer is a direct one (R133). -/
def Vol.unitProtected (b : Battery) (d : DriveNo) (r : ReqId) (copy : Bool) (kind : UnitKind) (v : Vol) : Vol :=
  let v := v.modSeq d (fun q => { q with writeProtected := true })
  if copy then v.copyEnd b r .writeProtected (kind == .invalidate)
  else match kind with
    | .invalidate => v.formatReloads b d r .writeProtected [] true
    | .track _ => v.formatStops d r .writeProtected
    | .catalog _ => v.formatStops d r .writeProtected
    | .label => v.formatStops d r .writeProtected

/-- The sequencer takes a unit in hand and begins its positioning. -/
def Vol.placeUnit (b : Battery) (d : DriveNo) (u : UnitWork) (v : Vol) : Vol :=
  (v.modSeq d (fun q =>
    { q with job := .unit u, phase := .positioning, unload := none, idleDue := true })).go b d

/-- A unit is begun: the write-protect line sampled first (R82). A FORMAT's label is made here, before positioning and
the wait for its header, with the clock as it stands now: of the moments R14 and R161 leave open the model's choice
(log 46). -/
def Vol.beginUnit (b : Battery) (d : DriveNo) (r : ReqId) (copy : Bool) (kind : UnitKind) (v : Vol) : Vol :=
  match v.req r with
  | none => v
  | some q =>
    if (v.drive d).cable.protect then v.unitProtected b d r copy kind
    else
      let image := match kind with
        | .label => unitLabel b q
        | .invalidate => zeroSector
        | .track _ => zeroSector
        | .catalog _ => zeroSector
      v.placeUnit b d { kind, req := r, copy, sectors := kind.sectors, todo := kind.sectors, failed := [], image }

/-! ## The COPY's orders -/

/-- R181: the story sectors of a track side of the source. -/
def storySectors (m : Mirror) (cyl side : Nat) : List Nat :=
  (List.range 8).filter (fun n => (filedSectors m.slots).contains (dataIndex cyl side n))

/-- R182: the write sectors of a track side of the destination. -/
def writeSectors (bads : List Nat) (cyl side : Nat) : List Nat :=
  (List.range 8).filter (fun n => !bads.contains (dataIndex cyl side n))

/-- R181, R182: the run from the lowest sector of a set to the highest, with the sectors within it that are not
in the set; a run of no sectors for the empty set. -/
def runOfSet (cyl side : Nat) (xs : List Nat) (bufs : List BufNo) : OrderPlace :=
  match xs.head?, xs.getLast? with
  | some lo, some hi =>
    { cyl, side, first := lo, count := hi + 1 - lo,
      skip := ((List.range 8).filter (fun n => lo ≤ n && n ≤ hi && !xs.contains n)), buffers := bufs }
  | _, _ => { cyl, side, first := 0, count := 0, skip := [], buffers := bufs }

/-- R181: the COPY READ for the track side the cursor names. -/
def Vol.copyReadNext (b : Battery) (r : ReqId) (v : Vol) : Vol :=
  match v.req r with
  | none => v
  | some q => match (v.drive q.drive).sched.cursor, v.mirror q.drive with
    | some (c, side), some m => v.makeOrder b r q.drive .copyRead (runOfSet c side (storySectors m c side) [])
    | _, _ => v

/-- R182: the cursor advances; after cylinder 76, side 1, it names cylinder 0 and the COPY enters CATALOG. -/
def Vol.copyAdvance (b : Battery) (r : ReqId) (v : Vol) : Vol :=
  match v.req r with
  | none => v
  | some q => match (v.drive q.drive).sched.cursor with
    | none => v
    | some (c, side) =>
      let setCursor := fun (p : Nat × Nat) (w : Vol) => w.modSched q.drive (fun s => { s with cursor := some p })
      if side = 0 then (setCursor (c, 1) v).copyReadNext b r
      else if c < Config.lastCylinder then (setCursor (c + 1, 0) v).copyReadNext b r
      else
        ((setCursor (0, 0) v).modReq r (fun q => { q with stage := .catalog })).beginUnit b q.dest r true
          (.catalog 0)

/-- R182: what a COPY does when its COPY READ ends DONE: the COPY WRITE, or, with no write sector, the buffers
returned and the cursor advanced. -/
def Vol.copyWriteNext (b : Battery) (r : ReqId) (o : Order) (v : Vol) : Vol :=
  match v.req r with
  | none => v
  | some q =>
    let bads := match q.copy with
      | some c => c.bads
      | none => []
    let ws := writeSectors bads o.cyl o.side
    if ws.isEmpty then (v.returnBufs o.buffers).copyAdvance b r
    else v.makeOrder b r q.dest .copyWrite (runOfSet o.cyl o.side ws o.buffers)

/-! ## Cancelling -/

/-- R102: a request enters ENDING with the outcome its cause gave. -/
def Vol.setEnding (r : ReqId) (oc : OutcomeCode) (v : Vol) : Vol :=
  v.modReq r (fun q => { q with stage := .ending, outcome := some oc })

/-- R73, R102: a request's order taken out where it may be at once, and the request ended, else put in ENDING
until the order's boundary. -/
def Vol.endWithOrder (r : ReqId) (oc : OutcomeCode) (direct : Bool) (v : Vol) : Vol :=
  match v.req r with
  | none => v
  | some q =>
    let p := v.takeOut r q.drive q.dest
    if p.2 then p.1.finish r oc [] direct else p.1.setEnding r oc

/-- R73, R186: the same for a COPY in TRACKS. -/
def Vol.copyStops (b : Battery) (r : ReqId) (oc : OutcomeCode) (direct : Bool) (v : Vol) : Vol :=
  match v.req r with
  | none => v
  | some q =>
    let p := v.takeOut r q.drive q.dest
    if p.2 then p.1.copyEnd b r oc direct else p.1.setEnding r oc

/-- R15, R186: a FORMAT's or COPY's label unit is in progress. -/
def Vol.inLabelUnit (v : Vol) (q : Request) : Bool :=
  match q.kind with
  | .format => match (v.drive q.drive).seq.job with
    | .unit u => u.kind == .label
    | .none => false
    | .order => false
    | .loading _ => false
  | .copy => q.stage == .label
  | .fetch => false
  | .draw => false
  | .file => false
  | .spike => false
  | .recal => false

/-- R119, R120: the stages in which a CANCEL comes too late. -/
def Vol.tooLate (v : Vol) (q : Request) : Bool :=
  q.stage == .answered || q.stage == .committing || q.stage == .writing || v.inLabelUnit q

/-- R120, R15, R186: a cancellation taken on a request that is neither ENDING nor too late. A final answer it makes
is made as the CANCEL's frame is taken, and so is a direct one (R119, R133). -/
def Vol.cancelRequest (b : Battery) (r : ReqId) (v : Vol) : Vol :=
  match v.req r with
  | none => v
  | some q => match q.kind with
    | .format => v.setEnding r .cancelled
    | .copy => if q.stage = .tracks then v.copyStops b r .cancelled true else v.setEnding r .cancelled
    | .fetch => v.endWithOrder r .cancelled true
    | .draw => v.endWithOrder r .cancelled true
    | .file => v.endWithOrder r .cancelled true
    | .spike => v.endWithOrder r .cancelled true
    | .recal => v.endWithOrder r .cancelled true

end Sys2Proof.Machine
end

