-- ==== Sys2Proof/Machine/Orders.lean ====
section
/-! DEFINITION. The work of the sequencer on orders, LOADING and units: what follows a sector, an attempt, a pass, the
end of an order (R59, R91 to R96), of LOADING (R84) and of a unit (R12 to R15, R180 to R184). -/

namespace Sys2Proof.Machine

/-! ## The end of an order -/

/-- R107: a fetch's READ order ended DONE: the next extent's order, or the reader released and DELIVERING. -/
def Vol.fetchOrderDone (b : Battery) (r : ReqId) (v : Vol) : Vol :=
  match v.req r with
  | none => v
  | some q =>
    if q.ordersMade < q.info.extents.length then v.readNext b r
    else (v.releaseReader r).modReq r (fun q => { q with stage := .delivering })

/-- R115: a filing's write order ended DONE. Which of the last order's buffers stays for the catalog write is the model's
choice: the first (log 43). -/
def Vol.writeOrderDone (b : Battery) (r : ReqId) (o : Order) (v : Vol) : Vol :=
  match v.req r with
  | none => v
  | some q => match q.session with
    | none => v
    | some ses =>
      if !ses.full.isEmpty then (v.returnBufs o.buffers).formWrite b r false
      else if q.stage = .closing then
        ((v.returnBufs o.buffers.tail).modReq r (fun q => { q with catBuf := o.buffers.head? })).commitDue b r
      else v.returnBufs o.buffers

/-- R59, step 2: an ended order's outcome goes to its request. A request in ENDING takes the outcome its cause
gave (R102). -/
def Vol.respond (b : Battery) (o : Order) (oc : OutcomeCode) (v : Vol) : Vol :=
  match v.req o.req with
  | none => v
  | some q =>
    if q.stage = .ending then
      (if q.kind = .copy then v.copyEnd b o.req q.decided false else v.finish o.req q.decided [] false)
    else match o.kind with
      | .read => if oc = .done then v.fetchOrderDone b o.req else v.finish o.req oc [] false
      | .write => if oc = .done then v.writeOrderDone b o.req o else v.finish o.req oc [] false
      | .catalogWrite => v.catalogWriteEnd b o.req oc
      | .copyRead => if oc = .done then v.copyWriteNext b o.req o else v.copyEnd b o.req oc false
      | .copyWrite =>
        if oc = .done then (v.returnBufs o.buffers).copyAdvance b o.req else v.copyEnd b o.req oc false
      | .recalibrate => v.finish o.req oc [] false

/-- R59: the order in service of a drive ends with an outcome. The selection that follows is step 3; it is made
when the command's other effects are done (log 5). -/
def Vol.orderEnd (b : Battery) (d : DriveNo) (oc : OutcomeCode) (v : Vol) : Vol :=
  match (v.drive d).sched.service with
  | none => v
  | some o => (v.modDrive d Drive.leaveService).respond b o oc

/-! ## Sectors and attempts of an order -/

/-- The order in service of a drive changed. -/
def Vol.modService (v : Vol) (d : DriveNo) (f : Order → Order) : Vol :=
  v.modSched d (fun s => { s with service := s.service.map f })

/-- The phase of a drive's sequencer set. -/
def Vol.setPhase (v : Vol) (d : DriveNo) (p : Phase) : Vol := v.modSeq d (fun q => { q with phase := p })

/-- R91: a search begins. -/
def Phase.search : Phase := .searching 0 false false

/-- The sector an order is to work next. -/
def Order.sector (o : Order) : Nat := o.first + o.progress

/-- The sectors of an order's run that are worked, in sector order (R181, R182). -/
def Order.sectors (o : Order) : List Nat :=
  ((List.range o.count).map (fun i => o.first + i)).filter (fun n => !o.skip.contains n)

/-- R181: progress past the skipped sectors that follow, at most `fuel` of them. -/
def skipOver (skip : List Nat) (first : Nat) : Nat → Nat → Nat
  | 0, p => p
  | fuel + 1, p => if skip.contains (first + p) then skipOver skip first fuel (p + 1) else p

/-- The buffer of an order for a sector: a COPY's buffer k is sector k's (R181), any other order's are in the
order of its run. -/
def Order.bufferFor (o : Order) (sector : Nat) : Option BufNo :=
  match o.kind with
  | .copyRead => o.buffers[sector]?
  | .copyWrite => o.buffers[sector]?
  | .read => o.buffers[sector - o.first]?
  | .write => o.buffers[sector - o.first]?
  | .catalogWrite => o.buffers[sector - o.first]?
  | .recalibrate => none

/-- The bytes an order writes to a sector. -/
def Vol.sectorData (v : Vol) (o : Order) (sector : Nat) : List Byte :=
  match o.bufferFor sector with
  | none => zeroSector
  | some x => (v.buf x).data

/-- R35: the catalog sector composed in the buffer of a CATALOG WRITE, when a write of it begins. -/
def Vol.composeFor (o : Order) (d : DriveNo) (v : Vol) : Vol :=
  match o.kind, o.buffers.head?, v.req o.req, v.mirror d with
  | .catalogWrite, some x, some q, some m => v.fillBuf x (composeSector m q.slot)
  | _, _, _, _ => v

/-- R95: whether an order's write is verified, settled when its write pass ends. -/
def mustVerify (b : Battery) (d : DriveNo) (x : Drive) (o : Order) : Bool :=
  match o.kind with
  | .catalogWrite => true
  | .copyWrite => true
  | .write => (b.drive d).verify == 1 || ((b.drive d).verify == 2 && Config.autoVerify ≤ x.seq.retries)
  | .read => false
  | .copyRead => false
  | .recalibrate => false

/-- R95: the verify pass begins with a read-back of every worked sector of the run. A sector that gave trouble in the
write pass has been counted (R94). -/
def VerifyWork.begin (o : Order) : VerifyWork :=
  { rewrite := false, found := false, todo := o.sectors, failing := [], writes := 1, troubled := o.troubled }

/-- R67, R70: an eligible queued order of a class above a class is on the drive. -/
def Vol.higherWaiting (v : Vol) (d : DriveNo) (c : ServiceClass) : Bool :=
  (v.eligibleOrders d).any (fun o => c.rank < o.cls.rank)

/-- R67, R68, R70: a pending preemption decided at a boundary with sectors left. -/
def Vol.decidePending (d : DriveNo) (o : Order) (v : Vol) : Vol :=
  if !(v.drive d).sched.pending then v.setPhase d Phase.search
  else if !v.higherWaiting d o.cls then
    (v.modSched d (fun s => { s with pending := false })).setPhase d Phase.search
  else if (v.drive d).sched.depth < Config.stackSlots then v.modDrive d Drive.push
  else v.setPhase d Phase.search

/-- R69, R95: the end of an order's read or write pass. In a verify pass `progress` keeps the write pass's count, for
R47's count of the current pass, which R91 raises in read and write passes only: the model's choice (log 48). What the
verify pass has done stands in VerifyWork. -/
def Vol.passEnd (b : Battery) (d : DriveNo) (o : Order) (v : Vol) : Vol :=
  if o.pass = .write ∧ mustVerify b d (v.drive d) o = true then
    ((v.modService d (fun o => { o with pass := .verify })).modSched d
      (fun s => { s with pending := false })).setPhase d (.verify (VerifyWork.begin o))
  else v.orderEnd b d .done

/-- The request of an order is in ENDING. -/
def Vol.endingOrder (v : Vol) (o : Order) : Bool :=
  match v.req o.req with
  | none => false
  | some q => q.stage == .ending

/-- R91, R67, R73: the boundary at the end of a completed sector of the order in service. -/
def Vol.boundary (b : Battery) (d : DriveNo) (v : Vol) : Vol :=
  match (v.drive d).sched.service with
  | none => v
  | some o =>
    if v.endingOrder o then v.orderEnd b d .cancelled
    else if o.count ≤ o.progress then v.passEnd b d o
    else v.decidePending d o

/-- R91, R94: a sector of the order in service is completed. -/
def Vol.sectorCompleted (b : Battery) (d : DriveNo) (o : Order) (v : Vol) : Vol :=
  let v := v.modSeq d (Sequencer.countSector o.tries)
  let v := v.modService d (fun o =>
    { o with progress := skipOver o.skip o.first 8 (o.progress + 1), tries := Tries.fresh,
             troubled := o.troubled ++ (if 1 < o.tries.attempt then [o.sector] else []) })
  let v := if o.kind = .read then v.modReq o.req (fun q => { q with filled := q.filled + 1 }) else v
  v.boundary b d

/-- R92: the next attempt on the sector: attempt 3 after a recalibration, the others in place. -/
def Vol.nextAttempt (b : Battery) (d : DriveNo) (t : Tries) (v : Vol) : Vol :=
  if t.attempt = 3 ∧ t.recalBegun = false then
    ((v.modService d (fun o => { o with tries := { t with recalBegun := true } })).modSeq d
      Sequencer.beginRecal).go b d
  else (v.modService d (fun o => { o with tries := t })).setPhase d Phase.search

/-- R92, R93, R94, R67: a failed attempt of the order in service. A sector exhausted is counted even where its
request is in ENDING. -/
def Vol.attemptFailed (b : Battery) (d : DriveNo) (o : Order) (bad mispositioned : Bool) (v : Vol) : Vol :=
  let t := o.tries.failed bad mispositioned
  if Config.attempts ≤ o.tries.attempt then
    (v.modSeq d (Sequencer.countSector o.tries)).orderEnd b d (if v.endingOrder o then .cancelled else t.outcome)
  else if v.endingOrder o then v.orderEnd b d .cancelled
  else if (v.drive d).sched.pending && o.progress == 0 then
    if v.higherWaiting d o.cls then
      (v.modService d (fun o => { o with tries := t })).modDrive d Drive.preemptEarly
    else (v.modSched d (fun s => { s with pending := false })).nextAttempt b d t
  else v.nextAttempt b d t

/-- R91: what a read puts in the order's buffer for its sector from a data field whose check is bad: the bytes as the
drive gave them, or, of a field that stands bad on the diskette, a free value (log 45). -/
def Vol.readBad (o : Order) (f : FieldRead) (v : Vol) : Vol :=
  match o.bufferFor o.sector, f with
  | none, _ => v
  | some x, .asRead bs _ => v.fillBuf x (sectorOf bs)
  | some x, .asStored =>
    ({ v with picks := v.picks + 1 } : Vol).fillBuf x
      ((List.range Config.sectorBytes).map (Config.badField v.picks))

/-- R91: the end of a sector transfer of the order in service. A read takes the field into the order's buffer, and then
its check decides whether the sector is completed or the attempt fails. -/
def Vol.orderTransferEnd (b : Battery) (d : DriveNo) (o : Order) (f : FieldRead) (v : Vol) : Vol :=
  match o.pass with
  | .write =>
    (v.modDisk d (fun m => m.writeData o.cyl o.side o.sector (v.sectorData o o.sector))).sectorCompleted b d o
  | _ => match (v.drive d).cable.disk.readField o.cyl o.side o.sector f with
    | none => (v.readBad o f).attemptFailed b d o true false
    | some bs =>
      (match o.bufferFor o.sector with
        | none => v
        | some x => v.fillBuf x bs).sectorCompleted b d o

/-! ## The verify pass (R95, R96) -/

/-- R24, R96: sectors of a WRITE order that failed verification become suspect. -/
def Vol.suspect (d : DriveNo) (o : Order) (failed : List Nat) (v : Vol) : Vol :=
  if o.kind = .write then
    v.modMirror d (fun m => { m with suspect := addSectors m.suspect (failed.map (dataIndex o.cyl o.side)) })
  else v

/-- R95, R96: a revolution of a verify pass ends. -/
def Vol.verifyRound (b : Battery) (d : DriveNo) (o : Order) (w : VerifyWork) (v : Vol) : Vol :=
  if w.rewrite then
    v.setPhase d (.verify { w with rewrite := false, found := false, todo := w.failing, failing := [],
                                   writes := w.writes + 1 })
  else if w.failing.isEmpty then v.orderEnd b d .done
  else if Config.maxWrites ≤ w.writes then (v.suspect d o w.failing).orderEnd b d .writeFault
  else v.setPhase d (.verify { w with rewrite := true, found := false, todo := w.failing })

/-- R96: the sectors of a pass cut short that have failed the read-back after their third write are reported suspect
before the end of the order: the model's reading (log 35). -/
def Vol.suspectCut (d : DriveNo) (o : Order) (w : VerifyWork) (v : Vol) : Vol :=
  if w.rewrite || w.writes < Config.maxWrites then v else v.suspect d o w.failing

/-- R94: a sector rewritten counts once as one that needed a rewrite. -/
def VerifyWork.countRewrite (w : VerifyWork) (n : Nat) (q : Sequencer) : Sequencer :=
  if w.rewrite && !w.troubled.contains n then { q with retries := raiseRetries q.retries } else q

/-- R95, R94, R73: a sector of a verify pass has been read back or rewritten, or its header was not found at its
angle. A read-back that fails joins the failing sectors; a rewrite keeps the list as it stands and is counted. -/
def Vol.verifyEnd (b : Battery) (d : DriveNo) (o : Order) (w : VerifyWork) (f : FieldRead) (v : Vol) : Vol :=
  match w.todo with
  | [] => v.verifyRound b d o w
  | n :: rest =>
    let v := if w.rewrite && w.found then
        v.modDisk d (fun m => m.writeData o.cyl o.side n (v.sectorData o n)) else v
    let v := v.modSeq d (w.countRewrite n)
    let passed := w.found && ((v.drive d).cable.disk.readField o.cyl o.side n f).isSome
    let failing := if w.rewrite || passed then w.failing else w.failing ++ [n]
    let troubled := if w.rewrite then w.troubled ++ [n] else w.troubled
    let w' := { w with found := false, todo := rest, failing, troubled }
    if v.endingOrder o then (v.suspectCut d o w').orderEnd b d .cancelled
    else if rest.isEmpty then v.verifyRound b d o w'
    else v.setPhase d (.verify w')

/-! ## LOADING (R83, R84) -/

/-- R84: LOADING ends in a mount state, with the mirror built or none; the unload count is to start. -/
def Vol.loadingEnd (d : DriveNo) (m : MountState) (mirror : Option Mirror) (v : Vol) : Vol :=
  let fault := match mirror with
    | some x => x.faulty
    | none => false
  let v := v.modSeq d (fun q => { q.letGo with idleDue := true })
  let v := v.modCat d (fun c => { c with mirror, fault })
  v.changeMount d m

/-- The LOADING in hand changed. -/
def Vol.setLoad (v : Vol) (d : DriveNo) (l : LoadWork) : Vol := v.modSeq d (fun q => { q with job := .loading l })

/-- R83, R84: LOADING goes on after a catalog sector or the label, or ends after the fifteenth. -/
def Vol.loadNext (b : Battery) (d : DriveNo) (l : LoadWork) (v : Vol) : Vol :=
  if l.sector < 15 then
    (v.setLoad d { l with sector := l.sector + 1, tries := Tries.fresh }).go b d
  else match l.label with
    | none => v.loadingEnd d .unformatted none
    | some lab => v.loadingEnd d .ready (some (buildMirror lab l.catalog))

/-- R83: a LOADING read gave a good data field. -/
def Vol.loadGood (b : Battery) (d : DriveNo) (l : LoadWork) (bs : List Byte) (v : Vol) : Vol :=
  let v := v.modSeq d (Sequencer.countSector l.tries)
  if l.sector = 0 then
    match parseLabel bs with
    | none => v.loadingEnd d .unformatted none
    | some lab => v.loadNext b d { l with label := some lab }
  else v.loadNext b d { l with catalog := l.catalog ++ [some bs] }

/-- R84, R92: a failed attempt of a LOADING read: another attempt, or the sector is exhausted; a catalog sector
exhausted sets the catalog fault condition then (R20). -/
def Vol.loadFailed (b : Battery) (d : DriveNo) (l : LoadWork) (bad mispositioned : Bool) (v : Vol) : Vol :=
  let t := l.tries.failed bad mispositioned
  if Config.attempts ≤ l.tries.attempt then
    let v := v.modSeq d (Sequencer.countSector l.tries)
    if l.sector = 0 then v.loadingEnd d .unformatted none
    else (v.modCat d (fun c => { c with fault := true })).loadNext b d { l with catalog := l.catalog ++ [none] }
  else if t.attempt = 3 then
    ((v.setLoad d { l with tries := { t with recalBegun := true } }).modSeq d Sequencer.beginRecal).go b d
  else (v.setLoad d { l with tries := t }).setPhase d Phase.search

/-! ## Units -/

/-- The unit in hand changed. -/
def Vol.setUnit (v : Vol) (d : DriveNo) (u : UnitWork) : Vol := v.modSeq d (fun q => { q with job := .unit u })

/-- A unit that writes headers: a track-side unit. -/
def UnitKind.onTrack : UnitKind → Bool
  | .track _ => true
  | .invalidate => false
  | .catalog _ => false
  | .label => false

/-- R12: the sectors of a track side in rotation order from n. -/
def rotation (n : Nat) : List Nat := (List.range 8).map (fun i => (n + i) % 8)

/-- R12: a track-side unit waiting for a header position starts its write pass at the sector whose header stands
at the angle counter's value; in the pass, the write of the next sector begins when the counter stands at its
header's angle. -/
def Vol.trackStart (d : DriveNo) (v : Vol) : Vol :=
  match (v.drive d).seq.phase, (v.drive d).seq.job, sectorAtAngle (v.drive d).seq.angle with
  | .waitAngle, .unit u, some n =>
    (v.setUnit d { u with sectors := rotation n, todo := rotation n }).setPhase d (.unitPass false true)
  | .unitPass false false, .unit u, some n =>
    if u.kind.onTrack && u.todo.head? == some n then v.setPhase d (.unitPass false true) else v
  | _, _, _ => v

/-- The request a unit is for is in ENDING. -/
def Vol.endingUnit (v : Vol) (u : UnitWork) : Bool :=
  match v.req u.req with
  | none => false
  | some q => q.stage == .ending

/-- The outcome a unit's request was given. -/
def Vol.unitOutcome (v : Vol) (u : UnitWork) : OutcomeCode :=
  match v.req u.req with
  | none => .cancelled
  | some q => q.decided

/-- R11, R15, R180: the invalidation unit ends: a FORMAT goes on or stops at once, a COPY waits for
COPY_OPENING_END. -/
def Vol.invalidateEnd (b : Battery) (d : DriveNo) (u : UnitWork) (v : Vol) : Vol :=
  if u.copy then v.setPhase d .unitDone
  else if v.endingUnit u then v.formatStops d u.req (v.unitOutcome u)
  else v.beginUnit b d u.req false (.track 0)

/-- R183: the bytes a catalog unit writes to a sector: FREE slots for a FORMAT, the source's mirror for a COPY. -/
def Vol.unitImage (v : Vol) (u : UnitWork) (sector : Nat) : List Byte :=
  match u.kind with
  | .catalog half =>
    if u.copy then
      match (v.req u.req).bind (fun q => v.mirror q.drive) with
      | some m => composeCopy m half sector
      | none => zeroSector
    else zeroSector
  | .invalidate => u.image
  | .track _ => u.image
  | .label => u.image

/-- R12, R14, R183: a unit's write of a sector ends. A sector whose header was not found is not written and has
failed (log 18). -/
def Vol.unitWrite (d : DriveNo) (u : UnitWork) (found : Bool) (n : Nat) (v : Vol) : Vol :=
  let p := u.kind.place
  match u.kind with
  | .track _ => v.modDisk d (fun m => m.format p.1 p.2 n)
  | _ => if found then v.modDisk d (fun m => m.writeData p.1 p.2 n u.image) else v

/-- R185: a unit of a COPY whose source was discarded stops at the end of its sector. -/
def Vol.unitStops (v : Vol) (u : UnitWork) : Bool :=
  match (v.req u.req).bind Request.copy with
  | some c => c.stop
  | none => false

/-- A sector added to those that failed. -/
def addFailed (ok : Bool) (n : Nat) (xs : List Nat) : List Nat := if ok || xs.contains n then xs else xs ++ [n]

/-- A sector of a unit's pass is done: the pass goes on, the verify pass begins, or the unit waits for its end. -/
def Vol.unitSectorDone (b : Battery) (d : DriveNo) (u : UnitWork) (verify : Bool) (v : Vol) : Vol :=
  if v.unitStops u then v.copyEnd b u.req (v.unitOutcome u) false
  else if !u.todo.isEmpty then (v.setUnit d u).setPhase d (.unitPass verify false)
  else if verify then (v.setUnit d u).setPhase d .unitDone
  else (v.setUnit d { u with todo := u.sectors }).setPhase d (.unitPass true false)

/-- R12, R14: the end of a sector of a unit's write pass. -/
def Vol.unitWriteEnd (b : Battery) (d : DriveNo) (u : UnitWork) (found : Bool) (v : Vol) : Vol :=
  match u.todo with
  | [] => v
  | n :: rest =>
    (v.unitWrite d u found n).unitSectorDone b d
      { u with todo := rest, failed := addFailed found n u.failed } false

/-- R14, R184: a label that fails its verification is left invalid; the model leaves its data check bad (log 40). -/
def Vol.labelFails (d : DriveNo) (u : UnitWork) (n : Nat) (v : Vol) : Vol :=
  if u.kind = .label ∧ u.failed ≠ [] then v.modDisk d (fun m => m.spoilData u.kind.place.1 u.kind.place.2 n) else v

/-- R12, R14: the end of a sector of a unit's verify pass: it passes when its header was found at its position
and its data field is good. -/
def Vol.unitVerifyEnd (b : Battery) (d : DriveNo) (u : UnitWork) (found : Bool) (f : FieldRead) (v : Vol) : Vol :=
  match u.todo with
  | [] => v
  | n :: rest =>
    let p := u.kind.place
    let ok := found && ((v.drive d).cable.disk.readField p.1 p.2 n f).isSome
    let u' := { u with todo := rest, failed := addFailed ok n u.failed }
    (v.labelFails d u' n).unitSectorDone b d u' true

/-- R13: the bad list with a track side's failed sectors, in ascending order. -/
def badsWith (bads : List Nat) (cyl side : Nat) (failed : List Nat) : List Nat :=
  bads ++ ((List.range 8).filter failed.contains).map (dataIndex cyl side)

/-- R13: the end of a track-side unit. -/
def Vol.trackUnitEnd (b : Battery) (d : DriveNo) (u : UnitWork) (n : Nat) (v : Vol) : Vol :=
  match (v.req u.req).bind Request.format with
  | none => v
  | some f =>
    let p := trackPlace n
    if p.1 = 0 ∧ u.failed ≠ [] then v.formatStops d u.req .writeFault
    else if v.endingUnit u then v.formatStops d u.req (v.unitOutcome u)
    else
      let bads := if p.1 = 0 then f.bads else badsWith f.bads p.1 p.2 u.failed
      if Config.maxBad < bads.length then v.formatStops d u.req .writeFault
      else
        (v.modReq u.req (fun q => { q with format := some { f with bads } })).beginUnit b d u.req false
          (if n + 1 < 154 then .track (n + 1) else .catalog 0)

/-- R13, R14, R15: the end of a FORMAT unit's verify pass. -/
def Vol.formatUnitEnd (b : Battery) (d : DriveNo) (u : UnitWork) (v : Vol) : Vol :=
  match u.kind with
  | .invalidate => v
  | .track n => v.trackUnitEnd b d u n
  | .catalog half =>
    if u.failed ≠ [] then v.formatStops d u.req .writeFault
    else if v.endingUnit u then v.formatStops d u.req (v.unitOutcome u)
    else v.beginUnit b d u.req false (if half = 0 then .catalog 1 else .label)
  | .label =>
    if u.failed ≠ [] then v.formatStops d u.req .writeFault
    else
      let count := match (v.req u.req).bind Request.format with
        | some f => f.bads.length
        | none => 0
      v.formatReloads b d u.req .done [BitVec.ofNat 8 count] false

/-- R180, R186: the destination's invalidation unit has ended. -/
def Vol.copyOpened (b : Battery) (d : DriveNo) (u : UnitWork) (v : Vol) : Vol :=
  if v.endingUnit u then v.copyEnd b u.req (v.unitOutcome u) false
  else
    let v := v.modSeq d (fun q => { q.letGo with idleDue := true })
    (v.modReq u.req (fun q => { q with stage := .tracks })).copyReadNext b u.req

/-- R183, R186: the end of a destination catalog unit's verify pass; after the second the COPY enters LABEL and
lets go of its source. -/
def Vol.copyCatalogEnd (b : Battery) (d : DriveNo) (u : UnitWork) (half : Nat) (v : Vol) : Vol :=
  match v.req u.req with
  | none => v
  | some q =>
    if v.endingUnit u then v.copyEnd b u.req q.decided false
    else if u.failed ≠ [] then v.copyEnd b u.req .writeFault false
    else if half = 0 then v.beginUnit b d u.req true (.catalog 1)
    else
      let v := v.releaseSource q.drive
      let v := v.modReq u.req (fun q =>
        { q with stage := .label, copy := q.copy.map (fun c => { c with holdsSource := false }) })
      v.beginUnit b d u.req true .label

/-- R184: the end of the destination's label unit. -/
def Vol.copyLabelEnd (b : Battery) (u : UnitWork) (v : Vol) : Vol :=
  v.copyEnd b u.req (if u.failed ≠ [] then .writeFault else .done) false

/-! ## Positioned -/

/-- R82: the write-protect sample is due before an order's first write of its service period. -/
def Order.sampleDue (o : Order) : Bool := o.pass == .write && !o.sampled

/-- R91, R100, R82: positioning has ended for the order in service. The write-protect sample due is taken here, before
the search for the first header: the model's reading of R82's "about to make the first write" (log 49). -/
def Vol.orderReady (b : Battery) (d : DriveNo) (o : Order) (v : Vol) : Vol :=
  if o.kind = .recalibrate then v.orderEnd b d .done
  else if o.sampleDue && (v.drive d).cable.protect then
    (v.modSeq d (fun q => { q with writeProtected := true })).orderEnd b d .writeProtected
  else (v.modService d (fun o => { o with sampled := o.sampled || o.sampleDue })).setPhase d Phase.search

/-- Positioning has ended: the search begins, or the unit's pass, or the RECALIBRATE order ends. -/
def Vol.beginWork (b : Battery) (d : DriveNo) (v : Vol) : Vol :=
  match (v.drive d).seq.job with
  | .none => v.setPhase d .idle
  | .order => match (v.drive d).sched.service with
    | none => v.setPhase d .idle
    | some o => v.orderReady b d o
  | .loading _ => v.setPhase d Phase.search
  | .unit u => match u.kind with
    | .invalidate => v.setPhase d Phase.search
    | .track _ => (v.setPhase d .waitAngle).trackStart d
    | .catalog _ => v.setPhase d (.unitPass false false)
    | .label => v.setPhase d (.unitPass false false)

end Sys2Proof.Machine
end

