-- ==== Sys2Proof/Machine/Selection.lean ====
section
/-! DEFINITION. Selection (R55 to R58), the placing of an order in service, and the preemption test (R65, R66). -/

namespace Sys2Proof.Machine

/-! ## Into service -/

/-- R181: the buffers of a COPY READ whose sectors are not story sectors, filled with zeros. -/
def Vol.zeroFill (worked : List Nat) : List BufNo → Nat → Vol → Vol
  | [], _, v => v
  | x :: xs, k, v => zeroFill worked xs (k + 1) (if worked.contains k then v else v.fillBuf x zeroSector)

/-- R54, R57: an order without buffers takes them as it is selected: a READ its count, for its request to deliver;
a COPY READ 8. -/
def Vol.takeFor (o : Order) (v : Vol) : Order × Vol :=
  match o.kind with
  | .read =>
    if o.buffers.isEmpty then
      let p := v.takeBufs o.req o.count
      ({ o with buffers := p.1 }, p.2.modReq o.req (fun q => { q with chain := q.chain ++ p.1 }))
    else (o, v)
  | .copyRead =>
    if o.buffers.isEmpty then
      let p := v.takeBufs o.req Config.requestBuffers
      ({ o with buffers := p.1 }, p.2.zeroFill o.sectors p.1 0)
    else (o, v)
  | .write => (o, v)
  | .catalogWrite => (o, v)
  | .copyWrite => (o, v)
  | .recalibrate => (o, v)

/-- The sequencer takes the order in service in hand. -/
def Sequencer.takeOrder (q : Sequencer) : Sequencer :=
  { q with job := .order, phase := .positioning, unload := none, idleDue := true }

/-- R85, R92, R100: positioning for an order begins: with a recalibration for a RECALIBRATE order, and for a third
attempt that has had none. -/
def Vol.startOrder (b : Battery) (d : DriveNo) (o : Order) (v : Vol) : Vol :=
  if o.kind = .recalibrate then (v.modSeq d Sequencer.beginRecal).go b d
  else if o.tries.attempt = 3 ∧ o.tries.recalBegun = false then
    ((v.modService d (fun o => { o with tries := { o.tries with recalBegun := true } })).modSeq d
      Sequencer.beginRecal).go b d
  else v.go b d

/-- R56, R57: an order placed in service. A COPY READ with no sectors ends DONE at once (R181). -/
def Vol.placeInService (b : Battery) (d : DriveNo) (o : Order) (v : Vol) : Vol :=
  let p := v.takeFor o
  let v := (p.2.modSched d (fun s => { s with service := some { p.1 with sampled := false }, pending := false })).modSeq d
    Sequencer.takeOrder
  if o.kind = .copyRead ∧ o.count = 0 then v.orderEnd b d .done else v.startOrder b d p.1

/-! ## Selection -/

/-- R56: the top suspended order resumed. -/
def Vol.resume (b : Battery) (d : DriveNo) (o : Order) (v : Vol) : Vol :=
  (v.modSched d (fun s => { s with stack := s.stack.dropLast })).placeInService b d o

/-- R57, R58: the queue after a choice: the chosen order gone, the other eligible orders of its class passed
over. -/
def passedOver (chosen : Order) (eligible queue : List Order) : List Order :=
  (queue.filter (fun x => x.arrival != chosen.arrival)).map
    (fun x => if eligible.contains x && x.cls == chosen.cls then x.passOver else x)

/-- R57, R58: an order of the highest eligible class chosen from the queue. -/
def Vol.choose (b : Battery) (d : DriveNo) (es : List Order) (v : Vol) : Vol :=
  let x := v.drive d
  match chooseOrder (x.effectiveCost (b.timing d)) (es.filter (fun o => o.cls.rank == topRank es)) with
  | none => v
  | some o =>
    (v.modSched d (fun s => { s with queue := passedOver o es s.queue })).placeInService b d o

/-- R55, R56: selection on a drive. -/
def Vol.select (b : Battery) (d : DriveNo) (v : Vol) : Vol :=
  let es := v.eligibleOrders d
  match (v.drive d).sched.stack.getLast? with
  | none => v.choose b d es
  | some o => if es.isEmpty || topRank es ≤ o.cls.rank then v.resume b d o else v.choose b d es

/-- R55: selection has something to do on a drive: a drive in READY or RECEIVING with no order in service, and an
eligible or a suspended order. -/
def Vol.selectable (v : Vol) (d : DriveNo) : Bool :=
  let x := v.drive d
  (x.seq.mount == .ready || x.seq.mount == .receiving) && x.sched.service.isNone && x.seq.job == .none
    && (!(v.eligibleOrders d).isEmpty || !x.sched.stack.isEmpty)

/-! ## The preemption test (R65) -/

/-- R65: a preemption by a queued order Y (given by its arrival position) is to be made of the order in service:
Y is eligible and of a higher class, preempt is on, and the order in service is not in its verify pass. -/
def Vol.preempts (b : Battery) (d : DriveNo) (arrival : Nat) (v : Vol) : Bool :=
  let s := (v.drive d).sched
  match s.service, s.queue.find? (fun o => o.arrival == arrival) with
  | some x, some y =>
    v.eligible y && x.cls.rank < y.cls.rank && (b.drive d).preempt == 1 && x.pass != .verify
  | _, _ => false

/-- R65, R66: a preemption made: at once with its selection in the early state, else pending. -/
def Vol.preempt (b : Battery) (d : DriveNo) (v : Vol) : Vol :=
  if (v.drive d).early then (v.modDrive d Drive.preemptEarly).select b d
  else v.modSched d (fun s => { s with pending := true })

/-- R54, R65: the orders of a drive's queue that were queued and ineligible before and are eligible now. -/
def newlyEligible (before after : Vol) (d : DriveNo) : List Nat :=
  ((after.drive d).sched.queue.filter (fun o =>
    after.eligible o && (before.drive d).sched.queue.any (fun p => p.arrival == o.arrival && !before.eligible p))).map
    Order.arrival

/-- R65: freed buffers that make queued orders eligible on drives with an order in service are occasions for the
preemption test. -/
def noteEligible (before after : Vol) : Vol :=
  { after with tests := after.tests ++ allDrives.flatMap (fun d =>
      if (after.drive d).sched.service.isSome then (newlyEligible before after d).map (fun a => (d, a)) else []) }

end Sys2Proof.Machine
end

