-- ==== Sys2Proof/Machine/Arbiter.lean ====
section
/-! DEFINITION. The outbound side of a line port (R133 to R138): the choice of what enters the store next, and the
placing of replies, notices and text. -/

namespace Sys2Proof.Machine

/-- R134: the store of a line has a free slot. -/
def Vol.hasRoom (v : Vol) (k : Line) : Bool := (v.port k).store.length < Config.storeFrames

/-- R134: a frame placed in the store. -/
def Vol.place (v : Vol) (k : Line) (body : List Byte) (mark : Mark) : Vol :=
  v.modPort k (fun p => { p with store := p.store ++ [{ body, mark }] })

/-! ## Waiting replies -/

/-- The earlier made of two replies, each with the place it waits in (none: the port's reply list). -/
def earlier (x y : Option (Waiting × Option ReqId)) : Option (Waiting × Option ReqId) :=
  match x, y with
  | none, _ => y
  | _, none => x
  | some a, some c => if c.1.made < a.1.made then y else x

/-- R133: the oldest waiting reply of a line, and the request it waits in, if it does. -/
def Vol.oldestReply (v : Vol) (k : Line) : Option (Waiting × Option ReqId) :=
  (lineReqs k).foldl
    (fun acc r => earlier acc (((v.req r).bind (fun q => q.replies.head?)).map (fun w => (w, some r))))
    ((v.port k).replies.head?.map (fun w => (w, none)))

/-- The first reply of a port's list taken away. -/
def Vol.dropReply (v : Vol) (k : Line) : Vol := v.modPort k (fun p => { p with replies := p.replies.tail })

/-- R188: the body of a LISTING frame. -/
def listingBody (tag : Byte) (records : List (List Byte)) : List Byte :=
  [0x82#8, tag, BitVec.ofNat 8 records.length] ++ records.flatten

/-- R43, R133: the next frame of a LIST item: a LISTING frame, or the ANSWER DONE that ends it. -/
def Vol.placeListing (v : Vol) (k : Line) (w : Waiting) (tag : Byte) (records : List (List Byte)) (total : Nat) :
    Vol :=
  if records.isEmpty then (v.dropReply k).place k (answerBody tag .done [BitVec.ofNat 8 total]) w.mark
  else
    (v.modPort k (fun p =>
      { p with replies := { w with body := .listing tag (records.drop Config.listingRecords) total }
                 :: p.replies.tail })).place k (listingBody tag (records.take Config.listingRecords)) .plain

/-- R101, R102, R135: the oldest waiting reply placed; a final reply's placing frees its request's slot. -/
def Vol.placeReply (v : Vol) (k : Line) (w : Waiting) (src : Option ReqId) : Vol :=
  match src, w.body with
  | none, .single body => (v.dropReply k).place k body w.mark
  | none, .listing tag records total => v.placeListing k w tag records total
  | some r, .single body =>
    let v := v.place k body w.mark
    if w.final then v.setReq r none else v.modReq r (fun q => { q with replies := q.replies.tail })
  | some r, .listing _ _ _ => v.modReq r (fun q => { q with replies := q.replies.tail })

/-- R138: a NOTICE frame placed, and the record cleared. -/
def Vol.placeNotice (v : Vol) (k : Line) : Vol :=
  (v.place k ([0x83#8, 0#8] ++ (v.port k).notice.bytes) .plain).modNotice k (fun _ => Notice.clear)

/-- R135: the first two choices of the arbiter on a line: a reply, then a notice. -/
def Vol.placeFirst (v : Vol) (k : Line) : Option Vol :=
  if v.hasRoom k then
    match v.oldestReply k with
    | some (w, src) => some (v.placeReply k w src)
    | none => if (v.port k).notice.some? then some (v.placeNotice k) else none
  else none

/-! ## Story text -/

/-- R108: a fetch has text ready. -/
def Request.textReady (q : Request) : Bool :=
  (q.kind == .fetch || q.kind == .draw) && (q.stage == .reading || q.stage == .delivering) && 0 < q.filled

/-- R136: the fetch of a line that text is taken from: of those with text ready, the one admitted earliest. -/
def Vol.textSource (v : Vol) (k : Line) : Option ReqId :=
  (v.byAge (lineReqs k)).find? (fun r => match v.req r with
    | none => false
    | some q => q.textReady)

/-- R109: the bytes the next TEXT frame of a fetch carries: at most 256, within its buffer and its version. -/
def Request.textCount (q : Request) : Nat :=
  min Config.textBytes (min (Config.sectorBytes - q.delivered % Config.sectorBytes) (q.info.length - q.delivered))

/-- R109: the frame takes the last story byte of its buffer. -/
def Request.bufferGone (q : Request) : Bool :=
  (q.delivered + q.textCount) % Config.sectorBytes == 0 || q.info.length ≤ q.delivered + q.textCount

/-- R109, R110, R136: a fetch's next TEXT frame placed: its buffer returns with its last story byte, and the last
byte of the version ends the fetch DONE. -/
def Vol.placeText (v : Vol) (k : Line) (r : ReqId) : Vol :=
  match v.req r with
  | none => v
  | some q => match q.chain with
    | [] => v
    | x :: rest =>
      let bytes := slice (v.buf x).data (q.delivered % Config.sectorBytes) q.textCount
      let v := v.place k ([0x81#8, q.tag] ++ bytes) .plain
      let v := v.modReq r (fun p => { p with delivered := q.delivered + q.textCount })
      let v := if q.bufferGone then
          (v.returnBuf x).modReq r (fun p => { p with chain := rest, filled := p.filled - 1 }) else v
      if q.info.length ≤ q.delivered + q.textCount then v.finish r .done q.info.data false else v

end Sys2Proof.Machine
end

