-- ==== Sys2Proof/Machine/Settle.lean ====
section
/-! DEFINITION. What a command's effects bring about at once in the other blocks (spec/95): preemption tests,
selections, waiting commits and spikes, the work a positioned head begins, the arbiters' placings, and the start of
unload counts. Whichever of several waiters comes first is a free value (R54, R105; logs 4 and 5). -/

namespace Sys2Proof.Machine

/-- A piece of follow-on work that competes with others for what a command has freed. -/
inductive Claim where
  /-- a preemption by a queued order, given by its arrival position (R65) -/
  | test (d : DriveNo) (arrival : Nat)
  /-- a selection on an idle drive (R55) -/
  | select (d : DriveNo)
  /-- a commit or spike that can enter its catalog write (R34, R41) -/
  | write (r : ReqId)
  /-- a TEXT frame (R135) -/
  | text (k : Line) (r : ReqId)
deriving DecidableEq, Repr

/-! ## What follows without a choice -/

/-- R65: a preemption test noted that makes no preemption is done with. -/
def Vol.dropTest (b : Battery) (v : Vol) : Option Vol :=
  (v.tests.find? (fun t => !v.preempts b t.1 t.2)).map (fun t => { v with tests := v.tests.erase t })

/-- The first drive whose positioning has ended begins its work. -/
def Vol.beginNext (b : Battery) (v : Vol) : Option Vol :=
  (allDrives.find? (fun d => (v.drive d).seq.phase == .ready)).map (fun d => v.beginWork b d)

/-- R135: the first line with a reply or a notice to place. -/
def Vol.placeNext (v : Vol) : Option Vol := allLines.findSome? v.placeFirst

/-- R90: an idle period begins on a drive whose unload count has not been started for it. -/
def Vol.idleBegins (v : Vol) (d : DriveNo) : Bool :=
  let x := v.drive d
  let q := x.seq
  q.idleDue && q.job == .none && x.sched.service.isNone && !v.selectable d
    && (q.mount == .ready || q.mount == .unformatted || q.mount == .receiving)
    && (q.head == .loaded || q.head == .unloaded)

/-- R90: the unload count started at 0, unless the setting is 0 or the head is not loaded. -/
def Sequencer.beginIdle (setting : Nat) (q : Sequencer) : Sequencer :=
  { q with idleDue := false, unload := if q.head = .loaded ∧ setting ≠ 0 then some 0 else none }

/-- R90: the unload count of the first drive that has gone idle. -/
def Vol.idleNext (b : Battery) (v : Vol) : Option Vol :=
  (allDrives.find? v.idleBegins).map (fun d => v.modSeq d (Sequencer.beginIdle (b.drive d).unload))

/-! ## What competes -/

/-- R34, R41: the commits in COMMIT WAIT and spikes in WAITING that can go on. -/
def Vol.waitingWrites (v : Vol) : List ReqId :=
  allReqs.filter (fun r => match v.req r with
    | none => false
    | some q => (q.stage == .commitWait || (q.kind == .spike && q.stage == .waiting)) && v.canWrite q)

/-- R27: the moment a commit or spike began to wait: its entry into COMMIT WAIT or WAITING, whatever it needed then:
the model's reading (log 36). -/
def Vol.waitedSince (v : Vol) (r : ReqId) : Nat := ((v.req r).map Request.waitSince).getD 0

/-- Whether a waiting commit or spike needs a record. -/
def Vol.wantsRecord (v : Vol) (r : ReqId) : Bool :=
  match v.req r with
  | none => false
  | some q => v.needsRecord q

/-- R27: of the waiters that need a record and can go on, only the one that began waiting earliest is offered
it. -/
def Vol.offeredWrites (v : Vol) : List ReqId :=
  let ws := v.waitingWrites
  ws.filter (fun r => !v.wantsRecord r
    || ws.all (fun p => !v.wantsRecord p || v.waitedSince r ≤ v.waitedSince p))

/-- R135: the TEXT frames that have a slot to go into and nothing ahead of them on their line. -/
def Vol.textClaims (v : Vol) : List Claim :=
  allLines.flatMap (fun k =>
    if v.hasRoom k then
      match v.textSource k with
      | none => []
      | some r => [.text k r]
    else [])

/-- Everything that could go on now; of several preemption tests, on one drive or on several, any may be first
(log 4). -/
def Vol.claims (v : Vol) : List Claim :=
  v.tests.map (fun t => .test t.1 t.2)
  ++ (allDrives.filter v.selectable).map .select ++ v.offeredWrites.map .write ++ v.textClaims

/-- A claim met. -/
def Vol.meet (b : Battery) (c : Claim) (v : Vol) : Vol :=
  match c with
  | .test d a => ({ v with tests := v.tests.erase (d, a) } : Vol).preempt b d
  | .select d => v.select b d
  | .write r => v.enterWrite b r
  | .text k r => v.placeText k r

/-- The claim met next: the only one, or the one the free value names. -/
def Vol.meetOne (b : Battery) (v : Vol) : Option Vol :=
  match v.claims with
  | [] => none
  | [c] => some (v.meet b c)
  | c :: c' :: cs =>
    let all := c :: c' :: cs
    some (({ v with picks := v.picks + 1 } : Vol).meet b (all.getD (Config.claimPick v.picks % all.length) c))

/-- One piece of follow-on work, if there is any. -/
def Vol.followOn (b : Battery) (v : Vol) : Option Vol :=
  (v.dropTest b).orElse (fun _ => (v.beginNext b).orElse (fun _ => v.placeNext.orElse (fun _ =>
    (v.idleNext b).orElse (fun _ => v.meetOne b))))

/-- The follow-on work of a command, piece by piece. -/
def settleLoop (b : Battery) : Nat → Vol → Vol
  | 0, v => v
  | n + 1, v => match v.followOn b with
    | none => v
    | some w => settleLoop b n (noteEligible v w)

/-- The follow-on work of a command, where the blocks run (R170, R171). -/
def settle (b : Battery) (v : Vol) : Vol := if v.live then settleLoop b Config.settleBound v else v

/-- The next state of a command whose own effects leave the battery domain as `b` and the rest as `v`: buffers it
freed are noted and the follow-on work is done. -/
def State.finish (s : State) (p : Battery × Vol) : State :=
  { s with bat := p.1, vol := settle p.1 (noteEligible s.vol p.2) }

/-- A command that acts only where the blocks run; elsewhere it changes nothing (R171, log 2). -/
def State.whenLive (s : State) (f : Battery → Vol → Battery × Vol) : Host.Outcome State Fault Refusal :=
  if s.vol.live then .next (s.finish (f s.bat s.vol)) else .next s

end Sys2Proof.Machine
end

