-- ==== Sys2Proof/Machine/Discard.lean ====
section
/-! DEFINITION. A drive's work discarded by a door opening, an index stall or a failed recalibration (R40, R75, R81,
R87, R97, R122, R185), and the general reset (R76, R77, R123, R125, R171). -/

namespace Sys2Proof.Machine

/-! ## A write cut off -/

/-- R16, R81, R123: the sector a unit was in the middle of writing. -/
def Vol.spoilUnit (d : DriveNo) (u : UnitWork) (n : Nat) (v : Vol) : Vol :=
  let p := u.kind.place
  if u.kind.onTrack then
    ({ v with picks := v.picks + 1 } : Vol).modDisk d
      (fun m => m.spoilFormat p.1 p.2 n (Config.formatCutOff v.picks))
  else v.modDisk d (fun m => m.spoilData p.1 p.2 n)

/-- R16, R81, R123: the sector a drive was in the middle of writing. A read transfer cut off puts nothing into its buffer:
the model's choice (log 45). -/
def Vol.spoil (d : DriveNo) (v : Vol) : Vol :=
  let x := v.drive d
  match x.seq.job, x.seq.phase with
  | .order, .transfer => match x.sched.service with
    | some o => if o.pass = .write then v.modDisk d (fun m => m.spoilData o.cyl o.side o.sector) else v
    | none => v
  | .order, .verify w => match x.sched.service, w.todo with
    | some o, n :: _ => if w.rewrite && w.found then v.modDisk d (fun m => m.spoilData o.cyl o.side n) else v
    | _, _ => v
  | .unit u, .transfer => v.spoilUnit d u 0
  | .unit u, .unitPass false true => match u.todo with
    | n :: _ => v.spoilUnit d u n
    | [] => v
  | _, _ => v

/-! ## The discard of a drive's work -/

/-- R81, R87, R97: the sequencer after its work is discarded; the retry count is kept. A door opening leaves the
qualified door state open. -/
def Sequencer.discard (m : MountState) (q : Sequencer) : Sequencer :=
  { q with
    mount := m, writeProtected := false, doorClosed := m != .empty && q.doorClosed, cyl := none,
    head := .unloaded, unload := none, angle := 999, stall := false, recal := none, step := none,
    settle := none, settleOwed := false, job := .none, phase := .idle, idleDue := false }

/-- R75: the scheduler after its work is discarded. -/
def Scheduler.discard (s : Scheduler) : Scheduler :=
  { s with queue := [], service := none, stack := [], cursor := none, pending := false }

/-- R17, R45: the catalog of a drive whose mirror is discarded. -/
def Catalog.discard (c : Catalog) : Catalog := { c with mirror := none, fault := false }

/-- R17, R26, R29: a drive's mirror and retired records discarded, with HOLD LOST for the holders. -/
def Vol.discardMirror (d : DriveNo) (v : Vol) : Vol :=
  ((v.loseHolds d).freeRecordsOf d).modCat d Catalog.discard

/-- A request has an order on a drive. -/
def Scheduler.hasOrder (s : Scheduler) (r : ReqId) : Bool :=
  s.queue.any (fun o => o.req == r) || s.stack.any (fun o => o.req == r)
    || (match s.service with
      | some o => o.req == r
      | none => false)

/-- The unit a drive's sequencer has in hand, if it has one. -/
def Sequencer.unit? (q : Sequencer) : Option UnitWork :=
  match q.job with
  | .unit u => some u
  | .none => none
  | .order => none
  | .loading _ => none

/-- A sector of a unit's pass is being written or read back. -/
def Phase.midSector : Phase → Bool
  | .unitPass _ found => found
  | _ => false

/-- R185: a COPY in ENDING or put there with an outcome by a discard that does not end its work at once. -/
def Vol.copyLingers (r : ReqId) (q : Request) (oc : OutcomeCode) (v : Vol) : Vol :=
  if q.stage = .ending then v else v.setEnding r oc

/-- R185: a COPY whose catalog unit is to stop at the end of its sector, or, between two sectors, at once. A COPY
already CANCELLED keeps that outcome in both: the model's reading of R186 (log 39). -/
def Vol.stopCatalogUnit (b : Battery) (r : ReqId) (q : Request) (oc : OutcomeCode) (v : Vol) : Vol :=
  let v := (v.copyLingers r q oc).modReq r (fun q => { q with copy := q.copy.map (fun c => { c with stop := true }) })
  if (v.drive q.dest).seq.phase.midSector then v
  else match v.req r with
    | none => v
    | some p => v.copyEnd b r p.decided false

/-- The unit of a request that a drive's sequencer has in hand, if it has one. -/
def Sequencer.unitOf (q : Sequencer) (r : ReqId) : Option UnitWork := q.unit?.filter (fun u => u.req == r)

/-- R185: a COPY one of whose drives has had its work discarded. `held` says that its work stood on that drive. -/
def Vol.discardCopy (b : Battery) (r : ReqId) (q : Request) (held : Bool) (oc : OutcomeCode) (v : Vol) : Vol :=
  if held then v.copyEnd b r oc false
  else match (v.drive q.dest).seq.unitOf r with
    | some u => match u.kind with
      | .catalog _ => v.stopCatalogUnit b r q oc
      | .invalidate => v.copyLingers r q oc
      | .track _ => v.copyLingers r q oc
      | .label => v.copyLingers r q oc
    | none => if q.stage = .ending then v else v.copyStops b r oc false

/-- R183, R185: the drives a COPY still names. -/
def Request.copyNames (q : Request) (d : DriveNo) : Bool :=
  q.dest == d || (q.drive == d && (match q.copy with
    | some c => c.holdsSource
    | none => false))

/-- R185: a COPY whose destination's work is discarded no longer holds it. -/
def Vol.loseDest (d : DriveNo) (r : ReqId) (v : Vol) : Vol :=
  v.modReq r (fun q => if q.dest = d then { q with copy := q.copy.map (fun c => { c with holdsDest := false }) } else q)

/-- R40, R75, R122: what a discard of drive d does to a request. `x` is the drive as it stood. A fetch in DELIVERING
goes on, its entry gone. -/
def Vol.discardRequest (b : Battery) (d : DriveNo) (x : Drive) (oc : OutcomeCode) (r : ReqId) (v : Vol) : Vol :=
  match v.req r with
  | none => v
  | some q =>
    if q.stage = .answered then v
    else if q.stage = .delivering then
      (if q.drive = d then v.modReq r (fun q => { q with onEntry := false }) else v)
    else if q.kind = .copy then
      if q.copyNames d then
        (v.loseDest d r).discardCopy b r q (x.sched.hasOrder r || (x.seq.unitOf r).isSome) oc
      else v
    else if q.drive = d then v.finish r oc [] false
    else v

/-- R81, R87, R97: everything of a drive discarded, the drive put in a mount state, its requests failed with the
discard's outcome, and DRIVE CHANGE set on every line. The requests end in the order of their slots, which fixes the
order of two final answers of one line: the model's choice (log 38). -/
def Vol.discard (b : Battery) (d : DriveNo) (m : MountState) (oc : OutcomeCode) (v : Vol) : Vol :=
  let x := v.drive d
  let v := (v.spoil d).discardMirror d
  let v := (v.modSeq d (Sequencer.discard m)).modSched d Scheduler.discard
  (allReqs.foldl (fun w r => w.discardRequest b d x oc r) v).driveChange d

/-! ## The general reset -/

/-- R76, R77, R104, R123, R125: every block outside the battery domain in the state a general reset gives it; the
sectors being written are cut off. -/
def Vol.resetBlocks (b : Battery) (v : Vol) : Vol :=
  let v := allDrives.foldl (fun w d => w.spoil d) v
  let v := allLines.foldl (fun w k => w.modPort k (fun _ => Port.afterReset (b.rate k))) v
  let v := allDrives.foldl (fun w d => w.modDrive d (fun x => Drive.afterReset x.cable)) v
  { v with reqs := Vector.replicate 18 none, pool := v.pool.map (fun x => { x with owner := none }),
           retired := Vector.replicate 8 .free, tests := [] }

/-- R156, R168, R170: a general reset, with the silent recomputation at its end. -/
def generalReset (b : Battery) (v : Vol) : Battery × Vol := (b.recomputeAll, v.resetBlocks b)

end Sys2Proof.Machine
end

