-- ==== Sys2Proof/Machine/Intake.lean ====
section
/-! DEFINITION. Intake (R139 to R144): the admission checks, the opening of a request, and what each desk command does
once its frame is taken. -/

namespace Sys2Proof.Machine

/-! ## The checks -/

/-- R130, R133, R131: a complete frame of a line is passed to intake: the line is enabled, holds fewer than 16 waiting
direct answers, and has returned to mark after a break. A frame taken at 15 may make two direct answers, and the model
lets both wait: the count is then 17 (log 44). -/
def Vol.passes (b : Battery) (v : Vol) (k : Line) : Bool :=
  b.lineEnabled k && v.directCount k < Config.directLimit && (v.port k).detector == .idle

/-- R144: a command refused or answered without data. -/
def Vol.say (k : Line) (tag : Byte) (oc : OutcomeCode) (v : Vol) : Vol := v.answer k tag oc []

/-- R101: the tag is in use on the line. -/
def Vol.tagInUse (v : Vol) (k : Line) (tag : Byte) : Bool :=
  (lineReqs k).any (fun r => match v.req r with
    | none => false
    | some q => q.tag == tag)

/-- R101: the lower free slot of a line (log 32). -/
def Vol.freeSlotOf (v : Vol) (k : Line) : Option ReqId := (lineReqs k).find? (fun r => (v.req r).isNone)

/-- R140, check 4: the slot a request-opening command would take, or the outcome that refuses it. -/
def Vol.slotCheck (v : Vol) (k : Line) (tag : Byte) : Except OutcomeCode ReqId :=
  match v.freeSlotOf k with
  | none => .error .noSlot
  | some r => if v.tagInUse k tag then .error .badTag else .ok r

/-- R79: the gate of FETCH, DRAW, LIST, RELEASE and BREAK: the drive is in READY. -/
def Vol.ready (v : Vol) (d : DriveNo) : Bool := v.mount d == .ready

/-- R79, R143: the gate of FILE and SPIKE; none when it admits. -/
def Vol.writeGate (v : Vol) (d : DriveNo) : Option OutcomeCode :=
  let x := v.drive d
  if !v.ready d then some .notReady
  else if x.seq.writeProtected then some .writeProtected
  else if x.cat.fault then some .catalogFault
  else if x.cat.copySource then some .copyRunning
  else none

/-- R79: the gate of RECAL; none when it admits. -/
def Vol.recalGate (v : Vol) (d : DriveNo) : Option OutcomeCode :=
  match v.mount d with
  | .ready => none
  | .formatting => some .inUse
  | .receiving => some .inUse
  | .empty => some .notReady
  | .loading => some .notReady
  | .unformatted => some .notReady
  | .faulted => some .notReady

/-- R10, R178: the gate of FORMAT, and of COPY for its destination; none when it admits. -/
def Vol.rebuildGate (v : Vol) (d : DriveNo) : Option OutcomeCode :=
  match v.mount d with
  | .empty => some .notReady
  | .loading => some .notReady
  | .faulted => some .notReady
  | .formatting => some .inUse
  | .receiving => some .inUse
  | .ready => if (v.drive d).seq.writeProtected then some .writeProtected else none
  | .unformatted => if (v.drive d).seq.writeProtected then some .writeProtected else none

/-! ## The opening of a request (R101) -/

/-- R101: a request as it is admitted, its stage and slot given. -/
def newRequest (tag : Byte) (kind : ReqKind) (f : StoryFields) (stage : Stage) (slot admitted : Nat) : Request :=
  { tag, kind, drive := f.drive, dest := f.drive, cls := f.cls, edition := f.edition, stage, slug := f.slug,
    slot, onEntry := true, version := none, info := { length := 0, revision := 0, timestamp := [], extents := [] },
    ordersMade := 0, chain := [], filled := 0, delivered := 0, session := none, catBuf := none,
    waitSince := 0, format := none, copy := none, replies := [], outcome := none, silent := false, admitted }

/-- A request takes its slot. -/
def Vol.openRequest (v : Vol) (r : ReqId) (q : Request) : Vol := (v.setReq r (some q)).nextStamp

/-! ## FETCH, DRAW, FILE, SPIKE -/

/-- R44, R36, R106: a fetch that has passed its checks: a reader at once, or waiting while the entry's catalog write is
in flight. -/
def Vol.admitFetch (b : Battery) (k : Line) (tag : Byte) (kind : ReqKind) (f : StoryFields) (r : ReqId)
    (slot : Nat) (writing : Bool) (v : Vol) : Vol :=
  let f := { f with cls := clampClass (b.ceiling k) f.cls }
  let v := v.openRequest r (newRequest tag kind f .waiting slot v.stamp)
  if writing then v else v.becomeReader b r slot true

/-- R44: FETCH after its gate. -/
def Vol.fetchLookup (b : Battery) (k : Line) (tag : Byte) (f : StoryFields) (r : ReqId) (v : Vol) : Vol :=
  match (v.mirror f.drive).bind (fun m => m.lookup f.slug) with
  | none => v.say k tag .notFound
  | some slot => match v.entry f.drive slot with
    | none => v.say k tag .notFound
    | some e =>
      if e.image.state = .damaged then v.say k tag .catalogFault
      else v.admitFetch b k tag .fetch f r slot e.catWrite.isSome

/-- R28: a request slot, if any, is another line's. -/
def foreign (k : Line) : Option ReqId → Bool
  | none => false
  | some r => reqLine r != k

/-- R28: the checks of DRAW on the entry found; none when it passes. -/
def Vol.drawCheck (v : Vol) (k : Line) (e : Entry) : Option OutcomeCode :=
  if e.image.state = .damaged then some .catalogFault
  else if e.holder.isSome && e.holder != some k then some .held
  else if foreign k e.filing || foreign k e.spike then some .inUse
  else if e.holder != some k && Config.lineHolds ≤ v.holdCount k then some .noSlot
  else none

/-- R28: DRAW after its gate. -/
def Vol.drawLookup (b : Battery) (k : Line) (tag : Byte) (f : StoryFields) (r : ReqId) (v : Vol) : Vol :=
  match (v.mirror f.drive).bind (fun m => m.lookup f.slug) with
  | none => v.say k tag .notFound
  | some slot => match v.entry f.drive slot with
    | none => v.say k tag .notFound
    | some e => match v.drawCheck k e with
      | some oc => v.say k tag oc
      | none => v.admitFetch b k tag .draw f r slot e.catWrite.isSome

/-- R140: the common checks of FETCH and DRAW, up to the gate. -/
def Vol.readChecks (b : Battery) (k : Line) (tag drive cls edition : Byte) (slug : List Byte)
    (go : StoryFields → ReqId → Vol → Vol) (v : Vol) : Vol :=
  match parseStory tag drive cls edition slug with
  | none => v.say k tag .malformed
  | some f =>
    if !b.mayRead k f.drive then v.say k tag .notPermitted
    else match v.slotCheck k tag with
      | .error oc => v.say k tag oc
      | .ok r => if v.ready f.drive then go f r v else v.say k tag .notReady

/-- FETCH taken (R44). -/
def Vol.takeFetch (b : Battery) (k : Line) (tag drive cls edition : Byte) (slug : List Byte) (v : Vol) : Vol :=
  v.readChecks b k tag drive cls edition slug (fun f r w => w.fetchLookup b k tag f r)

/-- DRAW taken (R28). -/
def Vol.takeDraw (b : Battery) (k : Line) (tag drive cls edition : Byte) (slug : List Byte) (v : Vol) : Vol :=
  v.readChecks b k tag drive cls edition slug (fun f r w => w.drawLookup b k tag f r)

/-- R140: the common checks of FILE and SPIKE on the fields given, up to the gate. -/
def Vol.writeChecks (b : Battery) (k : Line) (tag : Byte) (fields : Option StoryFields)
    (go : StoryFields → ReqId → Vol → Vol) (v : Vol) : Vol :=
  match fields with
  | none => v.say k tag .malformed
  | some f =>
    if !b.mayFile k f.drive then v.say k tag .notPermitted
    else match v.slotCheck k tag with
      | .error oc => v.say k tag oc
      | .ok r => match v.writeGate f.drive with
        | some oc => v.say k tag oc
        | none => go f r v

/-- R112: a filing session at admission. -/
def Session.begin (edition : Nat) : Session :=
  { edition, keepHold := false, length := 0, fill := none, fillBytes := 0, full := [], pending := [], lastSector := none, idle := true }

/-- R112, R147: a filing opened on a slot, reserved for the slug where that is new, and answered TAKEN. -/
def Vol.admitFile (b : Battery) (k : Line) (tag : Byte) (f : StoryFields) (r : ReqId) (slot : Nat)
    (reserved : Option (List Byte)) (v : Vol) : Vol :=
  let f := { f with cls := clampClass (b.ceiling k) f.cls }
  let q := { newRequest tag .file f .opened slot v.stamp with session := some (Session.begin f.edition) }
  ((v.openRequest r q).modEntry f.drive slot (fun e => { e with filing := some r, reserved })).reqAnswer r .taken
    (be16 0) true false

/-- R34, R41, R147: an entry is held by another line, or is being filed, spiked or rewritten; none when it is
neither. -/
def writeRefusal (k : Line) (e : Entry) : Option OutcomeCode :=
  if e.holder.isSome && e.holder != some k then some .held
  else if e.filing.isSome || e.spike.isSome || e.catWrite.isSome then some .inUse
  else none

/-- R147, R34: FILE after its gate. -/
def Vol.fileLookup (b : Battery) (k : Line) (tag : Byte) (f : StoryFields) (r : ReqId) (v : Vol) : Vol :=
  if b.editionState f.edition = .closed then v.say k tag .editionClosed
  else match v.mirror f.drive with
    | none => v.say k tag .notReady
    | some m => match m.lookup f.slug with
      | some slot => match (m.entry slot).bind (writeRefusal k) with
        | some oc => v.say k tag oc
        | none => v.admitFile b k tag f r slot none
      | none =>
        if m.reservedFor f.slug then v.say k tag .inUse
        else match m.freeSlot with
          | none => v.say k tag .catalogFull
          | some slot => v.admitFile b k tag f r slot (some f.slug)

/-- FILE taken (R147). -/
def Vol.takeFile (b : Battery) (k : Line) (tag drive cls edition : Byte) (slug : List Byte) (v : Vol) : Vol :=
  v.writeChecks b k tag (parseStory tag drive cls edition slug) (fun f r w => w.fileLookup b k tag f r)

/-- R41: a SPIKE admitted in WAITING, and on into WRITING where it can. -/
def Vol.admitSpike (b : Battery) (k : Line) (tag : Byte) (f : StoryFields) (r : ReqId) (slot : Nat) (v : Vol) : Vol :=
  let f := { f with cls := clampClass (b.ceiling k) f.cls }
  ((v.openRequest r (newRequest tag .spike f .waiting slot v.stamp)).modEntry f.drive slot
    (fun e => { e with spike := some r })).writeDue b r

/-- R41: SPIKE after its gate. -/
def Vol.spikeLookup (b : Battery) (k : Line) (tag : Byte) (f : StoryFields) (r : ReqId) (v : Vol) : Vol :=
  match (v.mirror f.drive).bind (fun m => m.lookup f.slug) with
  | none => v.say k tag .notFound
  | some slot => match (v.entry f.drive slot).bind (writeRefusal k) with
    | some oc => v.say k tag oc
    | none => v.admitSpike b k tag f r slot

/-- SPIKE taken (R41). -/
def Vol.takeSpike (b : Battery) (k : Line) (tag drive cls : Byte) (slug : List Byte) (v : Vol) : Vol :=
  v.writeChecks b k tag (parseSpike tag drive cls slug) (fun f r w => w.spikeLookup b k tag f r)

/-! ## TEXT and CLOSE -/

/-- R113, R116: the filing of a line in OPEN that a tag names. -/
def Vol.openFiling (v : Vol) (k : Line) (tag : Byte) : Option ReqId :=
  (lineReqs k).find? (fun r => match v.req r with
    | none => false
    | some q => q.tag == tag && q.kind == .file && q.stage == .opened)

/-- R114: a filing has a write order in flight. -/
def Vol.writeInFlight (v : Vol) (r : ReqId) (d : DriveNo) : Bool := (v.drive d).sched.hasOrder r

/-- R113, step 2: a TEXT of m bytes needs a fresh buffer. -/
def Session.needsFresh (ses : Session) (m : Nat) : Bool :=
  ses.fill.isNone || Config.sectorBytes < ses.fillBytes + m

/-- R113, step 4: bytes appended: into the fill buffer up to 1024, the rest into a fresh one, whose first bytes they
overwrite (R104). -/
def Vol.appendText (r : ReqId) (ses : Session) (bytes : List Byte) (v : Vol) : Vol :=
  let length := ses.length + bytes.length
  let count := ses.fillBytes + bytes.length
  let room := Config.sectorBytes - ses.fillBytes
  match ses.fill with
  | none => match v.takeBuf r with
    | none => v
    | some (x, w) =>
      (w.writeBuf x 0 bytes).modSession r (fun s => { s with length, fill := some x, fillBytes := bytes.length })
  | some x =>
    let v := v.writeBuf x ses.fillBytes (bytes.take room)
    if count < Config.sectorBytes then v.modSession r (fun s => { s with length, fillBytes := count })
    else if count = Config.sectorBytes then
      v.modSession r (fun s => { s with length, fill := none, fillBytes := 0, full := s.full ++ [x] })
    else match v.takeBuf r with
      | none => v
      | some (y, w) =>
        (w.writeBuf y 0 (bytes.drop room)).modSession r (fun s =>
          { s with length, fill := some y, fillBytes := count - Config.sectorBytes, full := s.full ++ [x] })

/-- R113, R114: a TEXT has filled a buffer and no write order is in flight: the filing forms one. -/
def Vol.formIfFull (b : Battery) (r : ReqId) (direct : Bool) (v : Vol) : Vol :=
  match v.req r with
  | none => v
  | some q => match q.session with
    | none => v
    | some ses =>
      if ses.full.isEmpty || v.writeInFlight r q.drive then v else v.formWrite b r direct

/-- R113: a TEXT that reaches its filing. -/
def Vol.fileText (b : Battery) (r : ReqId) (ses : Session) (bytes : List Byte) (v : Vol) : Vol :=
  if Config.maxLength < ses.length + bytes.length then v.endWithOrder r .tooLong true
  else if ses.needsFresh bytes.length && (v.freeBufs == 0 || Config.requestBuffers ≤ v.heldBufs r) then
    (v.modSession r (fun s => { s with idle := true })).reqAnswer r .poolBusy (be16 ses.length) true false
  else
    (((v.appendText r ses bytes).modSession r (fun s => { s with idle := true })).reqAnswer r .taken
      (be16 (ses.length + bytes.length)) true false).formIfFull b r true

/-- TEXT taken (R113, R148). -/
def Vol.takeText (b : Battery) (k : Line) (tag : Byte) (bytes : List Byte) (v : Vol) : Vol :=
  if !tagOk tag || bytes.length == 0 || 256 < bytes.length then v.say k tag .malformed
  else match v.openFiling k tag with
    | none => v.say k tag .badTag
    | some r => match (v.req r).bind Request.session with
      | none => v.say k tag .badTag
      | some ses => v.fileText b r ses bytes

/-- R116: the fill buffer at CLOSE, zero-filled, joins the full buffers. -/
def Vol.flushFill (r : ReqId) (ses : Session) (v : Vol) : Vol :=
  match ses.fill with
  | none => v
  | some x =>
    (v.fillBuf x (padTo Config.sectorBytes ((v.buf x).data.take ses.fillBytes))).modSession r
      (fun s => { s with fill := none, fillBytes := 0, full := s.full ++ [x] })

/-- R116: with no write order in flight, the last buffers are written, or the commit is due. -/
def Vol.closeOn (b : Battery) (r : ReqId) (v : Vol) : Vol :=
  match v.req r with
  | none => v
  | some q => match q.session with
    | none => v
    | some ses =>
      if v.writeInFlight r q.drive then v
      else if ses.full.isEmpty then v.commitDue b r
      else v.formWrite b r true

/-- CLOSE taken (R116, R148). -/
def Vol.takeClose (b : Battery) (k : Line) (tag keep : Byte) (v : Vol) : Vol :=
  match parseFlag keep with
  | none => v.say k tag .malformed
  | some keepHold =>
    if !tagOk tag then v.say k tag .malformed
    else match v.openFiling k tag with
      | none => v.say k tag .badTag
      | some r => match (v.req r).bind Request.session with
        | none => v.say k tag .badTag
        | some ses =>
          let v := v.modReq r (fun q =>
            { q with stage := .closing, session := some { ses with keepHold, idle := false } })
          (v.flushFill r ses).closeOn b r

/-! ## RELEASE and LIST -/

/-- RELEASE taken (R30). -/
def Vol.takeRelease (k : Line) (tag drive : Byte) (slug : List Byte) (v : Vol) : Vol :=
  match parseNamed tag drive slug with
  | none => v.say k tag .malformed
  | some (d, g) =>
    if !v.ready d then v.say k tag .notReady
    else match (v.mirror d).bind (fun m => m.lookup g) with
      | none => v.say k tag .notFound
      | some slot =>
        if (v.entry d slot).bind Entry.holder = some k then (v.dropHold d slot).say k tag .done
        else v.say k tag .notFound

/-- R188: the holder byte of a record. -/
def holderByte : Option Line → Byte
  | none => 0xFF#8
  | some k => BitVec.ofNat 8 k.val

/-- R188: a LISTING record. -/
def listingRecord (slot : Nat) (e : Entry) : List Byte :=
  [BitVec.ofNat 8 slot] ++ e.image.slug
    ++ [e.image.state.code, BitVec.ofNat 8 e.image.edition, holderByte e.holder]
    ++ be16 e.image.revision ++ be16 e.image.length ++ e.image.timestamp

/-- R43: the records of the entries from a slot on whose slug begins with a pattern. -/
def listRecords (pattern : List Byte) : List (Option Entry) → Nat → List (List Byte)
  | [], _ => []
  | none :: rest, i => listRecords pattern rest (i + 1)
  | some e :: rest, i =>
    if e.image.state != .free && e.image.slug.take pattern.length == pattern then
      listingRecord i e :: listRecords pattern rest (i + 1)
    else listRecords pattern rest (i + 1)

/-- LIST taken (R43): one item of records for the line's reply list. -/
def Vol.takeList (b : Battery) (k : Line) (tag drive count : Byte) (pattern : List Byte) (v : Vol) : Vol :=
  match parseList tag drive count pattern with
  | none => v.say k tag .malformed
  | some (d, g) =>
    if !b.mayRead k d then v.say k tag .notPermitted
    else match v.ready d, v.mirror d with
      | true, some m =>
        let records := listRecords g m.slots 0
        v.addReply k (.listing tag records records.length) true .plain
      | _, _ => v.say k tag .notReady

/-! ## CANCEL, STATUS, TIME, DRIVE -/

/-- R119: the request of a line that a tag names. -/
def Vol.tagged (v : Vol) (k : Line) (tag : Byte) : Option ReqId :=
  (lineReqs k).find? (fun r => match v.req r with
    | none => false
    | some q => q.tag == tag)

/-- CANCEL taken (R119, R120). -/
def Vol.takeCancel (b : Battery) (k : Line) (tag target : Byte) (v : Vol) : Vol :=
  if !tagOk tag then v.say k tag .malformed
  else match v.tagged k target with
    | none => v.say k tag .badTag
    | some r => match v.req r with
      | none => v.say k tag .badTag
      | some q =>
        if v.tooLate q then v.say k tag .tooLate
        else if q.stage = .ending then v.say k tag .done
        else (v.cancelRequest b r).say k tag .done

/-- R139: the code of the command that opens a request of a kind. -/
def ReqKind.code : ReqKind → Byte
  | .fetch => 0x01 | .draw => 0x02 | .file => 0x03 | .spike => 0x07
  | .format => 0x27 | .copy => 0x28 | .recal => 0x29

/-- R188: the code of a stage. -/
def Stage.code : Stage → Byte
  | .waiting => 1 | .reading => 2 | .delivering => 3 | .opened => 4 | .closing => 5
  | .commitWait => 6 | .committing => 7 | .writing => 8 | .running => 9 | .opening => 10
  | .tracks => 11 | .catalog => 12 | .label => 13 | .ending => 14 | .answered => 15

/-- R188: a request slot as STATUS reports it. -/
def slotReport : Option Request → List Byte
  | none => [0, 0, 0]
  | some q => [q.tag, q.kind.code, q.stage.code]

/-- R149: a hold as STATUS reports it. -/
def Vol.holdReport (v : Vol) (h : Nat × DriveNo × Nat) : List Byte :=
  match v.entry h.2.1 h.2.2 with
  | none => []
  | some e => BitVec.ofNat 8 h.2.1.val :: e.image.slug

/-- R149: the data of a STATUS answer. -/
def Vol.statusData (v : Vol) (k : Line) : List Byte :=
  (lineReqs k).flatMap (fun r => slotReport (v.req r)) ++ [BitVec.ofNat 8 (v.holdCount k)]
    ++ (v.holdsInOrder k).flatMap v.holdReport ++ (v.port k).notice.bytes

/-- STATUS taken (R149). -/
def Vol.takeStatus (k : Line) (tag : Byte) (v : Vol) : Vol :=
  if tagOk tag then v.answer k tag .done (v.statusData k) else v.say k tag .malformed

/-- TIME taken (R150). -/
def Vol.takeTime (b : Battery) (k : Line) (tag : Byte) (v : Vol) : Vol :=
  if tagOk tag then v.answer k tag .done b.clock.report else v.say k tag .malformed

/-- R188: the byte of a mount state. -/
def MountState.code : MountState → Byte
  | .empty => 0 | .loading => 1 | .ready => 2 | .unformatted => 3 | .formatting => 4
  | .receiving => 5 | .faulted => 6

/-- R151: the counts and the volume name, from the mirror if the drive has one. -/
def mirrorReport : Option Mirror → List Byte
  | none => be16 0 ++ [0, 0] ++ spaces 8
  | some m => be16 m.free.length ++ [BitVec.ofNat 8 m.filedCount, BitVec.ofNat 8 m.label.badCount] ++ m.label.volume

/-- R188: the conditions byte. -/
def Drive.conditions (x : Drive) : Byte :=
  (if x.seq.writeProtected then 1#8 else 0#8) ||| (if x.cat.fault then 2#8 else 0#8)
    ||| (if x.cat.copySource then 4#8 else 0#8)

/-- R151: the head cylinder byte; the cylinder the head stands on (log 13). -/
def cylByte : Option Nat → Byte
  | none => 0xFF#8
  | some c => BitVec.ofNat 8 c

/-- R52: the in-service class byte. -/
def serviceByte : Option Order → Byte
  | none => 0xFF#8
  | some o => BitVec.ofNat 8 o.cls.rank

/-- R151: the data of a DRIVE answer. -/
def Drive.report (x : Drive) : List Byte :=
  [x.seq.mount.code, x.conditions, cylByte x.seq.cyl, BitVec.ofNat 8 x.sched.queue.length,
    BitVec.ofNat 8 x.sched.depth, serviceByte x.sched.service, BitVec.ofNat 8 x.seq.retries]
    ++ mirrorReport x.cat.mirror

/-- DRIVE taken (R151). -/
def Vol.takeDrive (b : Battery) (k : Line) (tag drive : Byte) (v : Vol) : Vol :=
  match parseOnlyDrive tag drive with
  | none => v.say k tag .malformed
  | some d =>
    if b.mayRead k d then v.answer k tag .done (v.drive d).report else v.say k tag .notPermitted

end Sys2Proof.Machine
end

