-- ==== Sys2Proof/Machine/Supervision.lean ====
section
/-! DEFINITION. What each supervisor command does once its frame is taken: the configuration table (R172 to R177), the
clock and editions (R153, R160 to R168), BREAK (R154), FORMAT (R10), COPY (R178, R179), RECAL (R99) and RESTART
(R156). -/

namespace Sys2Proof.Machine

/-- R140, check 2: a line that may send supervisor commands. -/
def isSupervisor (k : Line) : Bool := k == supervisorLine

/-! ## The configuration table -/

/-- R173: an item of the configuration table. -/
inductive Item where
  | desk (k : Fin 8) (f : Fin 5)
  | cabinet (d : DriveNo) (f : Fin 6)
  | supervisorRate
  | trim
deriving DecidableEq, Repr

/-- R173: the item of a number, if it is one. -/
def parseItem (n : Byte) : Option Item :=
  let m := n.toNat
  if h : m < 64 then
    if g : m % 8 < 5 then some (.desk ⟨m / 8, by omega⟩ ⟨m % 8, g⟩) else none
  else if h : m < 96 then
    if g : m % 8 < 6 then some (.cabinet ⟨(m - 64) / 8, by omega⟩ ⟨m % 8, g⟩) else none
  else if m = 96 then some .supervisorRate
  else if m = 97 then some .trim
  else none

/-- R174: the top of an item's range; the trim is not written by SET. -/
def Item.top : Item → Nat
  | .desk _ f => ([1, 3, 15, 15, 4] : List Nat).getD f.val 0
  | .cabinet _ f => ([7, 30, 60, 15, 2, 1] : List Nat).getD f.val 0
  | .supervisorRate => 4
  | .trim => 0

/-- The fields of a desk line's settings, by number (R174). -/
def LineSettings.field (s : LineSettings) (f : Fin 5) : Nat :=
  match f with
  | 0 => s.enabled
  | 1 => s.ceiling
  | 2 => s.readSet
  | 3 => s.fileSet
  | 4 => s.rate

/-- A field of a desk line's settings stored. -/
def LineSettings.store (s : LineSettings) (f : Fin 5) (x : Nat) : LineSettings :=
  match f with
  | 0 => { s with enabled := x }
  | 1 => { s with ceiling := x }
  | 2 => { s with readSet := x }
  | 3 => { s with fileSet := x }
  | 4 => { s with rate := x }

/-- The fields of a drive's settings, by number (R174). -/
def DriveSettings.field (s : DriveSettings) (f : Fin 6) : Nat :=
  match f with
  | 0 => s.stepCode
  | 1 => s.settle
  | 2 => s.headLoad
  | 3 => s.unload
  | 4 => s.verify
  | 5 => s.preempt

/-- A field of a drive's settings stored. -/
def DriveSettings.store (s : DriveSettings) (f : Fin 6) (x : Nat) : DriveSettings :=
  match f with
  | 0 => { s with stepCode := x }
  | 1 => { s with settle := x }
  | 2 => { s with headLoad := x }
  | 3 => { s with unload := x }
  | 4 => { s with verify := x }
  | 5 => { s with preempt := x }

/-- R173: the two value bytes of an item as GET gives them. -/
def Battery.itemBytes (b : Battery) : Item → List Byte
  | .desk k f => be16 ((b.settings.lines[k]).field f)
  | .cabinet d f => be16 ((b.settings.drives[d]).field f)
  | .supervisorRate => be16 b.settings.supervisorRate
  | .trim => signedBytes b.clock.trim

/-- A settings store with an item written (R173). -/
def Settings.store (t : Settings) (i : Item) (x : Nat) : Settings :=
  match i with
  | .desk k f => { t with lines := t.lines.set k ((t.lines[k]).store f x) }
  | .cabinet d f => { t with drives := t.drives.set d ((t.drives[d]).store f x) }
  | .supervisorRate => { t with supervisorRate := x }
  | .trim => t

/-- R173: an item stored, clamped to its range. -/
def Battery.storeItem (b : Battery) (i : Item) (value : Nat) : Battery :=
  { b with settings := b.settings.store i (min value i.top) }

/-- R176: the mark of a SET's answer: a rate code's change comes with its last byte. -/
def Item.mark : Item → Mark
  | .desk k f => if f = 4 then .rate ⟨k.val, by omega⟩ else .plain
  | .cabinet _ _ => .plain
  | .supervisorRate => .rate supervisorLine
  | .trim => .plain

/-- R90: a running unload count starts again at 0 against a new setting; a setting of 0 stops it. -/
def Sequencer.restartUnload (setting : Nat) (q : Sequencer) : Sequencer :=
  match q.unload with
  | none => q
  | some _ => { q with unload := if setting = 0 then none else some 0 }

/-- R90, R177: what a SET does at once outside the settings store. -/
def Vol.noteSet (i : Item) (value : Nat) (v : Vol) : Vol :=
  match i with
  | .desk _ _ => v
  | .cabinet d f => if f = 3 then v.modSeq d (Sequencer.restartUnload (min value i.top)) else v
  | .supervisorRate => v
  | .trim => v

/-- The check 2 of R140 on a command whose body is well formed. -/
def onlySupervisor (k : Line) (tag : Byte) (b : Battery) (v : Vol) (go : Battery × Vol) : Battery × Vol :=
  if isSupervisor k then go else (b, v.say k tag .notPermitted)

/-- SET taken (R152, R173). -/
def takeSet (k : Line) (tag item : Byte) (value : Word16) (b : Battery) (v : Vol) : Battery × Vol :=
  match parseItem item with
  | none => (b, v.say k tag .malformed)
  | some i =>
    if !tagOk tag || i == .trim then (b, v.say k tag .malformed)
    else onlySupervisor k tag b v
      (let b' := b.storeItem i value.toNat
       (b', (v.noteSet i value.toNat).addReply k (.single (answerBody tag .done (item :: b'.itemBytes i))) true i.mark))

/-- GET taken (R152, R173). -/
def takeGet (k : Line) (tag item : Byte) (b : Battery) (v : Vol) : Battery × Vol :=
  match parseItem item with
  | none => (b, v.say k tag .malformed)
  | some i =>
    if !tagOk tag then (b, v.say k tag .malformed)
    else onlySupervisor k tag b v (b, v.answer k tag .done (item :: b.itemBytes i))

/-! ## The clock and the editions -/

/-- R162: the clock a SETTIME's bytes give, if they are BCD and form a date and time of the calendar. -/
def Clock.ofBytes (c : Clock) (yy mm dd hh mi ss : Byte) : Option Clock :=
  match fromBcd yy, fromBcd mm, fromBcd dd, fromBcd hh, fromBcd mi, fromBcd ss with
  | some y, some m, some d, some h, some n, some s =>
    let t : Clock :=
      { yy := y, mm := m, dd := d, hh := h, mi := n, ss := s, prescaler := 0, secondLength := 32768,
        trim := c.trim, valid := true }
    if t.validDate then some t else none
  | _, _, _, _, _, _ => none

/-- SETTIME taken (R162). -/
def takeSettime (k : Line) (tag yy mm dd hh mi ss : Byte) (b : Battery) (v : Vol) : Battery × Vol :=
  match b.clock.ofBytes yy mm dd hh mi ss with
  | none => (b, v.say k tag .malformed)
  | some t =>
    if !tagOk tag then (b, v.say k tag .malformed)
    else onlySupervisor k tag b v
      (({ b with clock := t } : Battery).recomputeAll, v.answer k tag .done t.report)

/-- TRIM taken (R160). -/
def takeTrim (k : Line) (tag : Byte) (value : Word16) (b : Battery) (v : Vol) : Battery × Vol :=
  if !tagOk tag then (b, v.say k tag .malformed)
  else onlySupervisor k tag b v
    ({ b with clock := { b.clock with trim := clampTrim (signed16 value) } },
      v.answer k tag .done (signedBytes (clampTrim (signed16 value))))

/-- R71: an order that a WARNING event raises: a queued ROUTINE order whose request carries one of the editions. -/
def Vol.raisable (v : Vol) (warned : Byte) (o : Order) : Bool :=
  o.cls == .routine && (match v.req o.req with
    | none => false
    | some q => 1 ≤ q.edition && warned.getLsbD (q.edition - 1))

/-- R71: the WARNING event of some editions on a drive: its queued orders raised, and each tested for preemption. -/
def Vol.promoteOn (warned : Byte) (v : Vol) (d : DriveNo) : Vol :=
  let s := (v.drive d).sched
  let raised := s.queue.filter (v.raisable warned)
  let w := v.modSched d (fun s =>
    { s with queue := s.queue.map (fun o => if v.raisable warned o then { o with cls := .edition } else o) })
  if s.service.isSome then { w with tests := w.tests ++ raised.map (fun o => (d, o.arrival)) } else w

/-- R167: a minute event: the enabled editions evaluated, the notices merged on every line, and the WARNING events to
every scheduler. -/
def minuteTick (b : Battery) (v : Vol) : Battery × Vol :=
  let b' := b.minuteEvent
  let warned := entered .warning b b'
  (b', allDrives.foldl (Vol.promoteOn warned) (v.editionNotices warned (entered .closed b b')))

/-- ROUND taken (R163). -/
def takeRound (k : Line) (tag : Byte) (b : Battery) (v : Vol) : Battery × Vol :=
  if !tagOk tag then (b, v.say k tag .malformed)
  else onlySupervisor k tag b v
    (let b' := { b with clock := b.clock.rounded }
     let v' := v.answer k tag .done b'.clock.report
     if b.clock.ss < 30 then (b', v') else minuteTick b' v')

/-- R153: a time of day of two BCD bytes, as a minute of the day. -/
def parseTime (hh mm : Byte) : Option Nat :=
  match fromBcd hh, fromBcd mm with
  | some h, some m => if h ≤ 23 ∧ m ≤ 59 then some (60 * h + m) else none
  | _, _ => none

/-- R153: the number, enabled flag, times and lead of an EDITION, the place in the table first. -/
def parseEditionCommand (number enabled openHH openMM closeHH closeMM lead : Byte) :
    Option (Fin 8 × Bool × Nat × Nat × Nat) :=
  match parseFlag enabled, parseTime openHH openMM, parseTime closeHH closeMM with
  | some on, some o, some c =>
    if h : 1 ≤ number.toNat ∧ number.toNat ≤ 8 then
      if o ≠ c ∧ lead.toNat ≤ 59 then some (⟨number.toNat - 1, by omega⟩, on, o, c, lead.toNat) else none
    else none
  | _, _, _ => none

/-- R166: the entry an EDITION stores: the lead clamped below the span, the state recomputed silently. -/
def Edition.stored (on : Bool) (opens closes lead minute : Nat) : Edition :=
  let e : Edition := { enabled := on, opens, closes, lead, state := .opened }
  ({ e with lead := min lead (e.span - 1) } : Edition).recompute minute

/-- R188: the data of an EDITION answer. -/
def Edition.report (number : Byte) (e : Edition) : List Byte :=
  [number, if e.enabled then 1 else 0, bcd (e.opens / 60), bcd (e.opens % 60), bcd (e.closes / 60),
    bcd (e.closes % 60), BitVec.ofNat 8 e.lead, e.state.code]

/-- EDITION taken (R166). -/
def takeEdition (k : Line) (tag number enabled openHH openMM closeHH closeMM lead : Byte) (b : Battery) (v : Vol) :
    Battery × Vol :=
  match parseEditionCommand number enabled openHH openMM closeHH closeMM lead with
  | none => (b, v.say k tag .malformed)
  | some (i, on, o, c, l) =>
    if !tagOk tag then (b, v.say k tag .malformed)
    else onlySupervisor k tag b v
      (let e := Edition.stored on o c l b.clock.minute
       (b.setEdition i e, v.answer k tag .done (e.report number)))

/-! ## BREAK -/

/-- R154: BREAK after its gate. -/
def Vol.breakHold (k : Line) (tag : Byte) (d : DriveNo) (g : List Byte) (v : Vol) : Vol :=
  match (v.mirror d).bind (fun m => m.lookup g) with
  | none => v.say k tag .notFound
  | some slot => match (v.entry d slot).bind Entry.holder with
    | none => v.say k tag .notFound
    | some j => ((v.holdLost j d).dropHold d slot).say k tag .done

/-- BREAK taken (R154). -/
def takeBreak (k : Line) (tag drive : Byte) (slug : List Byte) (b : Battery) (v : Vol) : Battery × Vol :=
  match parseNamed tag drive slug with
  | none => (b, v.say k tag .malformed)
  | some (d, g) => onlySupervisor k tag b v
    (b, if v.ready d then v.breakHold k tag d g else v.say k tag .notReady)

/-! ## FORMAT, COPY, RECAL, RESTART -/

/-- R10, R178: a request that has not ended names a drive. -/
def Vol.namedByRequest (v : Vol) (d : DriveNo) : Bool :=
  allReqs.any (fun r => match v.req r with
    | none => false
    | some q => q.stage != .answered && (if q.kind = .copy then q.copyNames d else q.drive == d))

/-- R10, R178: the drive is in READY and in use: an open request on it, a hold on one of its entries, a retired record
of its own, or the copy-source condition. -/
def Vol.inUse (v : Vol) (d : DriveNo) : Bool :=
  v.ready d && (v.namedByRequest d || allLines.any (fun k => v.holdsOn k d)
    || allRecords.any (fun k => (v.record k).onDrive d) || (v.drive d).cat.copySource)

/-- The story fields of a supervisor request, which carries no class, edition or slug of its own (R142). -/
def plainFields (d : DriveNo) (cls : ServiceClass) : StoryFields := { drive := d, cls, edition := 0, slug := spaces 12 }

/-- R10, R179: a drive taken for a FORMAT or as a COPY's destination: its mirror discarded, its catalog fault cleared,
its mount state changed with the DRIVE CHANGE notice. -/
def Vol.takeDriveFor (v : Vol) (d : DriveNo) (m : MountState) : Vol :=
  (v.modCat d Catalog.discard).changeMount d m

/-- R10, R11: a FORMAT admitted and begun. -/
def Vol.admitFormat (b : Battery) (tag : Byte) (d : DriveNo) (volume : List Byte) (r : ReqId) (v : Vol) : Vol :=
  let q := { newRequest tag .format (plainFields d .background) .running 0 v.stamp with
    format := some { volume, bads := [] } }
  ((v.openRequest r q).takeDriveFor d .formatting).beginUnit b d r false .invalidate

/-- FORMAT taken (R10). -/
def takeFormat (k : Line) (tag drive : Byte) (volume : List Byte) (b : Battery) (v : Vol) : Battery × Vol :=
  match parseFormat tag drive volume with
  | none => (b, v.say k tag .malformed)
  | some (d, g) => onlySupervisor k tag b v
    (b, match v.slotCheck k tag with
      | .error oc => v.say k tag oc
      | .ok r => match v.rebuildGate d with
        | some oc => v.say k tag oc
        | none => if v.inUse d then v.say k tag .inUse else v.admitFormat b tag d g r)

/-- R178: the source refuses a COPY: it has the copy-source condition, three suspended orders, or a filing or SPIKE
open on an entry of its mirror. -/
def Vol.sourceInUse (v : Vol) (s : DriveNo) : Bool :=
  (v.drive s).cat.copySource || Config.stackSlots ≤ (v.drive s).sched.stack.length
    || (match v.mirror s with
      | none => false
      | some m => m.slots.any (fun o => match o with
        | none => false
        | some e => e.filing.isSome || e.spike.isSome))

/-- R178: the destination's label as read at its mount when it is in READY; none in UNFORMATTED. -/
def Vol.destLabel (v : Vol) (d : DriveNo) : Option Label :=
  if v.ready d then (v.mirror d).map Mirror.label else none

/-- R178: the destination's bad list. -/
def badListOf : Option Label → List Nat
  | none => []
  | some l => l.bads

/-- R178: the destination's bad list contains a sector of a current extent of a FILED entry of the source. -/
def Vol.destinationBad (v : Vol) (s d : DriveNo) : Bool :=
  match v.mirror s with
  | none => false
  | some m => (filedSectors m.slots).any (fun x => (badListOf (v.destLabel d)).contains x)

/-- R178: the gate and the command-specific checks of COPY; none when it passes. -/
def Vol.copyCheck (v : Vol) (s d : DriveNo) : Option OutcomeCode :=
  if !v.ready s then some .notReady
  else match v.rebuildGate d with
    | some oc => some oc
    | none =>
      if v.sourceInUse s || v.inUse d then some .inUse
      else if v.destinationBad s d then some .destinationBad
      else none

/-- R179: what a COPY records at its admission. -/
def Vol.copyWork (v : Vol) (s d : DriveNo) : CopyWork :=
  { badCount := ((v.destLabel d).map Label.badCount).getD 0, bads := badListOf (v.destLabel d),
    volume := ((v.mirror s).map (fun m => m.label.volume)).getD (spaces 8),
    date := ((v.mirror s).map (fun m => m.label.date)).getD (List.replicate 6 0),
    holdsSource := true, holdsDest := true, stop := false }

/-- R179, R180: a COPY admitted and begun. -/
def Vol.admitCopy (b : Battery) (tag : Byte) (s d : DriveNo) (r : ReqId) (v : Vol) : Vol :=
  let q := { newRequest tag .copy (plainFields s .background) .opening 0 v.stamp with
    dest := d, copy := some (v.copyWork s d) }
  let v := (v.openRequest r q).modSched s (fun x => { x with cursor := some (1, 0) })
  ((v.modCat s (fun c => { c with copySource := true })).takeDriveFor d .receiving).beginUnit b d r true .invalidate

/-- COPY taken (R155, R178, R179). -/
def takeCopy (k : Line) (tag source dest : Byte) (b : Battery) (v : Vol) : Battery × Vol :=
  match parseCopy tag source dest with
  | none => (b, v.say k tag .malformed)
  | some (s, d) => onlySupervisor k tag b v
    (b, match v.slotCheck k tag with
      | .error oc => v.say k tag oc
      | .ok r => match v.copyCheck s d with
        | some oc => v.say k tag oc
        | none => v.admitCopy b tag s d r)

/-- R99: a RECAL admitted, with its one RECALIBRATE order. -/
def Vol.admitRecal (b : Battery) (tag : Byte) (d : DriveNo) (r : ReqId) (v : Vol) : Vol :=
  (v.openRequest r (newRequest tag .recal (plainFields d .flash) .running 0 v.stamp)).makeOrder b r d .recalibrate
    { cyl := 0, side := 0, first := 0, count := 0, skip := [], buffers := [] }

/-- RECAL taken (R99). -/
def takeRecal (k : Line) (tag drive : Byte) (b : Battery) (v : Vol) : Battery × Vol :=
  match parseOnlyDrive tag drive with
  | none => (b, v.say k tag .malformed)
  | some d => onlySupervisor k tag b v
    (b, match v.slotCheck k tag with
      | .error oc => v.say k tag oc
      | .ok r => match v.recalGate d with
        | some oc => v.say k tag oc
        | none => v.admitRecal b tag d r)

/-- RESTART taken (R156): answered DONE, the general reset to come with the last byte of that answer. -/
def takeRestart (k : Line) (tag : Byte) (b : Battery) (v : Vol) : Battery × Vol :=
  if !tagOk tag then (b, v.say k tag .malformed)
  else onlySupervisor k tag b v
    (b, v.addReply k (.single (answerBody tag .done [])) true .restart)

end Sys2Proof.Machine
end

