-- ==== Sys2Proof/Machine/Receiver.lean ====
section
/-! DEFINITION. The inbound side of a line port: the command a frame's body spells (R139, R188), the taking of a command,
the receive assembler (R127 to R130), the line reset (R121, R131) and what a sent frame brings (R132, R156, R176). -/

namespace Sys2Proof.Machine

/-! ## Bodies -/

/-- R139, R188: the command of a body, if its code is one of R139 and its length is the one its layout gives. -/
def Instr.ofBody (k : Line) : List Byte → Option Instr
  | code :: tag :: f =>
    let x := byteAt f
    let n := f.length
    match code.toNat with
    | 0x01 => if n = 15 then some (.fetch k tag (x 0) (x 1) (x 2) (f.drop 3)) else none
    | 0x02 => if n = 15 then some (.draw k tag (x 0) (x 1) (x 2) (f.drop 3)) else none
    | 0x03 => if n = 15 then some (.file k tag (x 0) (x 1) (x 2) (f.drop 3)) else none
    | 0x04 => if 1 ≤ n ∧ n ≤ 256 then some (.text k tag f) else none
    | 0x05 => if n = 1 then some (.close k tag (x 0)) else none
    | 0x06 => if n = 13 then some (.release k tag (x 0) (f.drop 1)) else none
    | 0x07 => if n = 14 then some (.spike k tag (x 0) (x 1) (f.drop 2)) else none
    | 0x08 => if n = 14 then some (.list k tag (x 0) (x 1) (f.drop 2)) else none
    | 0x09 => if n = 1 then some (.cancel k tag (x 0)) else none
    | 0x0A => if n = 0 then some (.status k tag) else none
    | 0x0B => if n = 0 then some (.time k tag) else none
    | 0x0C => if n = 1 then some (.drive k tag (x 0)) else none
    | 0x20 => if n = 3 then some (.set k tag (x 0) (x 1 ++ x 2)) else none
    | 0x21 => if n = 1 then some (.get k tag (x 0)) else none
    | 0x22 => if n = 6 then some (.settime k tag (x 0) (x 1) (x 2) (x 3) (x 4) (x 5)) else none
    | 0x23 => if n = 2 then some (.trim k tag (x 0 ++ x 1)) else none
    | 0x24 => if n = 0 then some (.round k tag) else none
    | 0x25 => if n = 7 then some (.edition k tag (x 0) (x 1) (x 2) (x 3) (x 4) (x 5) (x 6)) else none
    | 0x26 => if n = 13 then some (.breakHold k tag (x 0) (f.drop 1)) else none
    | 0x27 => if n = 9 then some (.format k tag (x 0) (f.drop 1)) else none
    | 0x28 => if n = 2 then some (.copy k tag (x 0) (x 1)) else none
    | 0x29 => if n = 1 then some (.recal k tag (x 0)) else none
    | 0x2A => if n = 0 then some (.restart k tag) else none
    | _ => none
  | _ => none

/-- A desk or console command taken by intake; nothing else is one. -/
def takeCommand (i : Instr) (b : Battery) (v : Vol) : Battery × Vol :=
  match i with
  | .fetch k tag d c e g => (b, v.takeFetch b k tag d c e g)
  | .draw k tag d c e g => (b, v.takeDraw b k tag d c e g)
  | .file k tag d c e g => (b, v.takeFile b k tag d c e g)
  | .text k tag bs => (b, v.takeText b k tag bs)
  | .close k tag h => (b, v.takeClose b k tag h)
  | .release k tag d g => (b, v.takeRelease k tag d g)
  | .spike k tag d c g => (b, v.takeSpike b k tag d c g)
  | .list k tag d n g => (b, v.takeList b k tag d n g)
  | .cancel k tag t => (b, v.takeCancel b k tag t)
  | .status k tag => (b, v.takeStatus k tag)
  | .time k tag => (b, v.takeTime b k tag)
  | .drive k tag d => (b, v.takeDrive b k tag d)
  | .set k tag i x => takeSet k tag i x b v
  | .get k tag i => takeGet k tag i b v
  | .settime k tag yy mm dd hh mi ss => takeSettime k tag yy mm dd hh mi ss b v
  | .trim k tag x => takeTrim k tag x b v
  | .round k tag => takeRound k tag b v
  | .edition k tag n en oh om ch cm l => takeEdition k tag n en oh om ch cm l b v
  | .breakHold k tag d g => takeBreak k tag d g b v
  | .format k tag d g => takeFormat k tag d g b v
  | .copy k tag s d => takeCopy k tag s d b v
  | .recal k tag d => takeRecal k tag d b v
  | .restart k tag => takeRestart k tag b v
  | _ => (b, v)

/-- R139, R141: a body taken by intake: its command, or MALFORMED on the tag byte as it was received. -/
def takeBody (k : Line) (body : List Byte) (b : Battery) (v : Vol) : Battery × Vol :=
  match Instr.ofBody k body with
  | some i => takeCommand i b v
  | none => (b, v.say k (byteAt body 1) .malformed)

/-! ## The receive assembler -/

/-- The assembler of a port and its two timers. -/
def Port.assemble (a : Assembler) (gap silence : Bool) (p : Port) : Port :=
  { p with assembler := a, gapTimer := gap, silenceTimer := silence }

/-- The assembler of a line goes to a state with its timers as given. -/
def Vol.assemble (k : Line) (a : Assembler) (gap silence : Bool) (v : Vol) : Vol :=
  v.modPort k (Port.assemble a gap silence)

/-- R129, R130, R133: the FRAME FAULT answer, not made while the line is disabled or holds 16 direct answers. -/
def Vol.frameFault (b : Battery) (k : Line) (v : Vol) : Vol :=
  if b.lineEnabled k && v.directCount k < Config.directLimit then v.say k 0 .frameFault else v

/-- R127, R130, R133: a frame whose second check byte has come: passed to intake when its check is good and the line's
frames are taken; faulted when it is not. -/
def frameEnds (k : Line) (high low : Byte) (kept : List Byte) (first second : Byte) (b : Battery) (v : Vol) :
    Battery × Vol :=
  let v' := v.assemble k .hunt false false
  if checkBytes (crc ([high, low] ++ kept)) = [first, second] then
    (if v'.passes b k then takeBody k kept b v' else (b, v'))
  else (b, v'.frameFault b k)

/-- R126: a body length the receiver takes. -/
def lengthOk (n : Nat) : Bool := 2 ≤ n && n ≤ 260

/-- R127, R129: the second length byte. -/
def Vol.lengthEnds (b : Battery) (k : Line) (high low : Byte) (v : Vol) : Vol :=
  if lengthOk (fromBe16 high low) then v.assemble k (.body high low []) true false
  else (v.assemble k .discard false true).frameFault b k

/-- R127: a body byte. -/
def Vol.bodyByte (k : Line) (high low : Byte) (kept : List Byte) (x : Byte) (v : Vol) : Vol :=
  let all := kept ++ [x]
  if all.length < fromBe16 high low then v.assemble k (.body high low all) true false
  else v.assemble k (.check high low all none) true false

/-- R127: the mark byte. -/
def markByte : Byte := 0xE7

/-- R127, R131: a byte taken by the receive assembler of a line that is not held off by a break. -/
def takeByte (k : Line) (x : Byte) (b : Battery) (v : Vol) : Battery × Vol :=
  if (v.port k).detector != .idle then (b, v)
  else match (v.port k).assembler with
    | .hunt => if x = markByte then (b, v.assemble k (.lengthField none) true false) else (b, v)
    | .lengthField none => (b, v.assemble k (.lengthField (some x)) true false)
    | .lengthField (some high) => (b, v.lengthEnds b k high x)
    | .body high low kept => (b, v.bodyByte k high low kept x)
    | .check high low kept none => (b, v.assemble k (.check high low kept (some x)) true false)
    | .check high low kept (some first) => frameEnds k high low kept first x b v
    | .discard => (b, v.assemble k .discard false true)

/-- R127: the second check byte of a frame with a good check; any other frame is not complete (log 2). -/
def takeCompletion (k : Line) (second : Byte) (b : Battery) (v : Vol) : Battery × Vol :=
  if (v.port k).detector != .idle then (b, v)
  else match (v.port k).assembler with
    | .check high low kept (some first) =>
      if checkBytes (crc ([high, low] ++ kept)) = [first, second] then frameEnds k high low kept first second b v
      else (b, v)
    | _ => (b, v)

/-- R129: a character with a framing fault. -/
def Vol.framingFault (b : Battery) (k : Line) (v : Vol) : Vol :=
  match (v.port k).assembler with
  | .hunt => v
  | .discard => v.assemble k .discard false true
  | _ => (v.assemble k .discard false true).frameFault b k

/-- R129: an inbound frame is faulted; an occasion that does not stand changes nothing (log 2). -/
def takeFault (k : Line) (cause : FrameFaultCause) (b : Battery) (v : Vol) : Battery × Vol :=
  if (v.port k).detector != .idle then (b, v)
  else match cause, (v.port k).assembler with
    | .badLength low, .lengthField (some high) =>
      (b, if lengthOk (fromBe16 high low) then v else v.lengthEnds b k high low)
    | .badCheck second, .check high low kept (some first) =>
      if checkBytes (crc ([high, low] ++ kept)) = [first, second] then (b, v)
      else frameEnds k high low kept first second b v
    | .framingFault, _ => (b, v.framingFault b k)
    | _, _ => (b, v)

/-- R128: the frame-gap limit expires. -/
def Vol.gapExpires (b : Battery) (k : Line) (v : Vol) : Vol :=
  if (v.port k).gapTimer then (v.assemble k .hunt false false).frameFault b k else v

/-- R129: 50 ms of silence in DISCARD. -/
def Vol.silenceExpires (k : Line) (v : Vol) : Vol :=
  if (v.port k).silenceTimer then v.assemble k .hunt false false else v

/-! ## Rates and sent frames -/

/-- R132, R176: a port takes its stored rate; a port at that rate already is unchanged. -/
def Port.takeRate (rate : Nat) (p : Port) : Port :=
  if p.rate = rate then p
  else
    let p := { p with rate }
    if p.assembler = .hunt then p else p.assemble .discard false true

/-- What the last byte of an answer brings (R156, R176). -/
def Mark.act (m : Mark) (b : Battery) (v : Vol) : Battery × Vol :=
  match m with
  | .plain => (b, v)
  | .restart => generalReset b v
  | .rate k => (b, v.modPort k (Port.takeRate (b.rate k)))

/-- R134: the frame in transmission of a line has been sent. -/
def takeSent (k : Line) (b : Battery) (v : Vol) : Battery × Vol :=
  match (v.port k).store with
  | [] => (b, v)
  | f :: rest => f.mark.act b (v.modPort k (fun p => { p with store := rest }))

/-! ## The line reset -/

/-- R176: an answer's mark when a line reset discards the answer: a rate change is made at once, a RESTART makes no
general reset (R156). -/
def Vol.discardMark (b : Battery) (v : Vol) (m : Mark) : Vol :=
  match m with
  | .plain => v
  | .restart => v
  | .rate k => v.modPort k (Port.takeRate (b.rate k))

/-- The marks of the answers a line reset discards. -/
def Port.marks (p : Port) : List Mark := p.store.map Frame.mark ++ p.replies.map Waiting.mark

/-- R131: the port of a line after a line reset; the rate stands. -/
def Port.lineReset (p : Port) : Port :=
  { p with assembler := .hunt, gapTimer := false, silenceTimer := false, detector := .timing,
           replies := [], store := [], notice := Notice.afterReset }

/-- R121: a request whose work runs on through a line reset. -/
def Vol.runsOn (v : Vol) (q : Request) : Bool :=
  q.stage == .ending || q.stage == .committing || q.stage == .writing || v.inLabelUnit q

/-- R121: what a line reset does to a request of the line. -/
def Vol.lineResetRequest (b : Battery) (r : ReqId) (v : Vol) : Vol :=
  match v.req r with
  | none => v
  | some q =>
    if q.stage = .answered then v.setReq r none
    else
      let v := v.modReq r (fun q => { q with replies := [], silent := true })
      if v.runsOn q then v else v.cancelRequest b r

/-- R131: a line reset. -/
def Vol.lineReset (b : Battery) (k : Line) (v : Vol) : Vol :=
  let marks := (v.port k).marks
  let v := ((v.modPort k Port.lineReset).dropLine k)
  (lineReqs k).foldl (fun w r => w.lineResetRequest b r) (marks.foldl (Vol.discardMark b) v)

/-- R131: a space has lasted 100 ms; a space that goes on starts no second line reset. -/
def Vol.takeBreakLine (b : Battery) (k : Line) (v : Vol) : Vol :=
  if (v.port k).detector = .idle then v.lineReset b k else v

/-- R131: the line returns to mark. -/
def Vol.returnsToMark (k : Line) (v : Vol) : Vol := v.modPort k (fun p => { p with detector := .idle })

end Sys2Proof.Machine
end

