-- ==== Sys2Proof/Machine/Sensing.lean ====
section
/-! DEFINITION. What each event of a drive does (R2, R6, R80 to R100), and of the power, the RESET input and the clock
(R158, R170, R171). An event that cannot come in the state as it stands changes nothing (log 2). -/

namespace Sys2Proof.Machine

/-! ## The index, the head and the door -/

/-- R91: index pulses counted by a search, at most two. -/
def Phase.pulse : Phase → Phase
  | .searching n right wrong => .searching (min 2 (n + 1)) right wrong
  | p => p

/-- R2, R90, R91, R98: an index pulse. The unload count does not pass the setting. -/
def Sequencer.pulse (setting : Nat) (q : Sequencer) : Sequencer :=
  { q with angle := 0, unload := q.unload.map (fun n => min setting (n + 1)), phase := q.phase.pulse }

/-- An index pulse of a drive. -/
def Vol.indexPulse (b : Battery) (d : DriveNo) (v : Vol) : Vol :=
  v.modSeq d (Sequencer.pulse (b.drive d).unload)

/-- R90: the unload count has reached the setting. -/
def Sequencer.unloadDue (setting : Nat) (q : Sequencer) : Bool :=
  match q.unload with
  | none => false
  | some n => setting != 0 && setting ≤ n

/-- R90: the head unloaded. -/
def Vol.headUnload (b : Battery) (d : DriveNo) (v : Vol) : Vol :=
  if (v.drive d).seq.unloadDue (b.drive d).unload then
    v.modSeq d (fun q => { q with head := .unloaded, unload := none })
  else v

/-- R97: 333 ms without an index pulse. -/
def Vol.indexStall (b : Battery) (d : DriveNo) (v : Vol) : Vol :=
  if (v.drive d).seq.stall then v.discard b d .faulted .driveFault else v

/-- R80, R82: a change of the raw door reading, with the diskette put in, if one was; its notch is what the
write-protect line reads. -/
def Cable.doorLine (closed : Bool) (inserted : Option Diskette) (c : Cable) : Cable :=
  if c.doorClosed = closed then c
  else match inserted with
    | none => { c with doorClosed := closed }
    | some m => { c with doorClosed := closed, disk := m, protect := m.notch }

/-- R80: the raw door reading of a drive changes; the qualifying time runs while it differs from the qualified
state. -/
def Vol.doorLine (d : DriveNo) (closed : Bool) (inserted : Option Diskette) (v : Vol) : Vol :=
  v.modCable d (Cable.doorLine closed inserted)

/-- R81: the raw reading has been open for 50 ms. -/
def Vol.doorOpens (b : Battery) (d : DriveNo) (v : Vol) : Vol :=
  if (v.drive d).seq.doorClosed && !(v.drive d).cable.doorClosed then v.discard b d .empty .disketteRemoved else v

/-- R83: the raw reading has been closed for 500 ms. -/
def Vol.doorCloses (b : Battery) (d : DriveNo) (v : Vol) : Vol :=
  if !(v.drive d).seq.doorClosed && (v.drive d).cable.doorClosed && (v.drive d).seq.mount == .empty then
    (v.modSeq d (fun q => { q with doorClosed := true })).startLoading b d
  else v

/-! ## Positioning -/

/-- R88: the head after a step. -/
def Sequencer.stepped (m : StepMove) (q : Sequencer) : Sequencer :=
  { q with step := none, cyl := q.cyl.map (fun h => if m.inward then h + 1 else h - 1),
           settleOwed := q.settleOwed && q.job != .none }

/-- R86: the line still reads false after the 80th step of a recalibration. -/
def Sequencer.recalFailed (track0 : Bool) (q : Sequencer) : Bool :=
  !track0 && q.cyl.isNone && Config.recalSteps ≤ q.recal.getD 0

/-- R100, R102: the RECALIBRATE order in service ends with the step in progress: its RECAL is in ENDING. -/
def Vol.recalEnding (v : Vol) (d : DriveNo) : Bool :=
  match (v.drive d).sched.service with
  | none => false
  | some o => o.kind == .recalibrate && v.endingOrder o

/-- R86, R100: a stopped recalibration ends its order with the step just made: the cylinder stays unknown, whatever the
track-0 line reads, and no settle is owed to later work (log 12). -/
def Vol.recalStops (b : Battery) (d : DriveNo) (v : Vol) : Vol :=
  (v.modSeq d (fun q => { q with settleOwed := false })).orderEnd b d .cancelled

/-- R86, R87, R88, R100: a step ends; the track-0 line reads as given. -/
def Vol.stepDone (b : Battery) (d : DriveNo) (track0 : Bool) (v : Vol) : Vol :=
  match (v.drive d).seq.step with
  | none => v
  | some m =>
    let v := (v.modCable d (fun c => { c with track0 })).modSeq d (Sequencer.stepped m)
    if v.recalEnding d then v.recalStops b d
    else if (v.drive d).seq.recalFailed track0 then v.discard b d .faulted .seekFault else v.go b d

/-- R88: a settle ends. -/
def Vol.settleDone (b : Battery) (d : DriveNo) (v : Vol) : Vol :=
  match (v.drive d).seq.settle with
  | none => v
  | some _ => (v.modSeq d (fun q => { q with settle := none })).go b d

/-- The head is being loaded. -/
def HeadLoad.isLoading : HeadLoad → Bool
  | .loading _ => true
  | .unloaded => false
  | .loaded => false

/-- R89: a head load ends. -/
def Vol.headLoadDone (b : Battery) (d : DriveNo) (v : Vol) : Vol :=
  if (v.drive d).seq.head.isLoading then
    let v := v.modSeq d (fun q => { q with head := .loaded })
    if (v.drive d).seq.phase = .positioning then v.go b d else v
  else v

/-! ## Headers and sectors -/

/-- R6: how a header bears on a search for a sector. -/
inductive HeaderClass where
  | ignored | sought | passes | wrongCylinder
deriving DecidableEq, Repr

/-- R6: a header classified. -/
def classify (cyl side sector : Nat) (h : HeaderRead) : HeaderClass :=
  if !headerGood h then .ignored
  else if h.cyl.toNat != cyl then .wrongCylinder
  else if h.side.toNat == side && h.sector.toNat == sector && h.size.toNat == 3 then .sought
  else .passes

/-- R83, R91, R11: the sector a search is for. -/
def Drive.searchTarget (x : Drive) : Option (Nat × Nat × Nat) :=
  match x.seq.job with
  | .none => none
  | .order => x.sched.service.map (fun o => (o.cyl, o.side, o.sector))
  | .loading l => some (0, (loadPlace l.sector).1, (loadPlace l.sector).2)
  | .unit u => some (u.kind.place.1, u.kind.place.2, 0)

/-- R35: the catalog sector of the CATALOG WRITE in service composed as a write of it begins. -/
def Vol.composeService (d : DriveNo) (v : Vol) : Vol :=
  match (v.drive d).sched.service with
  | none => v
  | some o => v.composeFor o d

/-- R91: the sought header: its sector's transfer begins. -/
def Vol.headerSought (d : DriveNo) (v : Vol) : Vol := (v.composeService d).setPhase d .transfer

/-- R6, R91: a header in a search. -/
def Vol.headerSearched (d : DriveNo) (pulses : Nat) (right wrong : Bool) (h : HeaderRead) (v : Vol) : Vol :=
  match (v.drive d).searchTarget with
  | none => v
  | some (c, side, n) => match classify c side n h with
    | .ignored => v
    | .sought => v.headerSought d
    | .passes => v.setPhase d (.searching pulses true wrong)
    | .wrongCylinder => v.setPhase d (.searching pulses right true)

/-- R95: a header in a verify pass, at the angle of the sector at hand (log 19). -/
def Vol.headerVerified (d : DriveNo) (w : VerifyWork) (h : HeaderRead) (v : Vol) : Vol :=
  match (v.drive d).sched.service, w.todo with
  | some o, n :: _ =>
    if classify o.cyl o.side n h = .sought then
      (if w.rewrite then v.composeFor o d else v).setPhase d (.verify { w with found := true })
    else v
  | _, _ => v

/-- R12, R14, R183: a header in a unit's pass, at the angle of the sector at hand (log 19). The write pass of a
track-side unit looks for none. -/
def Vol.headerInUnit (d : DriveNo) (verify : Bool) (h : HeaderRead) (v : Vol) : Vol :=
  match (v.drive d).seq.unit? with
  | none => v
  | some u => match u.todo with
    | [] => v
    | n :: _ =>
      if u.kind.onTrack && !verify then v
      else if classify u.kind.place.1 u.kind.place.2 n h = .sought then
        (if verify then v else v.setUnit d { u with image := v.unitImage u n }).setPhase d (.unitPass verify true)
      else v

/-- R6: a header passes under the head. -/
def Vol.headerFound (d : DriveNo) (h : HeaderRead) (v : Vol) : Vol :=
  match (v.drive d).seq.phase with
  | .searching pulses right wrong => if pulses < 2 then v.headerSearched d pulses right wrong h else v
  | .verify w => v.headerVerified d w h
  | .unitPass verify _ => v.headerInUnit d verify h
  | _ => v

/-- R91, R92: the attempt of the work in hand fails. -/
def Vol.searchFails (b : Battery) (d : DriveNo) (mispositioned : Bool) (v : Vol) : Vol :=
  match (v.drive d).seq.job with
  | .none => v
  | .order => match (v.drive d).sched.service with
    | none => v
    | some o => v.attemptFailed b d o false mispositioned
  | .loading l => v.loadFailed b d l false mispositioned
  | .unit u => v.invalidateEnd b d u

/-- R6, R91: two index pulses have passed without the sought header: mispositioned when every good header named a
wrong cylinder and there was one, else missing. -/
def Vol.searchLimit (b : Battery) (d : DriveNo) (v : Vol) : Vol :=
  match (v.drive d).seq.phase with
  | .searching pulses right wrong => if pulses < 2 then v else v.searchFails b d (wrong && !right)
  | _ => v

/-- R83, R84: a LOADING read ends. -/
def Vol.loadRead (b : Battery) (d : DriveNo) (l : LoadWork) (f : FieldRead) (v : Vol) : Vol :=
  match (v.drive d).cable.disk.readField 0 (loadPlace l.sector).1 (loadPlace l.sector).2 f with
  | none => v.loadFailed b d l true false
  | some bs => v.loadGood b d l bs

/-- R91, R11: a sector transfer ends, its work being what the sequencer has in hand. -/
def Vol.transferEnd (b : Battery) (d : DriveNo) (f : FieldRead) (v : Vol) : Vol :=
  match (v.drive d).seq.job with
  | .none => v
  | .order => match (v.drive d).sched.service with
    | none => v
    | some o => v.orderTransferEnd b d o f
  | .loading l => v.loadRead b d l f
  | .unit u => (v.modDisk d (fun m => m.writeData u.kind.place.1 u.kind.place.2 0 u.image)).invalidateEnd b d u

/-- R12: a sector of a unit's write pass ends; on a track side only a write that has begun can end. -/
def Vol.passWriteEnd (b : Battery) (d : DriveNo) (found : Bool) (v : Vol) : Vol :=
  match (v.drive d).seq.unit? with
  | none => v
  | some u => if u.kind.onTrack && !found then v else v.unitWriteEnd b d u found

/-- R91: a sector boundary. -/
def Vol.sectorBoundary (b : Battery) (d : DriveNo) (f : FieldRead) (v : Vol) : Vol :=
  match (v.drive d).seq.phase with
  | .transfer => v.transferEnd b d f
  | .unitPass false found => v.passWriteEnd b d found
  | _ => v

/-- R95, R12: a read-back or a rewrite of a sector ends. -/
def Vol.verifySectorEnd (b : Battery) (d : DriveNo) (f : FieldRead) (v : Vol) : Vol :=
  match (v.drive d).seq.phase with
  | .verify w => match (v.drive d).sched.service with
    | none => v
    | some o => v.verifyEnd b d o w f
  | .unitPass true found => match (v.drive d).seq.unit? with
    | none => v
    | some u => v.unitVerifyEnd b d u found f
  | _ => v

/-- R2, R12: an angle unit passes: the counter rises, holding at 999. -/
def Vol.angleTick (d : DriveNo) (v : Vol) : Vol :=
  (v.modSeq d (fun q => { q with angle := min 999 (q.angle + 1) })).trackStart d

/-- R82: the write-protect line of a drive reads as given, whether the blocks run or not. -/
def Vol.sense (d : DriveNo) (protect : Bool) (v : Vol) : Vol := v.modCable d (fun c => { c with protect })

/-- An angle unit of the controller's time base, with the write-protect line's reading (log 7). -/
def Vol.angleUnit (d : DriveNo) (protect : Bool) (v : Vol) : Vol :=
  if v.live then (v.sense d protect).angleTick d else v.sense d protect

/-! ## Units and the idle limit -/

/-- The unit whose passes a drive has finished, if there is one. -/
def Vol.unitFinished (v : Vol) (d : DriveNo) : Option UnitWork :=
  if (v.drive d).seq.phase = .unitDone then (v.drive d).seq.unit? else none

/-- R13, R14: the end of a FORMAT unit's verify pass. -/
def Vol.formatUnitDone (b : Battery) (d : DriveNo) (v : Vol) : Vol :=
  match v.unitFinished d with
  | none => v
  | some u => if u.copy then v else v.formatUnitEnd b d u

/-- R180: the end of a COPY's invalidation unit. -/
def Vol.copyOpeningDone (b : Battery) (d : DriveNo) (v : Vol) : Vol :=
  match v.unitFinished d with
  | none => v
  | some u => if u.copy && u.kind == .invalidate then v.copyOpened b d u else v

/-- R183: the end of a COPY's catalog unit. -/
def Vol.copyCatalogDone (b : Battery) (d : DriveNo) (v : Vol) : Vol :=
  match v.unitFinished d with
  | none => v
  | some u => match u.kind with
    | .catalog half => if u.copy then v.copyCatalogEnd b d u half else v
    | .invalidate => v
    | .track _ => v
    | .label => v

/-- R184: the end of a COPY's label unit. -/
def Vol.copyLabelDone (b : Battery) (d : DriveNo) (v : Vol) : Vol :=
  match v.unitFinished d with
  | none => v
  | some u => if u.copy && u.kind == .label then v.copyLabelEnd b u else v

/-- R117: the idle limit of a filing in OPEN expires. -/
def Vol.idleExpires (r : ReqId) (v : Vol) : Vol :=
  match v.req r with
  | none => v
  | some q => match q.session with
    | none => v
    | some ses => if q.stage = .opened ∧ ses.idle = true then v.endWithOrder r .cancelled false else v

/-! ## Power, the RESET input and the clock -/

/-- R170: power-on: a general reset, or a battery loss. One that comes while the RESET input is held sets SETTINGS LOST
then, in blocks that stand in their reset state: the model's choice (log 47). -/
def powerOn (kept : Bool) (b : Battery) (v : Vol) : Battery × Vol :=
  if v.power then (b, v)
  else
    let v := { v with power := true }
    if kept then generalReset b v
    else (Battery.default, (v.resetBlocks Battery.default).modPort supervisorLine Port.settingsLost)

/-- R170: main power goes off; the blocks stop, in the state a reset gives them (log 27). -/
def powerLoss (b : Battery) (v : Vol) : Battery × Vol :=
  if v.power then (b, ({ v with power := false } : Vol).resetBlocks b) else (b, v)

/-- R171: the RESET input has been held for 1 ms. -/
def resetHold (b : Battery) (v : Vol) : Battery × Vol :=
  if v.resetHeld then (b, v) else (b, ({ v with resetHeld := true } : Vol).resetBlocks b)

/-- R171, R168: the RESET input is released, which completes the general reset. The notice records stand: a SETTINGS
LOST set by a battery loss during the hold is kept, the model's choice (log 47). -/
def resetRelease (b : Battery) (v : Vol) : Battery × Vol :=
  if v.resetHeld then
    (if v.power then b.recomputeAll else b, { v with resetHeld := false })
  else (b, v)

/-- R158, R164, R170: a second ends; a carry into the minute is a minute event where the blocks run. -/
def secondEnd (b : Battery) (v : Vol) : Battery × Vol :=
  let b' := { b with clock := b.clock.endSecond }
  if b.clock.ss = 59 && v.live then minuteTick b' v else (b', v)

end Sys2Proof.Machine
end

