-- ==== Sys2Proof/Machine/DeskCommands.lean ====
section
/-! DEFINITION. The desk commands (R139): one meaning for each. -/

namespace Sys2Proof.Machine

/-- A command row: a whole frame complete on its line, passed to intake where R130, R131 and R133 let it pass, and
dropped otherwise (log 1). -/
def State.onLine (s : State) (line : Line) (f : Battery → Vol → Battery × Vol) : Host.Outcome State Fault Refusal :=
  if s.vol.live && s.vol.passes s.bat line then .next (s.finish (f s.bat s.vol)) else .next s

/-- R44: FETCH, as a whole frame on a line (log 1). -/
def execFetch (line : Line) (tag drive cls edition : Byte) (slug : List Byte) (s : State) :
    Host.Outcome State Fault Refusal :=
  s.onLine line (fun b v => (b, v.takeFetch b line tag drive cls edition slug))

/-- R28: DRAW, as a whole frame on a line (log 1). -/
def execDraw (line : Line) (tag drive cls edition : Byte) (slug : List Byte) (s : State) :
    Host.Outcome State Fault Refusal :=
  s.onLine line (fun b v => (b, v.takeDraw b line tag drive cls edition slug))

/-- R147: FILE, as a whole frame on a line (log 1). -/
def execFile (line : Line) (tag drive cls edition : Byte) (slug : List Byte) (s : State) :
    Host.Outcome State Fault Refusal :=
  s.onLine line (fun b v => (b, v.takeFile b line tag drive cls edition slug))

/-- R113: TEXT, as a whole frame on a line (log 1). -/
def execText (line : Line) (tag : Byte) (bytes : List Byte) (s : State) :
    Host.Outcome State Fault Refusal :=
  s.onLine line (fun b v => (b, v.takeText b line tag bytes))

/-- R116: CLOSE, as a whole frame on a line (log 1). -/
def execClose (line : Line) (tag keep : Byte) (s : State) :
    Host.Outcome State Fault Refusal :=
  s.onLine line (fun b v => (b, v.takeClose b line tag keep))

/-- R30: RELEASE, as a whole frame on a line (log 1). -/
def execRelease (line : Line) (tag drive : Byte) (slug : List Byte) (s : State) :
    Host.Outcome State Fault Refusal :=
  s.onLine line (fun b v => (b, v.takeRelease line tag drive slug))

/-- R41: SPIKE, as a whole frame on a line (log 1). -/
def execSpike (line : Line) (tag drive cls : Byte) (slug : List Byte) (s : State) :
    Host.Outcome State Fault Refusal :=
  s.onLine line (fun b v => (b, v.takeSpike b line tag drive cls slug))

/-- R43: LIST, as a whole frame on a line (log 1). -/
def execList (line : Line) (tag drive count : Byte) (pattern : List Byte) (s : State) :
    Host.Outcome State Fault Refusal :=
  s.onLine line (fun b v => (b, v.takeList b line tag drive count pattern))

/-- R119: CANCEL, as a whole frame on a line (log 1). -/
def execCancel (line : Line) (tag target : Byte) (s : State) :
    Host.Outcome State Fault Refusal :=
  s.onLine line (fun b v => (b, v.takeCancel b line tag target))

/-- R149: STATUS, as a whole frame on a line (log 1). -/
def execStatus (line : Line) (tag : Byte) (s : State) :
    Host.Outcome State Fault Refusal :=
  s.onLine line (fun b v => (b, v.takeStatus line tag))

/-- R150: TIME, as a whole frame on a line (log 1). -/
def execTime (line : Line) (tag : Byte) (s : State) :
    Host.Outcome State Fault Refusal :=
  s.onLine line (fun b v => (b, v.takeTime b line tag))

/-- R151: DRIVE, as a whole frame on a line (log 1). -/
def execDrive (line : Line) (tag drive : Byte) (s : State) :
    Host.Outcome State Fault Refusal :=
  s.onLine line (fun b v => (b, v.takeDrive b line tag drive))

end Sys2Proof.Machine
end

