-- ==== Sys2Proof/Machine/ConsoleCommands.lean ====
section
/-! DEFINITION. The supervisor commands (R139): one meaning for each. -/

namespace Sys2Proof.Machine

/-- R173: SET, as a whole frame on a line (log 1). -/
def execSet (line : Line) (tag item : Byte) (value : Word16) (s : State) :
    Host.Outcome State Fault Refusal :=
  s.onLine line (fun b v => takeSet line tag item value b v)

/-- R152: GET, as a whole frame on a line (log 1). -/
def execGet (line : Line) (tag item : Byte) (s : State) :
    Host.Outcome State Fault Refusal :=
  s.onLine line (fun b v => takeGet line tag item b v)

/-- R162: SETTIME, as a whole frame on a line (log 1). -/
def execSettime (line : Line) (tag yy mm dd hh mi ss : Byte) (s : State) :
    Host.Outcome State Fault Refusal :=
  s.onLine line (fun b v => takeSettime line tag yy mm dd hh mi ss b v)

/-- R160: TRIM, as a whole frame on a line (log 1). -/
def execTrim (line : Line) (tag : Byte) (value : Word16) (s : State) :
    Host.Outcome State Fault Refusal :=
  s.onLine line (fun b v => takeTrim line tag value b v)

/-- R163: ROUND, as a whole frame on a line (log 1). -/
def execRound (line : Line) (tag : Byte) (s : State) :
    Host.Outcome State Fault Refusal :=
  s.onLine line (fun b v => takeRound line tag b v)

/-- R166: EDITION, as a whole frame on a line (log 1). -/
def execEdition (line : Line) (tag number enabled openHH openMM closeHH closeMM lead : Byte) (s : State) :
    Host.Outcome State Fault Refusal :=
  s.onLine line (fun b v => takeEdition line tag number enabled openHH openMM closeHH closeMM lead b v)

/-- R154: BREAK, as a whole frame on a line (log 1). -/
def execBreakHold (line : Line) (tag drive : Byte) (slug : List Byte) (s : State) :
    Host.Outcome State Fault Refusal :=
  s.onLine line (fun b v => takeBreak line tag drive slug b v)

/-- R10: FORMAT, as a whole frame on a line (log 1). -/
def execFormat (line : Line) (tag drive : Byte) (volume : List Byte) (s : State) :
    Host.Outcome State Fault Refusal :=
  s.onLine line (fun b v => takeFormat line tag drive volume b v)

/-- R179: COPY, as a whole frame on a line (log 1). -/
def execCopy (line : Line) (tag source dest : Byte) (s : State) :
    Host.Outcome State Fault Refusal :=
  s.onLine line (fun b v => takeCopy line tag source dest b v)

/-- R99: RECAL, as a whole frame on a line (log 1). -/
def execRecal (line : Line) (tag drive : Byte) (s : State) :
    Host.Outcome State Fault Refusal :=
  s.onLine line (fun b v => takeRecal line tag drive b v)

/-- R156: RESTART, as a whole frame on a line (log 1). -/
def execRestart (line : Line) (tag : Byte) (s : State) :
    Host.Outcome State Fault Refusal :=
  s.onLine line (fun b v => takeRestart line tag b v)

end Sys2Proof.Machine
end

