-- ==== Sys2Proof/Machine/LineEvents.lean ====
section
/-! DEFINITION. The events of the lines (R127 to R134): one meaning for each. -/

namespace Sys2Proof.Machine

/-- R127: a frame's second check byte arrives, its check good. -/
def execFrameComplete (line : Line) (second : Byte) (s : State) : Host.Outcome State Fault Refusal :=
  s.whenLive (fun b v => takeCompletion line second b v)

/-- R129: an inbound frame is faulted. -/
def execFrameFault (line : Line) (cause : FrameFaultCause) (s : State) : Host.Outcome State Fault Refusal :=
  s.whenLive (fun b v => takeFault line cause b v)

/-- R128: the frame-gap limit expires. -/
def execFrameGapExpiry (line : Line) (s : State) : Host.Outcome State Fault Refusal :=
  s.whenLive (fun b v => (b, v.gapExpires b line))

/-- R129: the silence timer expires. -/
def execSilenceTimerExpiry (line : Line) (s : State) : Host.Outcome State Fault Refusal :=
  s.whenLive (fun b v => (b, v.silenceExpires line))

/-- R131: a space has lasted 100 ms. -/
def execLineBreak (line : Line) (s : State) : Host.Outcome State Fault Refusal :=
  s.whenLive (fun b v => (b, v.takeBreakLine b line))

/-- R134: the frame in transmission has been sent. -/
def execFrameSent (line : Line) (s : State) : Host.Outcome State Fault Refusal :=
  s.whenLive (fun b v => takeSent line b v)

/-- R127: a character is received as one byte. -/
def execCharacterReceived (line : Line) (byte : Byte) (s : State) : Host.Outcome State Fault Refusal :=
  s.whenLive (fun b v => takeByte line byte b v)

/-- R131: the line returns to mark. -/
def execLineReturnToMark (line : Line) (s : State) : Host.Outcome State Fault Refusal :=
  s.whenLive (fun b v => (b, v.returnsToMark line))

end Sys2Proof.Machine
end

