-- ==== Sys2Proof/Machine/PowerEvents.lean ====
section
/-! DEFINITION. The events of the power, the RESET input and the clock (R158, R170, R171): one meaning for each. -/

namespace Sys2Proof.Machine

/-- R170: power-on. -/
def execPowerOn (batteryKept : Bool) (s : State) : Host.Outcome State Fault Refusal :=
  .next (s.finish (powerOn batteryKept s.bat s.vol))

/-- R171: the RESET input has been held for 1 ms. -/
def execResetHold (s : State) : Host.Outcome State Fault Refusal :=
  .next (s.finish (resetHold s.bat s.vol))

/-- R171: the RESET input is released. -/
def execResetRelease (s : State) : Host.Outcome State Fault Refusal :=
  .next (s.finish (resetRelease s.bat s.vol))

/-- R158: a second ends. -/
def execSecondEnd (s : State) : Host.Outcome State Fault Refusal :=
  .next (s.finish (secondEnd s.bat s.vol))

/-- R170: main power goes off. -/
def execMainPowerLoss (s : State) : Host.Outcome State Fault Refusal :=
  .next (s.finish (powerLoss s.bat s.vol))

end Sys2Proof.Machine
end

