-- ==== Sys2Proof/Machine/DriveEvents.lean ====
section
/-! DEFINITION. The events of the drives and of a filing's idle limit: one meaning for each. -/

namespace Sys2Proof.Machine

/-- R2: an index pulse. -/
def execIndexPulse (d : DriveNo) (s : State) : Host.Outcome State Fault Refusal :=
  s.whenLive (fun b v => (b, v.indexPulse b d))

/-- R90: the unload count has reached its setting. -/
def execHeadUnload (d : DriveNo) (s : State) : Host.Outcome State Fault Refusal :=
  s.whenLive (fun b v => (b, v.headUnload b d))

/-- R97: an index stall. -/
def execIndexStall (d : DriveNo) (s : State) : Host.Outcome State Fault Refusal :=
  s.whenLive (fun b v => (b, v.indexStall b d))

/-- R80: the raw door reading changes. -/
def execDoorLineChange (d : DriveNo) (closed : Bool) (inserted : Option Diskette) (s : State) : Host.Outcome State Fault Refusal :=
  .next (s.finish (s.bat, s.vol.doorLine d closed inserted))

/-- R81: a door opening. -/
def execDoorOpening (d : DriveNo) (s : State) : Host.Outcome State Fault Refusal :=
  s.whenLive (fun b v => (b, v.doorOpens b d))

/-- R83: a door closing. -/
def execDoorClosing (d : DriveNo) (s : State) : Host.Outcome State Fault Refusal :=
  s.whenLive (fun b v => (b, v.doorCloses b d))

/-- R88: a step ends. -/
def execStepDone (d : DriveNo) (track0 : Bool) (s : State) : Host.Outcome State Fault Refusal :=
  s.whenLive (fun b v => (b, v.stepDone b d track0))

/-- R88: a settle ends. -/
def execSettleDone (d : DriveNo) (s : State) : Host.Outcome State Fault Refusal :=
  s.whenLive (fun b v => (b, v.settleDone b d))

/-- R89: a head load ends. -/
def execHeadLoadDone (d : DriveNo) (s : State) : Host.Outcome State Fault Refusal :=
  s.whenLive (fun b v => (b, v.headLoadDone b d))

/-- R6: a header passes under the head. -/
def execHeaderFound (d : DriveNo) (header : HeaderRead) (s : State) : Host.Outcome State Fault Refusal :=
  s.whenLive (fun b v => (b, v.headerFound d header))

/-- R91: a search reaches its revolution limit. -/
def execSearchLimit (d : DriveNo) (s : State) : Host.Outcome State Fault Refusal :=
  s.whenLive (fun b v => (b, v.searchLimit b d))

/-- R91: a sector transfer ends. -/
def execSectorBoundary (d : DriveNo) (field : FieldRead) (s : State) : Host.Outcome State Fault Refusal :=
  s.whenLive (fun b v => (b, v.sectorBoundary b d field))

/-- R95: a read-back or a rewrite of a sector ends. -/
def execVerifySectorEnd (d : DriveNo) (field : FieldRead) (s : State) : Host.Outcome State Fault Refusal :=
  s.whenLive (fun b v => (b, v.verifySectorEnd b d field))

/-- R117: a filing's idle limit expires. -/
def execIdleLimitExpiry (r : ReqId) (s : State) : Host.Outcome State Fault Refusal :=
  s.whenLive (fun b v => (b, v.idleExpires r))

/-- R13: the end of a FORMAT unit's verify pass. -/
def execFormatUnitEnd (d : DriveNo) (s : State) : Host.Outcome State Fault Refusal :=
  s.whenLive (fun b v => (b, v.formatUnitDone b d))

/-- R180: the end of a COPY's invalidation unit. -/
def execCopyOpeningEnd (d : DriveNo) (s : State) : Host.Outcome State Fault Refusal :=
  s.whenLive (fun b v => (b, v.copyOpeningDone b d))

/-- R183: the end of a COPY's catalog unit. -/
def execCopyCatalogUnitEnd (d : DriveNo) (s : State) : Host.Outcome State Fault Refusal :=
  s.whenLive (fun b v => (b, v.copyCatalogDone b d))

/-- R184: the end of a COPY's label unit. -/
def execCopyLabelVerified (d : DriveNo) (s : State) : Host.Outcome State Fault Refusal :=
  s.whenLive (fun b v => (b, v.copyLabelDone b d))

/-- R2: an angle unit passes. -/
def execAngleUnitTick (d : DriveNo) (protect : Bool) (s : State) : Host.Outcome State Fault Refusal :=
  .next (s.finish (s.bat, s.vol.angleUnit d protect))

end Sys2Proof.Machine
end

