-- ==== Sys2Proof/Machine/Dispatch.lean ====
section
/-! DEFINITION. The meaning of every command. -/

namespace Sys2Proof.Machine

/-- The effect of a command on everything but the queue. -/
def exec (i : Instr) (s : State) : Host.Outcome State Fault Refusal :=
  match i with
  | .fetch line tag drive cls edition slug => Sys2Proof.Machine.execFetch line tag drive cls edition slug s
  | .draw line tag drive cls edition slug => Sys2Proof.Machine.execDraw line tag drive cls edition slug s
  | .file line tag drive cls edition slug => Sys2Proof.Machine.execFile line tag drive cls edition slug s
  | .text line tag bytes => Sys2Proof.Machine.execText line tag bytes s
  | .close line tag keep => Sys2Proof.Machine.execClose line tag keep s
  | .release line tag drive slug => Sys2Proof.Machine.execRelease line tag drive slug s
  | .spike line tag drive cls slug => Sys2Proof.Machine.execSpike line tag drive cls slug s
  | .list line tag drive count pattern => Sys2Proof.Machine.execList line tag drive count pattern s
  | .cancel line tag target => Sys2Proof.Machine.execCancel line tag target s
  | .status line tag => Sys2Proof.Machine.execStatus line tag s
  | .time line tag => Sys2Proof.Machine.execTime line tag s
  | .drive line tag drive => Sys2Proof.Machine.execDrive line tag drive s
  | .set line tag item value => Sys2Proof.Machine.execSet line tag item value s
  | .get line tag item => Sys2Proof.Machine.execGet line tag item s
  | .settime line tag yy mm dd hh mi ss => Sys2Proof.Machine.execSettime line tag yy mm dd hh mi ss s
  | .trim line tag value => Sys2Proof.Machine.execTrim line tag value s
  | .round line tag => Sys2Proof.Machine.execRound line tag s
  | .edition line tag number enabled openHH openMM closeHH closeMM lead => Sys2Proof.Machine.execEdition line tag number enabled openHH openMM closeHH closeMM lead s
  | .breakHold line tag drive slug => Sys2Proof.Machine.execBreakHold line tag drive slug s
  | .format line tag drive volume => Sys2Proof.Machine.execFormat line tag drive volume s
  | .copy line tag source dest => Sys2Proof.Machine.execCopy line tag source dest s
  | .recal line tag drive => Sys2Proof.Machine.execRecal line tag drive s
  | .restart line tag => Sys2Proof.Machine.execRestart line tag s
  | .frameComplete line second => Sys2Proof.Machine.execFrameComplete line second s
  | .frameFault line cause => Sys2Proof.Machine.execFrameFault line cause s
  | .frameGapExpiry line => Sys2Proof.Machine.execFrameGapExpiry line s
  | .silenceTimerExpiry line => Sys2Proof.Machine.execSilenceTimerExpiry line s
  | .lineBreak line => Sys2Proof.Machine.execLineBreak line s
  | .frameSent line => Sys2Proof.Machine.execFrameSent line s
  | .powerOn batteryKept => Sys2Proof.Machine.execPowerOn batteryKept s
  | .resetHold => Sys2Proof.Machine.execResetHold s
  | .resetRelease => Sys2Proof.Machine.execResetRelease s
  | .secondEnd => Sys2Proof.Machine.execSecondEnd s
  | .indexPulse d => Sys2Proof.Machine.execIndexPulse d s
  | .headUnload d => Sys2Proof.Machine.execHeadUnload d s
  | .indexStall d => Sys2Proof.Machine.execIndexStall d s
  | .doorLineChange d closed inserted => Sys2Proof.Machine.execDoorLineChange d closed inserted s
  | .doorOpening d => Sys2Proof.Machine.execDoorOpening d s
  | .doorClosing d => Sys2Proof.Machine.execDoorClosing d s
  | .stepDone d track0 => Sys2Proof.Machine.execStepDone d track0 s
  | .settleDone d => Sys2Proof.Machine.execSettleDone d s
  | .headLoadDone d => Sys2Proof.Machine.execHeadLoadDone d s
  | .headerFound d header => Sys2Proof.Machine.execHeaderFound d header s
  | .searchLimit d => Sys2Proof.Machine.execSearchLimit d s
  | .sectorBoundary d field => Sys2Proof.Machine.execSectorBoundary d field s
  | .verifySectorEnd d field => Sys2Proof.Machine.execVerifySectorEnd d field s
  | .idleLimitExpiry r => Sys2Proof.Machine.execIdleLimitExpiry r s
  | .formatUnitEnd d => Sys2Proof.Machine.execFormatUnitEnd d s
  | .copyOpeningEnd d => Sys2Proof.Machine.execCopyOpeningEnd d s
  | .copyCatalogUnitEnd d => Sys2Proof.Machine.execCopyCatalogUnitEnd d s
  | .copyLabelVerified d => Sys2Proof.Machine.execCopyLabelVerified d s
  | .characterReceived line byte => Sys2Proof.Machine.execCharacterReceived line byte s
  | .lineReturnToMark line => Sys2Proof.Machine.execLineReturnToMark line s
  | .mainPowerLoss => Sys2Proof.Machine.execMainPowerLoss s
  | .angleUnitTick d protect => Sys2Proof.Machine.execAngleUnitTick d protect s

end Sys2Proof.Machine
end

