-- ==== Sys2Proof/WellFormed.lean ====
section
/-! DEFINITION. The form of a command: the lengths of its fields as R188 lays them out, and a header check
or data field as R4 and R189 size it. What a well-formed command means, a MALFORMED answer included
(R141), is the machine's matter. -/

namespace Sys2Proof

/-- A slug field is 12 bytes (R188). -/
def slugForm (g : List Byte) : Bool := g.length == 12

/-- R4, R189: a stored header names an address of R1 and size code 3 within one byte each. -/
def HeaderField.form : HeaderField → Bool
  | .absent => true
  | .bad => true
  | .good c h n z => c < 256 && h < 256 && n < 256 && z < 256

/-- R4: a data field is 1024 bytes. -/
def DataField.form : DataField → Bool
  | .bad => true
  | .good bs => bs.length == Config.sectorBytes

/-- R1: keys are cylinder × 16 + side × 8 + sector, below 1232, strictly rising, and no entry stands for an
unformatted sector. -/
def sectorsForm : List (Nat × Sector) → Bool
  | [] => true
  | (k, x) :: rest =>
    k < 1232 && x.header.form && x.data.form && !(x == ⟨.absent, .bad⟩)
      && (match rest with | [] => true | (j, _) :: _ => k < j) && sectorsForm rest

/-- A diskette in its canonical form. -/
def Diskette.wf (m : Diskette) : Bool := sectorsForm m.sectors

/-- A data field as read is 1024 bytes (R189). -/
def FieldRead.form : FieldRead → Bool
  | .asStored => true
  | .asRead bs _ => bs.length == Config.sectorBytes

/-- The form of each command. -/
def Instr.wellFormed : Instr → Bool
  | .fetch _ _ _ _ _ g => slugForm g
  | .draw _ _ _ _ _ g => slugForm g
  | .file _ _ _ _ _ g => slugForm g
  | .text _ _ bs => 1 ≤ bs.length && bs.length ≤ 256
  | .close _ _ _ => true
  | .release _ _ _ g => slugForm g
  | .spike _ _ _ _ g => slugForm g
  | .list _ _ _ _ g => slugForm g
  | .cancel _ _ _ => true
  | .status _ _ => true
  | .time _ _ => true
  | .drive _ _ _ => true
  | .set _ _ _ _ => true
  | .get _ _ _ => true
  | .settime _ _ _ _ _ _ _ _ => true
  | .trim _ _ _ => true
  | .round _ _ => true
  | .edition _ _ _ _ _ _ _ _ _ => true
  | .breakHold _ _ _ g => slugForm g
  | .format _ _ _ v => v.length == 8
  | .copy _ _ _ _ => true
  | .recal _ _ _ => true
  | .restart _ _ => true
  | .frameComplete _ _ => true
  | .frameFault _ _ => true
  | .frameGapExpiry _ => true
  | .silenceTimerExpiry _ => true
  | .lineBreak _ => true
  | .frameSent _ => true
  | .powerOn _ => true
  | .resetHold => true
  | .resetRelease => true
  | .secondEnd => true
  | .indexPulse _ => true
  | .headUnload _ => true
  | .indexStall _ => true
  | .doorLineChange _ _ none => true
  | .doorLineChange _ _ (some m) => m.wf
  | .doorOpening _ => true
  | .doorClosing _ => true
  | .stepDone _ _ => true
  | .settleDone _ => true
  | .headLoadDone _ => true
  | .headerFound _ _ => true
  | .searchLimit _ => true
  | .sectorBoundary _ f => f.form
  | .verifySectorEnd _ f => f.form
  | .idleLimitExpiry _ => true
  | .formatUnitEnd _ => true
  | .copyOpeningEnd _ => true
  | .copyCatalogUnitEnd _ => true
  | .copyLabelVerified _ => true
  | .characterReceived _ _ => true
  | .lineReturnToMark _ => true
  | .mainPowerLoss => true
  | .angleUnitTick _ _ => true

end Sys2Proof
end

