-- ==== Sys2Proof/Safety.lean ====
section
/-! DEFINITION. What is stated of the machine: the views a statement compares, the invariants of the battery domain, the
stores and the diskettes, and the sectors a command stores to. -/

namespace Sys2Proof.Machine

/-! ## Views -/

/-- What a line port shows outside: its inbound side, its rate and its outbound store (R125). -/
structure PortFace where
  assembler : Assembler
  gapTimer : Bool
  silenceTimer : Bool
  detector : BreakDetector
  rate : Nat
  store : List Frame
deriving DecidableEq, Repr

/-- The face of a port. -/
def Port.face (p : Port) : PortFace :=
  { assembler := p.assembler, gapTimer := p.gapTimer, silenceTimer := p.silenceTimer, detector := p.detector,
    rate := p.rate, store := p.store }

/-- The inbound side of a port and its rate. -/
def Port.inlet (p : Port) : Assembler × Bool × Bool × BreakDetector × Nat :=
  (p.assembler, p.gapTimer, p.silenceTimer, p.detector, p.rate)

/-- What the requests, orders and catalogs of the 840 do not reach: power, the RESET input, the drive cables with the
diskettes, and the faces of the ports. -/
structure Outside where
  power : Bool
  resetHeld : Bool
  cables : Vector Cable 4
  faces : Vector PortFace 9
deriving DecidableEq, Repr

/-- The outside of a machine. -/
def Vol.outside (v : Vol) : Outside :=
  { power := v.power, resetHeld := v.resetHeld, cables := v.drives.map Drive.cable, faces := v.ports.map Port.face }

/-- The second of two machines shows outside what the first shows, but for frames that have joined the stores of lines
that had room (R134, R135). -/
def Vol.placedOnly (v w : Vol) : Prop :=
  w.power = v.power ∧ w.resetHeld = v.resetHeld ∧ (∀ d, (w.drive d).cable = (v.drive d).cable)
    ∧ ∀ k, (w.port k).inlet = (v.port k).inlet
      ∧ ∃ fs, (w.port k).store = (v.port k).store ++ fs ∧ (fs = [] ∨ (w.port k).store.length ≤ Config.storeFrames)

/-- R130, R131, R133, R171: a whole frame on a line is taken by intake. -/
def State.hears (s : State) (k : Line) : Prop := s.vol.live = true ∧ s.vol.passes s.bat k = true

/-- R140: the outcome of the first check that fails, each given as what fails it with its outcome. -/
def firstFailure : List (Prop × OutcomeCode) → OutcomeCode → Prop
  | [], _ => False
  | (fails, oc) :: rest, x => (fails ∧ x = oc) ∨ (¬ fails ∧ firstFailure rest x)

/-! ## The battery domain (R157 to R160, R165, R166, R174) -/

/-- The clock's fields form a date and time, and its trim and second length stay in their ranges. -/
def Clock.ok (c : Clock) : Bool :=
  c.validDate && c.prescaler < c.secondLength && 30721 ≤ c.secondLength && c.secondLength ≤ 34816
    && decide (-2048 ≤ c.trim) && decide (c.trim ≤ 2047)

/-- An entry of the edition table is as R165 and R166 keep it. -/
def Edition.ok (e : Edition) : Bool :=
  e.opens < 1440 && e.closes < 1440 && e.opens != e.closes && e.lead ≤ 59 && e.lead < e.span
    && (e.enabled || e.state == .opened)

/-- A desk line's settings are in the ranges of R174. -/
def LineSettings.ok (t : LineSettings) : Bool :=
  t.enabled ≤ 1 && t.ceiling ≤ 3 && t.readSet ≤ 15 && t.fileSet ≤ 15 && t.rate ≤ 4

/-- A drive's settings are in the ranges of R174. -/
def DriveSettings.ok (t : DriveSettings) : Bool :=
  t.stepCode ≤ 7 && t.settle ≤ 30 && t.headLoad ≤ 60 && t.unload ≤ 15 && t.verify ≤ 2 && t.preempt ≤ 1

/-- The battery domain is in its ranges. -/
def Battery.ok (b : Battery) : Prop :=
  b.clock.ok = true ∧ (∀ i : Fin 8, (b.editions[i]).ok = true) ∧ (∀ k : Fin 8, (b.settings.lines[k]).ok = true)
    ∧ (∀ d : Fin 4, (b.settings.drives[d]).ok = true) ∧ b.settings.supervisorRate ≤ 4

/-- R165, R167, R168: while the blocks run and the clock is valid, every edition is in the state its arc gives at the
present minute, a disabled one OPEN. -/
def State.editionsCurrent (s : State) : Prop :=
  s.vol.live = true → s.bat.clock.valid = true →
    ∀ i : Fin 8, s.bat.editions[i] = (s.bat.editions[i]).recompute s.bat.clock.minute

/-! ## Stores, diskettes and stacks -/

/-- R134: no outbound store holds more than six frames. -/
def State.storesOk (s : State) : Prop := ∀ k, (s.vol.port k).store.length ≤ Config.storeFrames

/-- Log 8: every diskette is in its canonical form, and so is every diskette and data field a waiting command brings. -/
def State.disksOk (s : State) : Prop :=
  (∀ c ∈ s.pending, c.wellFormed = true) ∧ ∀ d, (s.vol.drive d).cable.disk.wf = true

/-- R52: at most three entries on the stack, the copy cursor counted; the classes of the suspended orders rise strictly
from the bottom, and the order in service is of a higher class than every one of them. -/
def Scheduler.stackOk (s : Scheduler) : Prop :=
  s.depth ≤ Config.stackSlots
    ∧ ((s.stack ++ s.service.toList).map (fun o => o.cls.rank)).Pairwise (fun m n => m < n)

/-- R52 on every drive. -/
def Vol.stacksOk (v : Vol) : Prop := ∀ d, (v.drive d).sched.stackOk

/-! ## The blocks while they do not run (R170, R171) -/

/-- R125, R137: a port as a general reset or a battery loss leaves it. -/
def Port.atRest (b : Battery) (k : Line) (p : Port) : Prop :=
  p = Port.afterReset (b.rate k) ∨ (k = supervisorLine ∧ p = (Port.afterReset (b.rate k)).settingsLost)

/-- While the blocks do not run, they are in the state a reset leaves them in. -/
def State.restsWhenStopped (s : State) : Prop :=
  s.vol.live = false →
    (∀ k, (s.vol.port k).atRest s.bat k)
      ∧ (∀ d, s.vol.drive d = Drive.afterReset (s.vol.drive d).cable)
      ∧ (∀ r, s.vol.req r = none) ∧ (∀ x, (s.vol.buf x).owner = none) ∧ (∀ k, s.vol.record k = .free)
      ∧ s.vol.tests = []

/-! ## What is being written -/

/-- The sector a drive is in the middle of writing: the sector of a transfer of a write pass or of an invalidation unit,
the sector a verify pass rewrites once its header is found, the sector of a unit's write pass; and the label that a unit
reads back, which a failed verification leaves invalid (R14, R184, log 40). -/
def Drive.writing (x : Drive) : Option (Nat × Nat × Nat) :=
  match x.seq.phase with
  | .transfer => match x.seq.job with
    | .order => match x.sched.service with
      | some o => if o.pass = .write then some (o.cyl, o.side, o.sector) else none
      | none => none
    | .unit u => some (u.kind.place.1, u.kind.place.2, 0)
    | .loading _ => none
    | .none => none
  | .verify w => match x.sched.service, w.todo with
    | some o, n :: _ => if w.rewrite && w.found then some (o.cyl, o.side, n) else none
    | _, _ => none
  | .unitPass verify found => match x.seq.job with
    | .unit u =>
      if (if verify then u.kind == .label else found) then
        u.todo.head?.map (fun n => (u.kind.place.1, u.kind.place.2, n))
      else none
    | .order => none
    | .loading _ => none
    | .none => none
  | _ => none

/-- The second diskette reads as the first at every address of the geometry but one, if one is named, and has its
notch. -/
def agreeBut (p : Option (Nat × Nat × Nat)) (m n : Diskette) : Prop :=
  n.notch = m.notch ∧ ∀ c h k, addressOk c h k = true → p ≠ some (c, h, k) → n.sector c h k = m.sector c h k

/-- R16: what a sector may be left as that a FORMAT was in the middle of writing: its header check is bad, or its data
check, or both; under a bad header alone the data field is the old one or the zeros being written (log 10). -/
def tornSector (c h n : Nat) (old new : Sector) : Prop :=
  new = { old with header := .bad } ∨ new = ⟨.good c h n 3, .bad⟩ ∨ new = ⟨.bad, .bad⟩ ∨ new = ⟨.bad, .good zeroSector⟩

/-- R16, R81, R97, R123: a diskette is what the work of its drive leaves when it is cut off. A sector whose data field was
being written, by an order's write pass, a rewrite, an invalidation unit, or a catalog or label unit, has a bad data check
and its header as it was; one being formatted is torn; every other sector is as it was, and so is all of the diskette in a
unit's verify pass. -/
def Drive.cutOff (x : Drive) (m : Diskette) : Prop :=
  agreeBut x.writing x.cable.disk m
  ∧ (∀ found, x.seq.phase = .unitPass true found → m = x.cable.disk)
  ∧ (x.cable.disk.wf = true →
    let cut := fun (c h n : Nat) =>
      addressOk c h n = true → m.sector c h n = { x.cable.disk.sector c h n with data := .bad }
    (∀ o, x.seq.job = .order → x.sched.service = some o →
      (x.seq.phase = .transfer → o.pass = .write → cut o.cyl o.side o.sector)
      ∧ ∀ w n rest, x.seq.phase = .verify w → w.todo = n :: rest → w.rewrite = true → w.found = true →
        cut o.cyl o.side n)
    ∧ ∀ u, x.seq.job = .unit u →
      (x.seq.phase = .transfer → u.kind = .invalidate → cut 0 0 0)
      ∧ ∀ n rest, x.seq.phase = .unitPass false true → u.todo = n :: rest →
        let c := u.kind.place.1
        let h := u.kind.place.2
        (u.kind.onTrack = false → cut c h n)
        ∧ (u.kind.onTrack = true → addressOk c h n = true →
          tornSector c h n (x.cable.disk.sector c h n) (m.sector c h n)))

end Sys2Proof.Machine
end

