-- ==== Sys2Proof/Certificates/Slice0/Obligations.lean ====
section
/-! DEFINITION. The statements for the provers. State.finish is the end of every command: its own effects, then the
follow-on work, of which FollowOnWorkOnlyPlacesFrames says what it can do outside. -/

open Sys2Proof Sys2Proof.Machine

/-! ## Steps -/

/-- A step takes the command at the front of the queue and runs it on the state with the queue's rest. -/
def Obligations.StepRunsTheFrontCommand : Prop :=
  ∀ (c : Instr) (rest : List Instr) (s : State), s.pending = c :: rest →
    step s = exec c { s with pending := rest }

/-- With an empty queue the block idles: the model's choice (log 6). Every command answers a next state in every state,
and leaves the queue as it was. -/
def Obligations.EveryStepAnswers : Prop :=
  (∀ s : State, s.pending = [] → step s = .next s)
  ∧ (∀ (c : Instr) (s : State), ∃ t, exec c s = .next t ∧ t.pending = s.pending)

/-- R125, R130, R171: a command row that is a whole frame changes nothing while the blocks do not run, and on a line
whose frames are not taken. The model's own: a command row is a whole frame complete on its line (log 1). -/
def Obligations.FramesNotTakenChangeNothing : Prop :=
  ∀ (s : State) (k : Line), ¬ s.hears k →
    (∀ tag, exec (.status k tag) s = .next s) ∧ (∀ tag, exec (.time k tag) s = .next s)
    ∧ (∀ tag d, exec (.drive k tag d) s = .next s) ∧ (∀ tag c, exec (.cancel k tag c) s = .next s)
    ∧ (∀ tag d c e g, exec (.fetch k tag d c e g) s = .next s)
    ∧ (∀ tag d c e g, exec (.draw k tag d c e g) s = .next s)
    ∧ (∀ tag d c e g, exec (.file k tag d c e g) s = .next s)
    ∧ (∀ tag bs, exec (.text k tag bs) s = .next s) ∧ (∀ tag h, exec (.close k tag h) s = .next s)
    ∧ (∀ tag d g, exec (.release k tag d g) s = .next s) ∧ (∀ tag d c g, exec (.spike k tag d c g) s = .next s)
    ∧ (∀ tag d n g, exec (.list k tag d n g) s = .next s) ∧ (∀ tag i x, exec (.set k tag i x) s = .next s)
    ∧ (∀ tag i, exec (.get k tag i) s = .next s)
    ∧ (∀ tag yy mm dd hh mi ss, exec (.settime k tag yy mm dd hh mi ss) s = .next s)
    ∧ (∀ tag x, exec (.trim k tag x) s = .next s) ∧ (∀ tag, exec (.round k tag) s = .next s)
    ∧ (∀ tag n en oh om ch cm l, exec (.edition k tag n en oh om ch cm l) s = .next s)
    ∧ (∀ tag d g, exec (.breakHold k tag d g) s = .next s) ∧ (∀ tag d g, exec (.format k tag d g) s = .next s)
    ∧ (∀ tag c d, exec (.copy k tag c d) s = .next s) ∧ (∀ tag d, exec (.recal k tag d) s = .next s)
    ∧ (∀ tag, exec (.restart k tag) s = .next s)

/-! ## Reset -/

/-- The values the spec gives for a battery loss: the clock (R157), the editions (R165), the settings (R174), the ports
with their timers (R125) and causes (R137), the request slots, the buffers, the retired records, the schedulers (R76),
the sequencers (R77) and the catalogs (R17, R45). The model's own: the reset of this machine is the power-on after a
battery loss (log 9). -/
def Obligations.ResetHoldsTheSpecsValues : Prop :=
  let s := State.reset
  s.bat.clock = { yy := 0, mm := 1, dd := 1, hh := 0, mi := 0, ss := 0, prescaler := 0, secondLength := 32768,
                  trim := 0, valid := false }
  ∧ (∀ i : Fin 8, s.bat.editions[i] = { enabled := false, opens := 0, closes := 1, lead := 0, state := .opened })
  ∧ (∀ k : Fin 8, s.bat.settings.lines[k] = { enabled := 1, ceiling := 2, readSet := 15, fileSet := 15, rate := 3 })
  ∧ (∀ d : Fin 4, s.bat.settings.drives[d]
      = { stepCode := 3, settle := 15, headLoad := 35, unload := 4, verify := 2, preempt := 1 })
  ∧ s.bat.settings.supervisorRate = 3
  ∧ (∀ k, (s.vol.port k).assembler = .hunt ∧ (s.vol.port k).detector = .idle ∧ (s.vol.port k).rate = 3
      ∧ (s.vol.port k).gapTimer = false ∧ (s.vol.port k).silenceTimer = false
      ∧ (s.vol.port k).replies = [] ∧ (s.vol.port k).store = []
      ∧ (s.vol.port k).notice = { ready := true, settingsLost := decide (k = supervisorLine), warning := 0, closed := 0,
                                  holdLost := 0, driveChange := 0 })
  ∧ (∀ r, s.vol.req r = none) ∧ (∀ x, (s.vol.buf x).owner = none) ∧ (∀ k, s.vol.record k = .free)
  ∧ (∀ d, (s.vol.drive d).sched.queue = [] ∧ (s.vol.drive d).sched.service = none
      ∧ (s.vol.drive d).sched.stack = [] ∧ (s.vol.drive d).sched.cursor = none
      ∧ (s.vol.drive d).sched.pending = false ∧ (s.vol.drive d).sched.nextArrival = 0)
  ∧ (∀ d, (s.vol.drive d).seq.mount = .empty ∧ (s.vol.drive d).seq.head = .unloaded
      ∧ (s.vol.drive d).seq.cyl = none ∧ (s.vol.drive d).seq.angle = 999 ∧ (s.vol.drive d).seq.retries = 0
      ∧ (s.vol.drive d).seq.writeProtected = false ∧ (s.vol.drive d).seq.doorClosed = false
      ∧ (s.vol.drive d).seq.unload = none ∧ (s.vol.drive d).seq.stall = false)
  ∧ (∀ d, (s.vol.drive d).cat = { mirror := none, fault := false, copySource := false })
  ∧ s.pending = []

/-- The invariants below hold at reset. -/
def Obligations.ResetMeetsTheInvariants : Prop :=
  State.reset.bat.ok ∧ State.reset.editionsCurrent ∧ State.reset.storesOk ∧ State.reset.disksOk
    ∧ State.reset.vol.stacksOk ∧ State.reset.restsWhenStopped

/-! ## Invariants that every step keeps -/

/-- R157, R158, R160, R165, R166, R174: the battery domain stays in its ranges. -/
def Obligations.StepKeepsTheBatteryInRange : Prop :=
  ∀ s t : State, s.bat.ok → step s = .next t → t.bat.ok

/-- R167, R168: while the blocks run with the clock valid, every edition's state is the one its arcs give for the
current minute. The ranges of the battery domain are a premise: they rule out entries no EDITION stores. -/
def Obligations.StepKeepsEditionsCurrent : Prop :=
  ∀ s t : State, s.bat.ok → s.editionsCurrent → step s = .next t → t.editionsCurrent

/-- R134: an outbound store holds at most six frames. -/
def Obligations.StepKeepsStoresWithinSix : Prop :=
  ∀ s t : State, s.storesOk → step s = .next t → t.storesOk

/-- Log 8: the diskettes stay in their canonical form, the waiting commands being well formed. -/
def Obligations.StepKeepsDiskettesCanonical : Prop :=
  ∀ s t : State, s.disksOk → step s = .next t → t.disksOk

/-- R52: on each drive at most three stack entries, the copy cursor counted; the classes of the suspended orders rise
strictly, and the order in service is of a higher class. -/
def Obligations.StepKeepsTheSuspendStacksOrdered : Prop :=
  ∀ s t : State, s.vol.stacksOk → step s = .next t → t.vol.stacksOk

/-- R170, R171: while the blocks do not run, they stand in the state a reset gives them. The model's own: the blocks
stand in their reset state after a main power loss too (log 27). -/
def Obligations.StepKeepsStoppedBlocksAtRest : Prop :=
  ∀ s t : State, s.restsWhenStopped → step s = .next t → t.restsWhenStopped

/-! ## What a command leaves alone -/

/-- A command other than SET, SETTIME, TRIM, ROUND, EDITION, the rows that carry a line's bytes, a sent frame, a
second's end, a power-on and a RESET release leaves the battery domain as it was. -/
def Obligations.BatteryDomainStandsUnderOtherCommands : Prop :=
  ∀ (c : Instr) (s t : State),
    (match c with
      | .set .. => False
      | .settime .. => False
      | .trim .. => False
      | .round .. => False
      | .edition .. => False
      | .characterReceived .. => False
      | .frameComplete .. => False
      | .frameFault .. => False
      | .frameSent _ => False
      | .secondEnd => False
      | .powerOn _ => False
      | .resetRelease => False
      | _ => True) →
    exec c s = .next t → t.bat = s.bat

/-- Whatever a command's own effects, the follow-on work leaves the battery domain, the queue, the drive cables with
their diskettes, the power and RESET inputs and the inbound side of every port alone, and adds to a store only frames
for which it had room. The model's own: the follow-on work and its order (log 5). -/
def Obligations.FollowOnWorkOnlyPlacesFrames : Prop :=
  ∀ (s : State) (b : Battery) (v : Vol),
    (s.finish (b, v)).bat = b ∧ (s.finish (b, v)).pending = s.pending ∧ v.placedOnly (s.finish (b, v)).vol

/-- R4, R16, R81, R91, R97, R123: no command stores on a diskette anywhere but in the sector its drive is in the
middle of writing; only a door change that puts a diskette in replaces it. A command that neither ends a sector, nor
cuts a write off, nor reaches the door stores nothing: every diskette is as it was. The model's own: how a diskette
stands in State (log 8), and that a door change may bring one (log 7). -/
def Obligations.DiskettesChangeOnlyWhereTheyAreWritten : Prop :=
  (∀ (c : Instr) (s t : State), exec c s = .next t →
     (match c with
       | .doorLineChange _ _ (some _) => False
       | _ => True) →
     ∀ d : DriveNo, agreeBut (s.vol.drive d).writing (s.vol.drive d).cable.disk (t.vol.drive d).cable.disk)
  ∧ (∀ (c : Instr) (s t : State), exec c s = .next t →
       (match c with
         | .sectorBoundary .. => False
         | .verifySectorEnd .. => False
         | .indexStall _ => False
         | .doorOpening _ => False
         | .stepDone .. => False
         | .frameSent _ => False
         | .powerOn _ => False
         | .resetHold => False
         | .mainPowerLoss => False
         | .doorLineChange .. => False
         | _ => True) →
       ∀ d : DriveNo, (t.vol.drive d).cable.disk = (s.vol.drive d).cable.disk)

/-! ## What each command does: reports, settings and the clock -/

/-- R149, R150, R151, R152: STATUS, TIME, DRIVE and GET are answered DONE with their data, and change nothing else of
their own. The model's own: DRIVE reports the cylinder the head stands on (log 13). -/
def Obligations.ReportsAreAnsweredAndChangeNothing : Prop :=
  ∀ (s : State) (k : Line) (tag : Byte), s.hears k → tag ≠ 0 →
    exec (.status k tag) s = .next (s.finish (s.bat, s.vol.answer k tag .done
      ((lineReqs k).flatMap (fun r => slotReport (s.vol.req r)) ++ [BitVec.ofNat 8 (s.vol.holdCount k)]
        ++ (s.vol.holdsInOrder k).flatMap s.vol.holdReport ++ (s.vol.port k).notice.bytes)))
    ∧ exec (.time k tag) s = .next (s.finish (s.bat, s.vol.answer k tag .done
        [bcd s.bat.clock.yy, bcd s.bat.clock.mm, bcd s.bat.clock.dd, bcd s.bat.clock.hh, bcd s.bat.clock.mi,
          bcd s.bat.clock.ss, if s.bat.clock.valid then 1 else 0]))
    ∧ (∀ (x : Byte) (d : DriveNo), x.toNat = d.val → s.bat.mayRead k d = true →
        exec (.drive k tag x) s = .next (s.finish (s.bat, s.vol.answer k tag .done
          ([(s.vol.mount d).code, (s.vol.drive d).conditions, cylByte (s.vol.drive d).seq.cyl,
            BitVec.ofNat 8 (s.vol.drive d).sched.queue.length, BitVec.ofNat 8 (s.vol.drive d).sched.depth,
            serviceByte (s.vol.drive d).sched.service, BitVec.ofNat 8 (s.vol.drive d).seq.retries]
            ++ mirrorReport (s.vol.mirror d)))))
    ∧ (∀ (item : Byte) (i : Item), k = supervisorLine → parseItem item = some i →
        exec (.get k tag item) s = .next (s.finish (s.bat, s.vol.answer k tag .done (item :: s.bat.itemBytes i))))

/-- R173, R174, R176: SET stores its value clamped to the top of the item's range, leaves every other item, the clock
and the editions, and is answered DONE with the value stored; a rate's answer carries the rate change. R90, R177: a SET
of a drive's unload time while its unload count is running starts the count again at 0, or stops it where the value
stored is 0; with no count running, and for every other item, a SET does nothing at once outside the settings. -/
def Obligations.SetStoresTheClampedValue : Prop :=
  (∀ (s : State) (tag item : Byte) (i : Item) (value : Word16),
     s.hears supervisorLine → tag ≠ 0 → parseItem item = some i → i ≠ .trim →
     ∃ t, exec (.set supervisorLine tag item value) s = .next t
       ∧ t.bat.itemBytes i = be16 (min value.toNat i.top)
       ∧ (∀ j, j ≠ i → t.bat.itemBytes j = s.bat.itemBytes j)
       ∧ t.bat.clock = s.bat.clock ∧ t.bat.editions = s.bat.editions
       ∧ t = s.finish (t.bat, (s.vol.noteSet i value.toNat).addReply supervisorLine
           (.single (answerBody tag .done (item :: be16 (min value.toNat i.top)))) true i.mark))
  ∧ (∀ (v : Vol) (value : Nat),
       (∀ i, (∀ d, i ≠ .cabinet d 3) → v.noteSet i value = v)
       ∧ ∀ d, v.noteSet (.cabinet d 3) value = v.modSeq d (fun q =>
         { q with unload := if q.unload = none ∨ min value 15 = 0 then none else some 0 }))

/-- R162: SETTIME with a date and time of the calendar sets the fields, the prescaler, the second's length and the valid
flag, recomputes every edition silently, and is answered DONE with the fields. -/
def Obligations.SettimeSetsTheClock : Prop :=
  ∀ (s : State) (tag : Byte) (y m d h n x : Nat),
    s.hears supervisorLine → tag ≠ 0 →
    y ≤ 99 → 1 ≤ m → m ≤ 12 → 1 ≤ d → d ≤ monthDays y m → h ≤ 23 → n ≤ 59 → x ≤ 59 →
    let c : Clock := { yy := y, mm := m, dd := d, hh := h, mi := n, ss := x, prescaler := 0, secondLength := 32768,
                       trim := s.bat.clock.trim, valid := true }
    exec (.settime supervisorLine tag (bcd y) (bcd m) (bcd d) (bcd h) (bcd n) (bcd x)) s
      = .next (s.finish
          ({ s.bat with clock := c, editions := s.bat.editions.map (fun e => e.recompute (60 * h + n)) },
           s.vol.answer supervisorLine tag .done [bcd y, bcd m, bcd d, bcd h, bcd n, bcd x, 1]))

/-- R160: TRIM stores its signed value clamped to -2048 to 2047 and is answered DONE with it; nothing else of the
battery domain changes. R163: ROUND. From second 30 on, one minute is carried, and that carry is a minute event. -/
def Obligations.TrimAndRoundSetTheClock : Prop :=
  (∀ (s : State) (tag : Byte) (value : Word16), s.hears supervisorLine → tag ≠ 0 →
     let n := max (-2048) (min 2047 value.toInt)
     exec (.trim supervisorLine tag value) s
       = .next (s.finish ({ s.bat with clock := { s.bat.clock with trim := n } },
           s.vol.answer supervisorLine tag .done (be16 (BitVec.ofInt 16 n).toNat))))
  ∧ (∀ (s : State) (tag : Byte), s.hears supervisorLine → tag ≠ 0 →
       (s.bat.clock.ss < 30 →
         let c := { s.bat.clock with ss := 0, prescaler := 0, secondLength := 32768 }
         exec (.round supervisorLine tag) s
           = .next (s.finish ({ s.bat with clock := c },
               s.vol.answer supervisorLine tag .done (c.fields ++ [if c.valid then 1 else 0]))))
       ∧ (30 ≤ s.bat.clock.ss →
         let c := s.bat.clock.carryMinute
         c.ss = 0 ∧ c.prescaler = 0
         ∧ exec (.round supervisorLine tag) s
           = .next (s.finish (minuteTick { s.bat with clock := c }
               (s.vol.answer supervisorLine tag .done (c.fields ++ [if c.valid then 1 else 0]))))))

/-- R166: EDITION rewrites the entry named, its lead clamped below the open span, its state recomputed silently at the
clock's present minute, and is answered DONE with the entry as stored. -/
def Obligations.EditionRewritesItsEntry : Prop :=
  ∀ (s : State) (tag : Byte) (i : Fin 8) (on : Bool) (o c lead : Nat),
    s.hears supervisorLine → tag ≠ 0 → o < 1440 → c < 1440 → o ≠ c → lead ≤ 59 →
    let span := (c + 1440 - o) % 1440
    let stored := min lead (span - 1)
    let m := (60 * s.bat.clock.hh + s.bat.clock.mi + 1440 - o) % 1440
    let st : EditionState :=
      if on then (if m < span - stored then .opened else if m < span then .warning else .closed) else .opened
    let e : Edition := { enabled := on, opens := o, closes := c, lead := stored, state := st }
    exec (.edition supervisorLine tag (BitVec.ofNat 8 (i.val + 1)) (if on then 1 else 0) (bcd (o / 60)) (bcd (o % 60))
        (bcd (c / 60)) (bcd (c % 60)) (BitVec.ofNat 8 lead)) s
      = .next (s.finish
          ({ s.bat with editions := s.bat.editions.set i e },
           s.vol.answer supervisorLine tag .done
            [BitVec.ofNat 8 (i.val + 1), if on then 1 else 0, bcd (o / 60), bcd (o % 60), bcd (c / 60), bcd (c % 60),
              BitVec.ofNat 8 stored, st.code]))

/-- R158, R164, R170: a second ends. The end of a second 59 is a minute event where the blocks run; where they do not,
the clock runs on alone. R164, R167: at a minute event every enabled edition takes its arc state while the clock is
valid, and none otherwise; the clock and the settings stand, and on every line's record the editions that entered
WARNING and CLOSED join their sets. R71: each queued ROUTINE order whose request carries an edition that entered WARNING
becomes an EDITION order in its place, every other order of the drive and the rest of its scheduler standing; on a drive
with an order in service each raised order is to be tested for preemption (R65). The model's own: the prescaler's counts inside a second are not stepped (log 23),
and a second's end while the blocks do not run advances the clock alone (log 31). -/
def Obligations.SecondsAndMinutes : Prop :=
  (∀ s : State,
     (s.bat.clock.ss ≠ 59 → exec .secondEnd s = .next (s.finish
       ({ s.bat with clock := { s.bat.clock with ss := s.bat.clock.ss + 1, prescaler := 0, secondLength := 32768 } },
         s.vol)))
     ∧ (s.bat.clock.ss = 59 → s.vol.live = true →
         exec .secondEnd s = .next (s.finish (minuteTick { s.bat with clock := s.bat.clock.carryMinute } s.vol)))
     ∧ (s.bat.clock.ss = 59 → s.vol.live = false →
         exec .secondEnd s = .next (s.finish ({ s.bat with clock := s.bat.clock.carryMinute }, s.vol))))
  ∧ (∀ (b : Battery) (v : Vol),
       (minuteTick b v).1.clock = b.clock ∧ (minuteTick b v).1.settings = b.settings
       ∧ (∀ i : Fin 8, (minuteTick b v).1.editions[i]
           = if b.clock.valid && (b.editions[i]).enabled
             then { b.editions[i] with state := (b.editions[i]).arcState b.clock.minute } else b.editions[i])
       ∧ ∀ (k : Line) (i : Fin 8),
           ((((minuteTick b v).2.port k).notice.warning.getLsbD i.val
             = ((v.port k).notice.warning.getLsbD i.val
                 || ((minuteTick b v).1.editions[i].state == .warning && b.editions[i].state != .warning)))
           ∧ (((minuteTick b v).2.port k).notice.closed.getLsbD i.val
             = ((v.port k).notice.closed.getLsbD i.val
                 || ((minuteTick b v).1.editions[i].state == .closed && b.editions[i].state != .closed)))))
  ∧ (∀ (b : Battery) (v : Vol),
       let warns := fun (i : Fin 8) =>
         (minuteTick b v).1.editions[i].state == .warning && b.editions[i].state != .warning
       let raised := fun (o : Order) => o.cls == .routine && (match v.req o.req with
         | none => false
         | some q => (List.finRange 8).any (fun i => q.edition == i.val + 1 && warns i))
       (∀ d, ((minuteTick b v).2.drive d).sched = { (v.drive d).sched with
         queue := (v.drive d).sched.queue.map (fun o => if raised o then { o with cls := .edition } else o) })
       ∧ (minuteTick b v).2.tests = v.tests ++ (List.finRange 4).flatMap (fun d =>
           if (v.drive d).sched.service.isSome then
             ((v.drive d).sched.queue.filter raised).map (fun o => (d, o.arrival))
           else []))

/-! ## What each command does: stories -/

/-- R44, R36, R106, R107, R142: a FETCH that passes its checks opens a request of the clamped class. While the entry's
catalog write is in flight it waits; else it becomes a reader of the entry, and makes the READ order of the first
extent, or ends DONE at once for a version without extents. R28, R36, R106, R107: a DRAW that passes its checks does as
a FETCH does, and sets the line's hold on the entry as it becomes a reader. R59, R107, R111: when a READ order ends DONE
its fetch makes the next extent's order, or, after the last, is released as a reader and is in DELIVERING; with any
other outcome it ends with it. R25, R26: a reader released leaves its entry's readers; the last one of a retired version
lets its sectors into the free set of its drive and its record become free. R36: a request that waited on a catalog
write and goes on looks its slug up again: where it is gone it ends NOT FOUND; a DRAW whose line has 8 holds, none on
that entry, ends NO SLOT; else it becomes a reader of the entry as it is then served, a DRAW setting its hold, and goes
on as above. The model's own: the lower free slot of the line is taken (log 32). -/
def Obligations.FetchAndDrawOpenTheirRequests : Prop :=
  (∀ (s : State) (k : Line) (tag drive cls edition : Byte) (slug : List Byte) (f : StoryFields) (r : ReqId) (slot : Nat)
     (e : Entry),
     s.hears k → parseStory tag drive cls edition slug = some f → s.bat.mayRead k f.drive = true →
     s.vol.freeSlotOf k = some r → s.vol.tagInUse k tag = false → s.vol.mount f.drive = .ready →
     (s.vol.mirror f.drive).bind (fun m => m.lookup f.slug) = some slot → s.vol.entry f.drive slot = some e →
     e.image.state ≠ .damaged →
     let q := newRequest tag .fetch { f with cls := clampClass (s.bat.ceiling k) f.cls } .waiting slot s.vol.stamp
     let info : VersionInfo :=
       { length := e.image.length, revision := e.image.revision, timestamp := e.image.timestamp,
         extents := e.image.extents }
     let reading := ((s.vol.openRequest r q).modEntry f.drive slot (fun e => { e with readers := e.readers + 1 })).modReq
       r (fun q => { q with version := some (.entry slot), info := info, slot := slot, onEntry := true, stage := .reading })
     (e.catWrite.isSome = true →
       exec (.fetch k tag drive cls edition slug) s = .next (s.finish (s.bat, s.vol.openRequest r q)))
     ∧ (e.catWrite = none → ∀ x xs, e.image.extents = x :: xs →
       exec (.fetch k tag drive cls edition slug) s = .next (s.finish (s.bat,
         (reading.makeOrder s.bat r f.drive .read ⟨x.cyl, x.side, x.first, x.count, [], []⟩).modReq r
           (fun q => { q with ordersMade := q.ordersMade + 1 }))))
     ∧ (e.catWrite = none → e.image.extents = [] →
       exec (.fetch k tag drive cls edition slug) s = .next (s.finish (s.bat,
         (reading.releaseReader r).finish r .done (be16 e.image.length ++ be16 e.image.revision ++ e.image.timestamp)
           true))))
  ∧ (∀ (s : State) (k : Line) (tag drive cls edition : Byte) (slug : List Byte) (f : StoryFields) (r : ReqId) (slot : Nat)
       (e : Entry),
       s.hears k → parseStory tag drive cls edition slug = some f → s.bat.mayRead k f.drive = true →
       s.vol.freeSlotOf k = some r → s.vol.tagInUse k tag = false → s.vol.mount f.drive = .ready →
       (s.vol.mirror f.drive).bind (fun m => m.lookup f.slug) = some slot → s.vol.entry f.drive slot = some e →
       e.image.state ≠ .damaged → (e.holder = some k ∨ (e.holder = none ∧ s.vol.holdCount k < 8)) →
       (∀ p, e.filing = some p → reqLine p = k) → (∀ p, e.spike = some p → reqLine p = k) →
       let q := newRequest tag .draw { f with cls := clampClass (s.bat.ceiling k) f.cls } .waiting slot s.vol.stamp
       let info : VersionInfo :=
         { length := e.image.length, revision := e.image.revision, timestamp := e.image.timestamp,
           extents := e.image.extents }
       let reading := (((s.vol.openRequest r q).modEntry f.drive slot (fun e =>
         { e with readers := e.readers + 1 })).setHold f.drive slot k).modReq
         r (fun q => { q with version := some (.entry slot), info := info, slot := slot, onEntry := true, stage := .reading })
       (e.catWrite.isSome = true →
         exec (.draw k tag drive cls edition slug) s = .next (s.finish (s.bat, s.vol.openRequest r q)))
       ∧ (e.catWrite = none → ∀ x xs, e.image.extents = x :: xs →
         exec (.draw k tag drive cls edition slug) s = .next (s.finish (s.bat,
           (reading.makeOrder s.bat r f.drive .read ⟨x.cyl, x.side, x.first, x.count, [], []⟩).modReq r
             (fun q => { q with ordersMade := q.ordersMade + 1 }))))
       ∧ (e.catWrite = none → e.image.extents = [] →
         exec (.draw k tag drive cls edition slug) s = .next (s.finish (s.bat,
           (reading.releaseReader r).finish r .done (be16 e.image.length ++ be16 e.image.revision ++ e.image.timestamp)
             true))))
  ∧ (∀ (b : Battery) (v : Vol) (d : DriveNo) (o : Order) (q : Request),
       (v.drive d).sched.service = some o → o.kind = .read → v.req o.req = some q → q.stage ≠ .ending →
       let w := v.modDrive d (fun z =>
         { z with seq := { z.seq with job := .none, phase := .idle, recal := none, idleDue := true },
                  sched := { z.sched with service := none, pending := false } })
       (∀ x, q.info.extents[q.ordersMade]? = some x → v.orderEnd b d .done
         = (w.makeOrder b o.req q.drive .read ⟨x.cyl, x.side, x.first, x.count, [], []⟩).modReq o.req
             (fun q => { q with ordersMade := q.ordersMade + 1 }))
       ∧ (q.info.extents[q.ordersMade]? = none → v.orderEnd b d .done
         = (w.releaseReader o.req).modReq o.req (fun q => { q with stage := .delivering }))
       ∧ (∀ oc, oc ≠ .done → v.orderEnd b d oc = w.finish o.req oc [] false))
  ∧ (∀ (v : Vol) (r : ReqId) (q : Request), v.req r = some q →
       let left := fun (v : Vol) => v.modReq r (fun q => { q with version := none })
       (∀ i, q.version = some (.entry i) →
         v.releaseReader r = left (v.modEntry q.drive i (fun e => { e with readers := e.readers - 1 })))
       ∧ (∀ k d xs n, q.version = some (.record k) → v.record k = .inUse d xs n →
         (1 < n → v.releaseReader r = left (v.setRecord k (.inUse d xs (n - 1))))
         ∧ (n ≤ 1 → v.releaseReader r = left ((v.setRecord k .free).modMirror d (fun m =>
             { m with free := addSectors m.free (extentSectors xs) })))))
  ∧ (∀ (b : Battery) (v : Vol) (r : ReqId) (q : Request) (m : Mirror), v.req r = some q → v.mirror q.drive = some m →
       (m.lookup q.slug = none → v.proceed b r = v.finish r .notFound [] false)
       ∧ ∀ slot e, m.lookup q.slug = some slot → m.entry slot = some e →
         let info : VersionInfo :=
           { length := e.image.length, revision := e.image.revision, timestamp := e.image.timestamp,
             extents := e.image.extents }
         let read := v.modEntry q.drive slot (fun e => { e with readers := e.readers + 1 })
         let reading := (if q.kind = .draw then read.setHold q.drive slot (reqLine r) else read).modReq r (fun q =>
           { q with version := some (.entry slot), info := info, slot := slot, onEntry := true, stage := .reading })
         let full := q.kind = .draw ∧ 8 ≤ v.holdCount (reqLine r) ∧ e.holder ≠ some (reqLine r)
         (full → v.proceed b r = v.finish r .noSlot [] false)
         ∧ (¬ full → e.image.extents = [] → v.proceed b r = (reading.releaseReader r).finish r .done
             (be16 e.image.length ++ be16 e.image.revision ++ e.image.timestamp) false)
         ∧ (¬ full → ∀ x, e.image.extents[q.ordersMade]? = some x → v.proceed b r
             = (reading.makeOrder b r q.drive .read ⟨x.cyl, x.side, x.first, x.count, [], []⟩).modReq r (fun q =>
               { q with ordersMade := q.ordersMade + 1 })))

/-- R34, R112, R147: a FILE that passes its checks opens a filing in OPEN, on the entry found or on the lowest FREE
slot, which it reserves for the slug, and is answered TAKEN with the count 0. The model's own: the lower free slot of
the line is taken (log 32). -/
def Obligations.FileOpensItsFiling : Prop :=
  ∀ (s : State) (k : Line) (tag drive cls edition : Byte) (slug : List Byte) (f : StoryFields) (r : ReqId) (m : Mirror),
    s.hears k → parseStory tag drive cls edition slug = some f → s.bat.mayFile k f.drive = true →
    s.vol.freeSlotOf k = some r → s.vol.tagInUse k tag = false → s.vol.mount f.drive = .ready →
    (s.vol.drive f.drive).seq.writeProtected = false → (s.vol.drive f.drive).cat.fault = false →
    (s.vol.drive f.drive).cat.copySource = false → s.bat.editionState f.edition ≠ .closed →
    s.vol.mirror f.drive = some m →
    let opened := fun (slot : Nat) (reserved : Option (List Byte)) =>
      let q := { newRequest tag .file { f with cls := clampClass (s.bat.ceiling k) f.cls } .opened slot s.vol.stamp with
        session := some { edition := f.edition, keepHold := false, length := 0, fill := none, fillBytes := 0,
                          full := [], pending := [], lastSector := none, idle := true } }
      ((s.vol.openRequest r q).modEntry f.drive slot (fun e => { e with filing := some r, reserved := reserved })).reqAnswer
        r .taken [0, 0] true false
    (∀ slot e, m.lookup f.slug = some slot → m.entry slot = some e → (e.holder = none ∨ e.holder = some k) →
      e.filing = none → e.spike = none → e.catWrite = none →
      exec (.file k tag drive cls edition slug) s = .next (s.finish (s.bat, opened slot none)))
    ∧ (∀ slot, m.lookup f.slug = none → m.reservedFor f.slug = false → m.freeSlot = some slot →
      exec (.file k tag drive cls edition slug) s = .next (s.finish (s.bat, opened slot (some f.slug))))

/-- R41: a SPIKE that passes its checks opens its request, marks its entry, and goes on to its catalog write where a
buffer and, for an entry with readers, a record are free, or else waits. R35, R41: a commit or spike that enters its
catalog write has a buffer, the one it kept or one taken then, claims a free record where the entry has readers, sets
the entry's catalog write with its new image, is in COMMITTING or WRITING, and makes the CATALOG WRITE order of the one
catalog sector that holds its slot (R7), which owns the buffer. The new image is a FREE slot for a SPIKE; for a filing
it is FILED with the slug, the filing's edition, revision 1 for a reserved slot or else one more, up to 65535, the
clock's snapshot, the filing's length and its pending extents. R26: a record claimed was free. R27, R34, R41: of the
filings in COMMIT WAIT and spikes in WAITING, one can go on when it has or can take a buffer and, where its version has
readers, a record is free; of those that can and need a record, only the one that began waiting earliest is offered it.
The model's own: the lower free slot of the line is taken (log 32); waiting counts from the entry into COMMIT WAIT or
WAITING (log 36), and a SPIKE takes its buffer with its record, not before (log 41). -/
def Obligations.SpikesAndCommitsEnterTheirCatalogWrite : Prop :=
  (∀ (s : State) (k : Line) (tag drive cls : Byte) (slug : List Byte) (f : StoryFields) (r : ReqId) (m : Mirror)
    (slot : Nat) (e : Entry),
    s.hears k → parseSpike tag drive cls slug = some f → s.bat.mayFile k f.drive = true →
    s.vol.freeSlotOf k = some r → s.vol.tagInUse k tag = false → s.vol.mount f.drive = .ready →
    (s.vol.drive f.drive).seq.writeProtected = false → (s.vol.drive f.drive).cat.fault = false →
    (s.vol.drive f.drive).cat.copySource = false →
    s.vol.mirror f.drive = some m → m.lookup f.slug = some slot → m.entry slot = some e →
    (e.holder = none ∨ e.holder = some k) → e.filing = none → e.spike = none → e.catWrite = none →
    let q := newRequest tag .spike { f with cls := clampClass (s.bat.ceiling k) f.cls } .waiting slot s.vol.stamp
    let v := (s.vol.openRequest r q).modEntry f.drive slot (fun e => { e with spike := some r })
    let ready := 1 ≤ s.vol.freeBufs ∧ (e.readers = 0 ∨ s.vol.freeRecord ≠ none)
    (ready → exec (.spike k tag drive cls slug) s = .next (s.finish (s.bat, v.enterWrite s.bat r)))
    ∧ (¬ ready →
      exec (.spike k tag drive cls slug) s = .next (s.finish (s.bat,
        (v.modReq r (fun q => { q with stage := .waiting, waitSince := v.stamp })).nextStamp))))
  ∧ (∀ (b : Battery) (v w : Vol) (r : ReqId) (q : Request) (e : Entry) (x : BufNo),
       v.req r = some q → v.entry q.drive q.slot = some e →
       (q.catBuf = some x ∧ w = v ∨ q.catBuf = none ∧ v.takeBuf r = some (x, w)) →
       let record := if 0 < e.readers then w.freeRecord else none
       let claimed := match record with
         | some k => w.setRecord k (.claimed q.drive r)
         | none => w
       let image : SlotImage := match q.session with
         | some ses =>
           { state := .filed, slug := q.slug, edition := ses.edition,
             revision := if e.reserved ≠ none then 1 else min (e.image.revision + 1) 65535,
             timestamp := if b.clock.valid then b.clock.fields else [0, 0, 0, 0, 0, 0],
             length := ses.length, extents := ses.pending }
         | none => SlotImage.freeImage
       let n := q.slot / 16 + 1
       v.enterWrite b r
         = ((claimed.modEntry q.drive q.slot (fun e => { e with
               catWrite := some { req := r, spike := decide (q.kind = .spike), image := image, record := record } })).modReq r
             (fun q => { q with stage := if q.kind = .spike then .writing else .committing, catBuf := some x })).makeOrder b r
           q.drive .catalogWrite ⟨0, if n ≤ 7 then 0 else 1, if n ≤ 7 then n else n - 8, 1, [], [x]⟩)
  ∧ (∀ v : Vol, (v.freeRecord = none ↔ ∀ k, v.record k ≠ .free) ∧ ∀ k, v.freeRecord = some k → v.record k = .free)
  ∧ (∀ (v : Vol) (r : ReqId),
       let needs := fun (q : Request) => ∃ e, v.entry q.drive q.slot = some e ∧ 0 < e.readers
       let ready := fun (r : ReqId) (q : Request) => v.req r = some q
         ∧ (q.stage = .commitWait ∨ q.kind = .spike ∧ q.stage = .waiting)
         ∧ (q.catBuf ≠ none ∨ 1 ≤ v.freeBufs) ∧ (needs q → v.freeRecord ≠ none)
       r ∈ v.offeredWrites ↔ ∃ q, ready r q ∧ (needs q → ∀ r' q', ready r' q' → needs q' → q.waitSince ≤ q'.waitSince))

/-- R113, R114: TEXT that reaches its filing: its bytes are appended, the idle limit restarts, it is answered TAKEN with
the count, and a filled buffer with no write order in flight forms one; beyond 65,535 bytes the filing ends TOO LONG;
with no buffer to be had it is answered POOL BUSY. R73, R102, R118: a filing that ends TOO LONG ends at once, its order
taken out of the queue, the stack or service, or, where its order is in its verify pass or a sector is being transferred
(R73), goes to ENDING with TOO LONG as the outcome it takes at that order's end (CancelEndsItsRequest says of both).
R113: bytes appended to a filing: with no fill buffer, into one taken then; into the fill buffer while it has room; a
buffer they fill joins the full buffers, and what is left goes into a fresh one. R104: a buffer taken was free, and
keeps the bytes it held, as one returned does. The model's own: of the free buffers it is the lowest-numbered (log 42).
-/
def Obligations.TextJoinsItsFiling : Prop :=
  (∀ (s : State) (k : Line) (tag : Byte) (bytes : List Byte) (r : ReqId) (q : Request) (ses : Session),
     s.hears k → tag ≠ 0 → 1 ≤ bytes.length → bytes.length ≤ 256 →
     s.vol.openFiling k tag = some r → s.vol.req r = some q → q.session = some ses →
     let n := ses.length + bytes.length
     let fresh := ses.fill = none ∨ 1024 < ses.fillBytes + bytes.length
     let full := s.vol.freeBufs = 0 ∨ 8 ≤ s.vol.heldBufs r
     (n ≤ 65535 → ¬ (fresh ∧ full) → exec (.text k tag bytes) s = .next (s.finish (s.bat,
         (((s.vol.appendText r ses bytes).modSession r (fun x => { x with idle := true })).reqAnswer r .taken (be16 n)
           true false).formIfFull s.bat r true)))
     ∧ (65535 < n →
       let p := s.vol.takeOut r q.drive q.dest
       exec (.text k tag bytes) s = .next (s.finish (s.bat,
         if p.2 then p.1.finish r .tooLong [] true
         else p.1.modReq r (fun q => { q with stage := .ending, outcome := some .tooLong }))))
     ∧ (n ≤ 65535 → fresh → full → exec (.text k tag bytes) s = .next (s.finish (s.bat,
         (s.vol.modSession r (fun x => { x with idle := true })).reqAnswer r .poolBusy (be16 ses.length) true false))))
  ∧ (∀ (v : Vol) (r : ReqId) (ses : Session) (bytes : List Byte),
       ses.fillBytes ≤ 1024 →
       let length := ses.length + bytes.length
       let count := ses.fillBytes + bytes.length
       let room := 1024 - ses.fillBytes
       let put := fun (w : Vol) (x : BufNo) (data : List Byte) => w.setBuf x { w.buf x with data := data }
       (ses.fill = none → ∀ x w, v.takeBuf r = some (x, w) → v.appendText r ses bytes
         = (put w x (bytes ++ (w.buf x).data.drop bytes.length)).modSession r (fun t =>
             { t with length := length, fill := some x, fillBytes := bytes.length }))
       ∧ (∀ x, ses.fill = some x →
         let kept := (v.buf x).data.take ses.fillBytes
         (count < 1024 → v.appendText r ses bytes = (put v x (kept ++ bytes ++ (v.buf x).data.drop count)).modSession r
           (fun t => { t with length := length, fillBytes := count }))
         ∧ (count = 1024 → v.appendText r ses bytes
           = (put v x (kept ++ bytes ++ (v.buf x).data.drop count)).modSession r (fun t =>
             { t with length := length, fill := none, fillBytes := 0, full := t.full ++ [x] }))
         ∧ (1024 < count → ∀ y w,
           (put v x (kept ++ bytes.take room ++ (v.buf x).data.drop 1024)).takeBuf r = some (y, w) →
           v.appendText r ses bytes
             = (put w y (bytes.drop room ++ (w.buf y).data.drop (count - 1024))).modSession r (fun t =>
               { t with length := length, fill := some y, fillBytes := count - 1024, full := t.full ++ [x] }))))
  ∧ (∀ (b : Battery) (v : Vol) (r : ReqId) (q : Request) (ses : Session), v.req r = some q → q.session = some ses →
       v.formIfFull b r true
         = if ses.full = [] ∨ (v.drive q.drive).sched.hasOrder r = true then v else v.formWrite b r true)
  ∧ (∀ (v : Vol) (r : ReqId),
       (v.takeBuf r = none ↔ ∀ x, (v.buf x).owner ≠ none)
       ∧ ∀ x w, v.takeBuf r = some (x, w) →
         (v.buf x).owner = none ∧ (∀ y < x, (v.buf y).owner ≠ none) ∧ w = v.setBuf x { v.buf x with owner := some r })
  ∧ (∀ (v : Vol) (bs : List BufNo) (x : BufNo),
       (v.returnBufs bs).buf x = if x ∈ bs then { v.buf x with owner := none } else v.buf x)

/-- R116: CLOSE stops the idle limit, takes the keep-hold flag and zero-fills the fill buffer. With a write order in
flight nothing more happens; with none in flight the full buffers are written, or, where there are none, the commit is
due. R31 to R33, R114: the order formed for full buffers takes the run chosen for up to 8 of them, which leaves the free
set and joins the pending extents; with no free sector the filing ends DISKETTE FULL, with a 13th extent FRAGMENTED.
R34, R104: when its commit is due a filing without a buffer takes a free one, even where it must wait for a record; it
begins its catalog write when it has a buffer and, where its version has readers, a record is free, and else goes to
COMMIT WAIT. R59, R115: when its write order ends DONE the order's buffers return and the next order is formed while full
buffers wait; in CLOSING with none one of its buffers stays for the catalog write, the others return, and the commit is due;
with any other outcome the filing ends with it. The model's own: a first allocation starts at the cylinder the head stands
on (log 13), the moment it began waiting is its entry into COMMIT WAIT (log 36), the buffer it takes on the way (log 41),
and the buffer kept is the order's first (log 43). -/
def Obligations.CloseEndsTheText : Prop :=
  (∀ (s : State) (k : Line) (tag keep : Byte) (on : Bool) (r : ReqId) (q : Request) (ses : Session),
     s.hears k → tag ≠ 0 → parseFlag keep = some on →
     s.vol.openFiling k tag = some r → s.vol.req r = some q → q.session = some ses →
     let closing := s.vol.modReq r (fun q =>
       { q with stage := .closing, session := some { ses with keepHold := on, idle := false } })
     let v := match ses.fill with
       | none => closing
       | some x => (closing.fillBuf x (padTo 1024 ((s.vol.buf x).data.take ses.fillBytes))).modSession r (fun t =>
           { t with fill := none, fillBytes := 0, full := t.full ++ [x] })
     let closed := fun (w : Vol) => exec (.close k tag keep) s = .next (s.finish (s.bat, w))
     let inFlight := (s.vol.drive q.drive).sched.hasOrder r
     (inFlight = true → closed v)
     ∧ (inFlight = false → (ses.fill ≠ none ∨ ses.full ≠ []) → closed (v.formWrite s.bat r true))
     ∧ (inFlight = false → ses.fill = none → ses.full = [] → closed (v.commitDue s.bat r)))
  ∧ (∀ (b : Battery) (v : Vol) (r : ReqId) (direct : Bool) (q : Request) (ses : Session) (m : Mirror),
       v.req r = some q → q.session = some ses → v.mirror q.drive = some m →
       let run := chooseRun m.free (startPoint ses.lastSector (v.drive q.drive).seq.cyl) (min 8 ses.full.length)
       (run = none → v.formWrite b r direct = v.finish r .disketteFull [] direct)
       ∧ ∀ x k, run = some (x, k) →
         (growExtents ses.pending x k = none → v.formWrite b r direct = v.finish r .fragmented [] direct)
         ∧ ∀ es, growExtents ses.pending x k = some es →
           let e := extentOfRun x k
           v.formWrite b r direct
             = ((v.modMirror q.drive (fun m => { m with free := removeSectors m.free e.sectors })).modSession r (fun t =>
                 { t with pending := es, lastSector := some (x + k - 1), full := ses.full.drop k })).makeOrder b r q.drive
               .write ⟨e.cyl, e.side, e.first, e.count, [], ses.full.take k⟩)
  ∧ (∀ (b : Battery) (v : Vol) (r : ReqId) (q : Request) (e : Entry),
       v.req r = some q → q.kind = .file → v.entry q.drive q.slot = some e →
       let taken := match q.catBuf, v.takeBuf r with
         | none, some (x, w) => w.modReq r (fun q => { q with catBuf := some x })
         | _, _ => v
       let ready := (q.catBuf ≠ none ∨ 1 ≤ v.freeBufs) ∧ (e.readers = 0 ∨ v.freeRecord ≠ none)
       (ready → v.commitDue b r = taken.enterWrite b r)
       ∧ (¬ ready → v.commitDue b r
         = (taken.modReq r (fun q => { q with stage := .commitWait, waitSince := v.stamp })).nextStamp))
  ∧ (∀ (b : Battery) (v : Vol) (d : DriveNo) (o : Order) (q : Request) (ses : Session),
       (v.drive d).sched.service = some o → o.kind = .write → v.req o.req = some q → q.session = some ses →
       q.stage ≠ .ending →
       let w := v.modDrive d (fun z =>
         { z with seq := { z.seq with job := .none, phase := .idle, recal := none, idleDue := true },
                  sched := { z.sched with service := none, pending := false } })
       (ses.full ≠ [] → v.orderEnd b d .done = (w.returnBufs o.buffers).formWrite b o.req false)
       ∧ (ses.full = [] → q.stage = .closing → v.orderEnd b d .done
         = ((w.returnBufs o.buffers.tail).modReq o.req (fun q => { q with catBuf := o.buffers.head? })).commitDue b o.req)
       ∧ (ses.full = [] → q.stage ≠ .closing → v.orderEnd b d .done = w.returnBufs o.buffers)
       ∧ (∀ oc, oc ≠ .done → v.orderEnd b d oc = w.finish o.req oc [] false))

/-- R30, R154: RELEASE drops the line's own hold; BREAK drops any line's, and sets HOLD LOST for the drive on the
holder's record. -/
def Obligations.ReleaseAndBreakDropTheHold : Prop :=
  ∀ (s : State) (k j : Line) (tag drive : Byte) (slug g : List Byte) (d : DriveNo) (slot : Nat) (e : Entry),
    s.hears k → parseNamed tag drive slug = some (d, g) → s.vol.mount d = .ready →
    (s.vol.mirror d).bind (fun m => m.lookup g) = some slot → s.vol.entry d slot = some e → e.holder = some j →
    (k = j → exec (.release k tag drive slug) s = .next (s.finish (s.bat,
      (s.vol.modEntry d slot (fun e => { e with holder := none })).answer k tag .done [])))
    ∧ (k ≠ j → exec (.release k tag drive slug) s = .next (s.finish (s.bat, s.vol.answer k tag .notFound [])))
    ∧ (k = supervisorLine → exec (.breakHold k tag drive slug) s = .next (s.finish (s.bat,
      ((s.vol.modNotice j (fun n => { n with holdLost := n.holdLost ||| (1#8 <<< d.val) })).modEntry d slot (fun e =>
        { e with holder := none })).answer k tag .done [])))

/-- R43, R133: LIST puts one item in the line's reply list: a record of every entry that is not FREE and whose slug
begins with the pattern, in slot order, and their number. The model's own: the pattern is compared with the slug an entry
keeps as it stands, that of a DAMAGED entry with its lower-case letters (log 34). -/
def Obligations.ListJoinsTheReplyList : Prop :=
  ∀ (s : State) (k : Line) (tag drive count : Byte) (pattern g : List Byte) (d : DriveNo) (m : Mirror),
    s.hears k → parseList tag drive count pattern = some (d, g) → s.bat.mayRead k d = true → s.vol.mount d = .ready →
    s.vol.mirror d = some m →
    let records := ((List.range m.slots.length).filterMap (fun i => (m.entry i).bind (fun e =>
      if e.image.state ≠ .free ∧ e.image.slug.take g.length = g then some (listingRecord i e) else none)))
    exec (.list k tag drive count pattern) s = .next (s.finish (s.bat,
      s.vol.addReply k (.listing tag records records.length) true .plain))

/-- R15, R73, R102, R119, R120, R186: CANCEL of a request of the line. It comes too late from COMMITTING or WRITING on,
in a label unit and after the answer; an ENDING request is left as it is; a FORMAT, and a COPY outside TRACKS, go to
ENDING; any other request ends at once with its order taken out, or goes to ENDING until the order's boundary. R73: a
request's order, if it is queued or suspended, leaves the queue or the stack, the others standing in their order; in
service in its read or write pass with no sector transfer in progress it leaves service, a step going on; with a
transfer in progress, or in its verify pass, it stays, and so does a RECALIBRATE with a step in progress (R100). R59,
R102: when the order of an ENDING request ends, the request ends with the outcome its cause gave. R53, R184, R185: a
COPY that ends lets go of the source it still names, the cursor and the copy-source condition, is answered, and a
destination of its own still in RECEIVING reloads. R25, R28, R41, R103, R118: every request that ends, whatever ends it:
it is released as a reader; a DRAW not DONE drops its line's hold; a filing gives its pending sectors, its reservation
and its reference back, a SPIKE its mark; every buffer it owns returns to the pool; and its final answer joins its
waiting replies, or, when it is silent, its slot is free at once. The model's own: R100 goes before R73 for a
RECALIBRATE (log 37), a destination a COPY has lost is no longer its own (log 17), and the DRAW's hold is dropped while
the story it was admitted on is in its slot (log 26). -/
def Obligations.CancelEndsItsRequest : Prop :=
  (∀ (s : State) (k : Line) (tag target : Byte) (r : ReqId) (q : Request),
    s.hears k → tag ≠ 0 → s.vol.tagged k target = some r → s.vol.req r = some q →
    let late := q.stage = .answered ∨ q.stage = .committing ∨ q.stage = .writing
      ∨ (q.kind = .format ∧ ∃ u, (s.vol.drive q.drive).seq.job = .unit u ∧ u.kind = .label)
      ∨ (q.kind = .copy ∧ q.stage = .label)
    let p := s.vol.takeOut r q.drive q.dest
    let ending := fun (v : Vol) => v.modReq r (fun q => { q with stage := .ending, outcome := some .cancelled })
    (late → exec (.cancel k tag target) s = .next (s.finish (s.bat, s.vol.answer k tag .tooLate [])))
    ∧ (¬ late → q.stage = .ending →
      exec (.cancel k tag target) s = .next (s.finish (s.bat, s.vol.answer k tag .done [])))
    ∧ (¬ late → q.stage ≠ .ending → (q.kind = .format ∨ (q.kind = .copy ∧ q.stage ≠ .tracks)) →
      exec (.cancel k tag target) s = .next (s.finish (s.bat, (ending s.vol).answer k tag .done [])))
    ∧ (¬ late → q.stage ≠ .ending → q.kind = .copy → q.stage = .tracks →
      exec (.cancel k tag target) s = .next (s.finish (s.bat,
        (if p.2 then p.1.copyEnd s.bat r .cancelled true else ending p.1).answer k tag .done [])))
    ∧ (¬ late → q.stage ≠ .ending → q.kind ≠ .format → q.kind ≠ .copy →
      exec (.cancel k tag target) s = .next (s.finish (s.bat,
        (if p.2 then p.1.finish r .cancelled [] true else ending p.1).answer k tag .done []))))
  ∧ (∀ (x : Drive) (r : ReqId),
       let out := { x with sched := { x.sched with queue := x.sched.queue.filter (fun o => decide (o.req ≠ r)),
                                                   stack := x.sched.stack.filter (fun o => decide (o.req ≠ r)) } }
       ((∀ o, x.sched.service = some o → o.req ≠ r) → x.takeOut r = (out, true))
       ∧ (∀ o, x.sched.service = some o → o.req = r →
         let stays := o.pass = .verify ∨ x.seq.phase = .transfer ∨ (o.kind = .recalibrate ∧ x.seq.step ≠ none)
         (stays → x.takeOut r = (x, false))
         ∧ (¬ stays → x.takeOut r
           = ({ x with seq := { x.seq with job := .none, phase := .idle, recal := none, idleDue := true },
                       sched := { x.sched with service := none, pending := false } }, true))))
  ∧ (∀ (v : Vol) (r : ReqId) (d e : DriveNo),
       let x := (v.drive d).takeOut r
       let y := (v.drive e).takeOut r
       (d = e → v.takeOut r d e = (v.modDrive d (fun _ => x.1), x.2))
       ∧ (d ≠ e → v.takeOut r d e = ((v.modDrive d (fun _ => x.1)).modDrive e (fun _ => y.1), x.2 && y.2)))
  ∧ (∀ (b : Battery) (v : Vol) (d : DriveNo) (o : Order) (q : Request) (oc : OutcomeCode),
       (v.drive d).sched.service = some o → v.req o.req = some q → q.stage = .ending →
       let w := v.modDrive d (fun z =>
         { z with seq := { z.seq with job := .none, phase := .idle, recal := none, idleDue := true },
                  sched := { z.sched with service := none, pending := false } })
       (q.kind ≠ .copy → v.orderEnd b d oc = w.finish o.req (q.outcome.getD .cancelled) [] false)
       ∧ (q.kind = .copy → v.orderEnd b d oc = w.copyEnd b o.req (q.outcome.getD .cancelled) false))
  ∧ (∀ (b : Battery) (v : Vol) (r : ReqId) (q : Request) (c : CopyWork) (oc : OutcomeCode) (direct : Bool),
       v.req r = some q → q.copy = some c →
       let released := if c.holdsSource then
           (v.modSched q.drive (fun x => { x with cursor := none })).modCat q.drive (fun x => { x with copySource := false })
         else v
       let ended := released.finish r oc [] direct
       v.copyEnd b r oc direct = if c.holdsDest = true ∧ ended.mount q.dest = .receiving then
           (ended.modSeq q.dest (fun x => { x with job := .none, phase := .idle, recal := none })).startLoading b q.dest
         else ended)
  ∧ (∀ (v : Vol) (r : ReqId) (q : Request) (oc : OutcomeCode) (data : List Byte) (direct : Bool), v.req r = some q →
       let line := reqLine r
       let unread := v.releaseReader r
       let unheld := if q.kind = .draw ∧ q.onEntry = true ∧ oc ≠ .done then
           unread.modEntry q.drive q.slot (fun e => if e.holder = some line then { e with holder := none } else e)
         else unread
       let unfiled := match q.session with
         | none => unheld
         | some ses => (unheld.modMirror q.drive (fun m => { m with
               free := addSectors m.free ((extentSectors ses.pending).filter (fun x => decide (x ∉ m.suspect))) })).modEntry
             q.drive q.slot (fun e => if e.filing = some r then { e with filing := none, reserved := none } else e)
       let unmarked := if q.kind = .spike then
           unfiled.modEntry q.drive q.slot (fun e => if e.spike = some r then { e with spike := none } else e)
         else unfiled
       let gone : Vol := { unmarked with pool := Vector.ofFn (fun x =>
         if (unmarked.buf x).owner = some r then { unmarked.buf x with owner := none } else unmarked.buf x) }
       (q.silent = true → v.finish r oc data direct = gone.setReq r none)
       ∧ (q.silent = false → v.finish r oc data direct = { gone.modReq r (fun p =>
           { p with stage := .answered, outcome := some oc, chain := [], filled := 0, session := none, catBuf := none,
                    replies := p.replies ++ [{ body := .single ([0x80, q.tag, oc.code] ++ data), direct := direct,
                                               final := true, mark := .plain, made := v.stamp }] }) with
         stamp := v.stamp + 1 }))

/-! ## What each command does: FORMAT, COPY, RECAL, RESTART -/

/-- R10, R11: a FORMAT that passes its checks opens its request, discards the drive's mirror, puts the drive in
FORMATTING with its notice, and begins the invalidation unit; on a write-protected diskette it ends WRITE PROTECTED
and the drive reloads. R178, R179, R180: a COPY that passes its checks opens its request with what it records, puts
the cursor at cylinder 1, side 0 under the source's stack and the source in the copy-source condition, discards the
destination's mirror, puts the destination in RECEIVING with its notice, and begins its invalidation unit; on a
write-protected destination it ends WRITE PROTECTED. The model's own: the lower free slot of the line is taken (log
32). -/
def Obligations.FormatAndCopyBegin : Prop :=
  (∀ (s : State) (tag drive : Byte) (volume g : List Byte) (d : DriveNo) (r : ReqId),
     s.hears supervisorLine → parseFormat tag drive volume = some (d, g) →
     s.vol.freeSlotOf supervisorLine = some r → s.vol.tagInUse supervisorLine tag = false →
     (s.vol.mount d = .ready ∨ s.vol.mount d = .unformatted) → (s.vol.drive d).seq.writeProtected = false →
     s.vol.inUse d = false →
     let q := { newRequest tag .format (plainFields d .background) .running 0 s.vol.stamp with
       format := some { volume := g, bads := [] } }
     let v := ((s.vol.openRequest r q).modCat d (fun c => { c with mirror := none, fault := false })).changeMount d
       .formatting
     ((s.vol.drive d).cable.protect = false →
       exec (.format supervisorLine tag drive volume) s = .next (s.finish (s.bat,
         v.placeUnit s.bat d
           { kind := .invalidate, req := r, copy := false, sectors := [0], todo := [0], failed := [], image := zeroSector })))
     ∧ ((s.vol.drive d).cable.protect = true →
       exec (.format supervisorLine tag drive volume) s = .next (s.finish (s.bat,
         (v.modSeq d (fun q => { q with writeProtected := true })).formatReloads s.bat d r .writeProtected [] true))))
  ∧ (∀ (s : State) (tag source dest : Byte) (a d : DriveNo) (r : ReqId),
       s.hears supervisorLine → parseCopy tag source dest = some (a, d) →
       s.vol.freeSlotOf supervisorLine = some r → s.vol.tagInUse supervisorLine tag = false →
       s.vol.copyCheck a d = none →
       let q := { newRequest tag .copy (plainFields a .background) .opening 0 s.vol.stamp with
         dest := d, copy := some (s.vol.copyWork a d) }
       let v := (((((s.vol.openRequest r q).modSched a (fun x => { x with cursor := some (1, 0) })).modCat a (fun c =>
         { c with copySource := true })).modCat d (fun c => { c with mirror := none, fault := false })).changeMount d
           .receiving)
       ((s.vol.drive d).cable.protect = false →
         exec (.copy supervisorLine tag source dest) s = .next (s.finish (s.bat,
           v.placeUnit s.bat d
             { kind := .invalidate, req := r, copy := true, sectors := [0], todo := [0], failed := [], image := zeroSector })))
       ∧ ((s.vol.drive d).cable.protect = true →
         exec (.copy supervisorLine tag source dest) s = .next (s.finish (s.bat,
           (v.modSeq d (fun q => { q with writeProtected := true })).copyEnd s.bat r .writeProtected true))))

/-- R99, R49, R50: RECAL on a drive in READY opens its request and makes one RECALIBRATE order at FLASH class, which
joins the queue; on a drive with an order in service it is tested for preemption. R47, R49, R50, R65: so does every order:
a RECALIBRATE at FLASH class, a COPY's at BACKGROUND, any other at its request's class, or EDITION for a ROUTINE request
whose edition is in WARNING; at the end of the queue, at the drive's next arrival position, with no bypass, in its write
pass or its read pass by its kind, to be tested where an order is in service. R156: RESTART is answered DONE
without data; the general reset comes with the last byte of that answer, whose frame carries it. The model's own: the
lower free slot of the line is taken (log 32). -/
def Obligations.RecalAndRestartAreTaken : Prop :=
  (∀ (s : State) (tag drive : Byte) (d : DriveNo) (r : ReqId),
     s.hears supervisorLine → parseOnlyDrive tag drive = some d →
     s.vol.freeSlotOf supervisorLine = some r → s.vol.tagInUse supervisorLine tag = false → s.vol.mount d = .ready →
     let n := (s.vol.drive d).sched.nextArrival
     let o : Order :=
       { req := r, kind := .recalibrate, cyl := 0, side := 0, first := 0, count := 0, cls := .flash, bypass := 0,
         arrival := n, progress := 0, pass := .read,
         tries := { attempt := 1, badData := false, mispositioned := true, recalBegun := false },
         buffers := [], skip := [], sampled := false, troubled := [] }
     let v := (s.vol.openRequest r (newRequest tag .recal (plainFields d .flash) .running 0 s.vol.stamp)).modSched d
       (fun x => { x with queue := x.queue ++ [o], nextArrival := x.nextArrival + 1 })
     exec (.recal supervisorLine tag drive) s = .next (s.finish (s.bat,
       if (s.vol.drive d).sched.service.isSome then { v with tests := v.tests ++ [(d, n)] } else v)))
  ∧ (∀ (s : State) (tag : Byte), s.hears supervisorLine → tag ≠ 0 →
       exec (.restart supervisorLine tag) s
         = .next (s.finish (s.bat, s.vol.addReply supervisorLine (.single [0x80, tag, 0x00]) true .restart)))
  ∧ (∀ (b : Battery) (v : Vol) (r : ReqId) (d : DriveNo) (kind : OrderKind) (p : OrderPlace) (q : Request),
       v.req r = some q →
       let n := (v.drive d).sched.nextArrival
       let own : ServiceClass :=
         if q.cls = .routine ∧ 1 ≤ q.edition ∧ b.editionState q.edition = .warning then .edition else q.cls
       let o : Order :=
         { req := r, kind := kind, cyl := p.cyl, side := p.side, first := p.first, count := p.count,
           cls := if kind = .recalibrate then .flash
             else if kind = .copyRead ∨ kind = .copyWrite then .background else own,
           bypass := 0, arrival := n, progress := 0,
           pass := if kind = .write ∨ kind = .catalogWrite ∨ kind = .copyWrite then .write else .read,
           tries := { attempt := 1, badData := false, mispositioned := true, recalBegun := false },
           buffers := p.buffers, skip := p.skip, sampled := false, troubled := [] }
       let w := v.modSched d (fun x => { x with queue := x.queue ++ [o], nextArrival := n + 1 })
       v.makeOrder b r d kind p
         = if (v.drive d).sched.service.isSome then { w with tests := w.tests ++ [(d, n)] } else w)

/-- R140, R144: a command that one of its checks refuses is answered with the outcome of the first check that fails, and
changes nothing else. The checks in their order: the body (R141), the line's permission, a free request slot and the
tag, the drive's gate (R79, R10, R99, R178), then the command's own (R19, R28, R30, R34, R41, R44, R113, R116, R119,
R147, R154, R178). -/
def Obligations.RefusedCommandsAreOnlyAnswered : Prop :=
  ∀ (s : State) (k : Line) (tag drive : Byte) (slug : List Byte), s.hears k →
    let v := s.vol
    let refused := fun (c : Instr) (checks : List (Prop × OutcomeCode)) =>
      ∀ oc, firstFailure checks oc → exec c s = .next (s.finish (s.bat, v.answer k tag oc []))
    let desk : Prop × OutcomeCode := (k ≠ supervisorLine, .notPermitted)
    let slots : List (Prop × OutcomeCode) :=
      [(∀ r ∈ lineReqs k, v.req r ≠ none, .noSlot), (∃ r ∈ lineReqs k, ∃ q, v.req r = some q ∧ q.tag = tag, .badTag)]
    let notReady := fun (d : DriveNo) => ((v.mount d ≠ .ready, .notReady) : Prop × OutcomeCode)
    let found := fun (d : DriveNo) (g : List Byte) => (v.mirror d).bind (fun m => m.lookup g)
    let entry := fun (d : DriveNo) (g : List Byte) => (found d g).bind (v.entry d)
    let held := fun (e : Entry) => e.holder ≠ none ∧ e.holder ≠ some k
    let fileGate := fun (d : DriveNo) => ([(v.mount d ≠ .ready, .notReady),
      ((v.drive d).seq.writeProtected = true, .writeProtected), ((v.drive d).cat.fault = true, .catalogFault),
      ((v.drive d).cat.copySource = true, .copyRunning)] : List (Prop × OutcomeCode))
    let rebuildGate := fun (d : DriveNo) => ([
      (v.mount d = .empty ∨ v.mount d = .loading ∨ v.mount d = .faulted, .notReady),
      (v.mount d = .formatting ∨ v.mount d = .receiving, .inUse),
      ((v.drive d).seq.writeProtected = true, .writeProtected)] : List (Prop × OutcomeCode))
    let malformed := fun (c : Instr) => exec c s = .next (s.finish (s.bat, v.answer k tag .malformed []))
    -- FETCH, DRAW, FILE, SPIKE
    (∀ cls edition,
      (parseStory tag drive cls edition slug = none → malformed (.fetch k tag drive cls edition slug)
        ∧ malformed (.draw k tag drive cls edition slug) ∧ malformed (.file k tag drive cls edition slug))
      ∧ ∀ f, parseStory tag drive cls edition slug = some f →
        refused (.fetch k tag drive cls edition slug)
          ([(s.bat.mayRead k f.drive = false, .notPermitted)] ++ slots ++ [notReady f.drive,
            (entry f.drive f.slug = none, .notFound),
            (∃ e, entry f.drive f.slug = some e ∧ e.image.state = .damaged, .catalogFault)])
        ∧ refused (.draw k tag drive cls edition slug)
          ([(s.bat.mayRead k f.drive = false, .notPermitted)] ++ slots ++ [notReady f.drive,
            (entry f.drive f.slug = none, .notFound),
            (∃ e, entry f.drive f.slug = some e ∧ e.image.state = .damaged, .catalogFault),
            (∃ e, entry f.drive f.slug = some e ∧ held e, .held),
            (∃ e r, entry f.drive f.slug = some e ∧ (e.filing = some r ∨ e.spike = some r) ∧ reqLine r ≠ k, .inUse),
            (∃ e, entry f.drive f.slug = some e ∧ e.holder ≠ some k ∧ 8 ≤ v.holdCount k, .noSlot)])
        ∧ refused (.file k tag drive cls edition slug)
          ([(s.bat.mayFile k f.drive = false, .notPermitted)] ++ slots ++ fileGate f.drive ++ [
            (s.bat.editionState f.edition = .closed, .editionClosed),
            (∃ e, entry f.drive f.slug = some e ∧ held e, .held),
            (∃ e, entry f.drive f.slug = some e ∧ (e.filing ≠ none ∨ e.spike ≠ none ∨ e.catWrite ≠ none), .inUse),
            (∃ m, v.mirror f.drive = some m ∧ m.lookup f.slug = none ∧ m.reservedFor f.slug = true, .inUse),
            (∃ m, v.mirror f.drive = some m ∧ m.lookup f.slug = none ∧ m.freeSlot = none, .catalogFull)]))
    ∧ (∀ cls, (parseSpike tag drive cls slug = none → malformed (.spike k tag drive cls slug))
      ∧ ∀ f, parseSpike tag drive cls slug = some f → refused (.spike k tag drive cls slug)
        ([(s.bat.mayFile k f.drive = false, .notPermitted)] ++ slots ++ fileGate f.drive ++ [
          (found f.drive f.slug = none, .notFound), (∃ e, entry f.drive f.slug = some e ∧ held e, .held),
          (∃ e, entry f.drive f.slug = some e ∧ (e.filing ≠ none ∨ e.spike ≠ none ∨ e.catWrite ≠ none), .inUse)]))
    -- TEXT, CLOSE, CANCEL, RELEASE, LIST, DRIVE, STATUS, TIME
    ∧ (∀ bytes, refused (.text k tag bytes) [(tag = 0 ∨ bytes.length = 0 ∨ 256 < bytes.length, .malformed),
        (v.openFiling k tag = none, .badTag)])
    ∧ (∀ keep, refused (.close k tag keep) [(tag = 0 ∨ parseFlag keep = none, .malformed),
        (v.openFiling k tag = none, .badTag)])
    ∧ (∀ target, refused (.cancel k tag target) [(tag = 0, .malformed), (v.tagged k target = none, .badTag)])
    ∧ (parseNamed tag drive slug = none → malformed (.release k tag drive slug) ∧ malformed (.breakHold k tag drive slug))
    ∧ (∀ d g, parseNamed tag drive slug = some (d, g) →
        refused (.release k tag drive slug) [notReady d, ((entry d g).bind Entry.holder ≠ some k, .notFound)]
        ∧ refused (.breakHold k tag drive slug) [desk, notReady d, ((entry d g).bind Entry.holder = none, .notFound)])
    ∧ (∀ count, (parseList tag drive count slug = none → malformed (.list k tag drive count slug))
      ∧ ∀ d g, parseList tag drive count slug = some (d, g) →
        refused (.list k tag drive count slug) [(s.bat.mayRead k d = false, .notPermitted), notReady d])
    ∧ (parseOnlyDrive tag drive = none → malformed (.drive k tag drive) ∧ malformed (.recal k tag drive))
    ∧ (∀ d, parseOnlyDrive tag drive = some d → refused (.drive k tag drive) [(s.bat.mayRead k d = false, .notPermitted)])
    ∧ (tag = 0 → malformed (.status k tag) ∧ malformed (.time k tag))
    -- FORMAT, COPY, RECAL
    ∧ ((parseFormat tag drive slug = none → malformed (.format k tag drive slug))
      ∧ ∀ d g, parseFormat tag drive slug = some (d, g) → refused (.format k tag drive slug)
        ([desk] ++ slots ++ rebuildGate d ++ [(v.inUse d = true, .inUse)]))
    ∧ (∀ dest, (parseCopy tag drive dest = none → malformed (.copy k tag drive dest))
      ∧ ∀ a d, parseCopy tag drive dest = some (a, d) → refused (.copy k tag drive dest)
        ([desk] ++ slots ++ [notReady a] ++ rebuildGate d ++ [(v.sourceInUse a = true ∨ v.inUse d = true, .inUse),
          (v.destinationBad a d = true, .destinationBad)]))
    ∧ (∀ d, parseOnlyDrive tag drive = some d → refused (.recal k tag drive)
        ([desk] ++ slots ++ [(v.mount d = .formatting ∨ v.mount d = .receiving, .inUse), notReady d]))
    -- the configuration, the clock and RESTART
    ∧ (∀ item value, (parseItem item = none ∨ parseItem item = some .trim) → malformed (.set k tag item value))
    ∧ (∀ item i value, parseItem item = some i → i ≠ .trim → refused (.set k tag item value) [(tag = 0, .malformed), desk])
    ∧ (∀ item, parseItem item = none → malformed (.get k tag item))
    ∧ (∀ item i, parseItem item = some i → refused (.get k tag item) [(tag = 0, .malformed), desk])
    ∧ (∀ yy mm dd hh mi ss, s.bat.clock.ofBytes yy mm dd hh mi ss = none →
        malformed (.settime k tag yy mm dd hh mi ss))
    ∧ (∀ yy mm dd hh mi ss c, s.bat.clock.ofBytes yy mm dd hh mi ss = some c →
        refused (.settime k tag yy mm dd hh mi ss) [(tag = 0, .malformed), desk])
    ∧ (∀ value, refused (.trim k tag value) [(tag = 0, .malformed), desk])
    ∧ refused (.round k tag) [(tag = 0, .malformed), desk]
    ∧ (∀ n en oh om ch cm l, parseEditionCommand n en oh om ch cm l = none →
        malformed (.edition k tag n en oh om ch cm l))
    ∧ (∀ n en oh om ch cm l x, parseEditionCommand n en oh om ch cm l = some x →
        refused (.edition k tag n en oh om ch cm l) [(tag = 0, .malformed), desk])
    ∧ refused (.restart k tag) [(tag = 0, .malformed), desk]

/-! ## What each command does: the lines -/

/-- R127: the receive assembler, byte by byte; on a line whose break detector is idle, what comes on another being
BreaksSilenceAndMark's matter; a frame's last byte is FrameCompleteActsAsItsCommand's matter and
FaultedFramesAreAnsweredFrameFault's. The model's own: which timer runs is kept, not its time (log 3). -/
def Obligations.CharactersBuildAFrame : Prop :=
  ∀ (s : State) (k : Line) (x : Byte), s.vol.live = true → (s.vol.port k).detector = .idle →
    let goes := fun (a : Assembler) (gap silence : Bool) =>
      exec (.characterReceived k x) s = .next (s.finish (s.bat, s.vol.modPort k (fun p =>
        { p with assembler := a, gapTimer := gap, silenceTimer := silence })))
    ((s.vol.port k).assembler = .hunt → x = 0xE7 → goes (.lengthField none) true false)
    ∧ ((s.vol.port k).assembler = .hunt → x ≠ 0xE7 →
        exec (.characterReceived k x) s = .next (s.finish (s.bat, s.vol)))
    ∧ ((s.vol.port k).assembler = .lengthField none → goes (.lengthField (some x)) true false)
    ∧ (∀ high, (s.vol.port k).assembler = .lengthField (some high) →
        2 ≤ high.toNat * 256 + x.toNat → high.toNat * 256 + x.toNat ≤ 260 → goes (.body high x []) true false)
    ∧ (∀ high low kept, (s.vol.port k).assembler = .body high low kept →
        (kept.length + 1 < high.toNat * 256 + low.toNat → goes (.body high low (kept ++ [x])) true false)
        ∧ (high.toNat * 256 + low.toNat ≤ kept.length + 1 → goes (.check high low (kept ++ [x]) none) true false))
    ∧ (∀ high low kept, (s.vol.port k).assembler = .check high low kept none →
        goes (.check high low kept (some x)) true false)
    ∧ ((s.vol.port k).assembler = .discard → goes .discard false true)

/-- R127, R139, R188: a frame complete with a good check is its command: FRAME_COMPLETE with the body of command i acts
as i does on a port whose assembler has gone back to HUNT, where the line's frames are taken; a body that is no command
of R139 is answered MALFORMED on its tag byte. -/
def Obligations.FrameCompleteActsAsItsCommand : Prop :=
  ∀ (s : State) (k : Line) (high low first second : Byte) (kept : List Byte),
    s.vol.live = true → (s.vol.port k).detector = .idle →
    (s.vol.port k).assembler = .check high low kept (some first) →
    checkBytes (crc ([high, low] ++ kept)) = [first, second] →
    let v := s.vol.modPort k (fun p => { p with assembler := .hunt, gapTimer := false, silenceTimer := false })
    v.passes s.bat k = true →
    (∀ i, Instr.ofBody k kept = some i → exec (.frameComplete k second) s = exec i { s with vol := v })
    ∧ (Instr.ofBody k kept = none → exec (.frameComplete k second) s
        = .next (s.finish (s.bat, v.answer k (byteAt kept 1) .malformed [])))

/-- R128, R129, R130, R133: a faulted frame is dropped: after a bad length or a framing fault within a frame the
assembler goes to DISCARD and times the silence, after a bad check or the frame-gap limit to HUNT, and an ANSWER FRAME
FAULT with tag 0 is made where the line is enabled and holds fewer than 16 waiting direct answers. The model's own:
which timer runs is kept, not its time (log 3). -/
def Obligations.FaultedFramesAreAnsweredFrameFault : Prop :=
  ∀ (s : State) (k : Line), s.vol.live = true →
    let answered := fun (a : Assembler) (silence : Bool) =>
      let v := s.vol.modPort k (fun p => { p with assembler := a, gapTimer := false, silenceTimer := silence })
      Host.Outcome.next (φ := Fault) (ρ := Refusal) (s.finish (s.bat,
        if s.bat.lineEnabled k = true ∧ s.vol.directCount k < 16 then v.answer k 0 .frameFault [] else v))
    ((s.vol.port k).detector = .idle →
      (∀ high low, (s.vol.port k).assembler = .lengthField (some high) →
        (high.toNat * 256 + low.toNat < 2 ∨ 260 < high.toNat * 256 + low.toNat) →
        exec (.frameFault k (.badLength low)) s = answered .discard true)
      ∧ (∀ high low kept first second, (s.vol.port k).assembler = .check high low kept (some first) →
        checkBytes (crc ([high, low] ++ kept)) ≠ [first, second] →
        exec (.frameFault k (.badCheck second)) s = answered .hunt false)
      ∧ ((s.vol.port k).assembler ≠ .hunt → (s.vol.port k).assembler ≠ .discard →
        exec (.frameFault k .framingFault) s = answered .discard true))
    ∧ ((s.vol.port k).gapTimer = true → exec (.frameGapExpiry k) s = answered .hunt false)

/-- R29, R121, R131: a break of 100 ms resets the line, once: the assembler goes to HUNT and takes nothing until the
line returns to mark, the store and the reply list are emptied, the record holds READY alone, the line's holds are
dropped without notice, a rate change whose answer is discarded is made and a RESTART's reset is not (R156, R176), and
the line's requests are ended or run on without replies. R121: of these requests an answered one's slot is freed at
once; one in ENDING, COMMITTING, WRITING or a label unit runs on silent; a FORMAT, and a COPY outside TRACKS, are in
ENDING, silent; any other ends as a CANCEL would end it, silent: at once with its slot freed, or in ENDING until its
order's boundary (R73). R131: till the line returns to mark a character, a frame's last byte or a fault on it has no
effect of its own. R129, R131: silence in DISCARD ends in HUNT; a line's return to mark makes its break detector idle.
The model's own: the detector is first seen timing at the LINE_BREAK itself (log 3). -/
def Obligations.BreaksSilenceAndMark : Prop :=
  (∀ (s : State) (k : Line), s.vol.live = true →
     ((s.vol.port k).detector = .timing → exec (.lineBreak k) s = .next (s.finish (s.bat, s.vol)))
     ∧ ((s.vol.port k).detector = .idle →
       let emptied := s.vol.modPort k (fun p =>
         { p with assembler := .hunt, gapTimer := false, silenceTimer := false, detector := .timing, replies := [],
                  store := [], notice := { ready := true, settingsLost := false, warning := 0, closed := 0,
                                           holdLost := 0, driveChange := 0 } })
       let marks := (s.vol.port k).store.map Frame.mark ++ (s.vol.port k).replies.map Waiting.mark
       let v := marks.foldl (Vol.discardMark s.bat) (emptied.dropLine k)
       (∀ d slot, (emptied.dropLine k).entry d slot = (s.vol.entry d slot).map (fun e =>
         if e.holder = some k then { e with holder := none } else e))
       ∧ exec (.lineBreak k) s = .next (s.finish (s.bat,
           (lineReqs k).foldl (fun w r => w.lineResetRequest s.bat r) v))))
  ∧ (∀ (b : Battery) (v : Vol), v.discardMark b .plain = v ∧ v.discardMark b .restart = v
       ∧ ∀ j, v.discardMark b (.rate j) = v.modPort j (fun p =>
           if p.rate = b.rate j then p
           else if p.assembler = .hunt then { p with rate := b.rate j }
           else { p with rate := b.rate j, assembler := .discard, gapTimer := false, silenceTimer := true }))
  ∧ (∀ (b : Battery) (v : Vol) (r : ReqId) (q : Request), v.req r = some q →
       let w := v.modReq r (fun q => { q with replies := [], silent := true })
       let runsOn := q.stage = .ending ∨ q.stage = .committing ∨ q.stage = .writing
         ∨ (q.kind = .format ∧ ∃ u, (v.drive q.drive).seq.job = .unit u ∧ u.kind = .label)
         ∨ (q.kind = .copy ∧ q.stage = .label)
       let p := w.takeOut r q.drive q.dest
       let ending := fun (v : Vol) => v.modReq r (fun q => { q with stage := .ending, outcome := some .cancelled })
       (q.stage = .answered → v.lineResetRequest b r = v.setReq r none)
       ∧ (q.stage ≠ .answered → runsOn → v.lineResetRequest b r = w)
       ∧ (q.stage ≠ .answered → ¬ runsOn → (q.kind = .format ∨ (q.kind = .copy ∧ q.stage ≠ .tracks)) →
         v.lineResetRequest b r = ending w)
       ∧ (q.stage ≠ .answered → ¬ runsOn → q.kind = .copy → q.stage = .tracks →
         v.lineResetRequest b r = if p.2 then p.1.copyEnd b r .cancelled true else ending p.1)
       ∧ (q.stage ≠ .answered → ¬ runsOn → q.kind ≠ .format → q.kind ≠ .copy →
         v.lineResetRequest b r = if p.2 then (p.1.letGo r .cancelled).setReq r none else ending p.1))
  ∧ (∀ (s : State) (k : Line), s.vol.live = true →
       ((s.vol.port k).silenceTimer = true → exec (.silenceTimerExpiry k) s
         = .next (s.finish (s.bat, s.vol.modPort k (fun p =>
           { p with assembler := .hunt, gapTimer := false, silenceTimer := false }))))
       ∧ exec (.lineReturnToMark k) s
         = .next (s.finish (s.bat, s.vol.modPort k (fun p => { p with detector := .idle }))))
  ∧ (∀ (s : State) (k : Line), (s.vol.port k).detector = .timing → s.vol.live = true →
       (∀ x, exec (.characterReceived k x) s = .next (s.finish (s.bat, s.vol)))
       ∧ (∀ x, exec (.frameComplete k x) s = .next (s.finish (s.bat, s.vol)))
       ∧ ∀ cause, exec (.frameFault k cause) s = .next (s.finish (s.bat, s.vol)))

/-- R132, R134, R156, R176: the frame sent leaves the store; the last byte of a RESTART's answer brings the general
reset with the silent recomputation of the editions, and that of a rate's SET the new rate on its line. -/
def Obligations.SentFramesLeaveTheStore : Prop :=
  ∀ (s : State) (k : Line) (f : Frame) (rest : List Frame), s.vol.live = true → (s.vol.port k).store = f :: rest →
    let v := s.vol.modPort k (fun p => { p with store := rest })
    (f.mark = .plain → exec (.frameSent k) s = .next (s.finish (s.bat, v)))
    ∧ (f.mark = .restart → exec (.frameSent k) s = .next (s.finish (s.bat.recomputeAll, v.resetBlocks s.bat)))
    ∧ (∀ j, f.mark = .rate j → exec (.frameSent k) s = .next (s.finish (s.bat, v.modPort j (fun p =>
        if p.rate = s.bat.rate j then p
        else if p.assembler = .hunt then { p with rate := s.bat.rate j }
        else { p with rate := s.bat.rate j, assembler := .discard, gapTimer := false, silenceTimer := true }))))

/-- R133, R134, R135: an answer made with nothing waiting and room in the store is placed at once. In a machine that
runs, has no order in service and no other follow-on work, a command whose own effect is to add one reply to a line's
list ends with that reply as the newest frame of the line's store, carrying its mark, and nothing else changed but the
counter that orders moments; TIME, for one. R135, R138: with six frames in the store nothing is placed; with room and no
reply waiting, a NOTICE frame is placed when any part of the record is set, with tag 0 and the whole record, which is
then clear. R133: of the first replies of a line's two kinds of place, its reply list and its requests' waiting replies,
the oldest, by the moment it was made, is placed first. R101, R102, R135: a reply placed leaves its place, and a final
one frees its request's slot. R43, R188: a LIST item with records left yields a LISTING frame of up to 9 of them, with
their number, and stays in its place with the rest and the moment of its making; with none left it yields its ANSWER
DONE with the count, and is gone. R108, R136: the fetch text is taken from has text ready, and no other of the line with
text ready was admitted before it. R109, R110: its next TEXT frame carries up to 256 bytes from its oldest buffer,
within the version's length; the frame with a buffer's last story byte returns the buffer, and the one with the
version's last byte ends the fetch DONE with the length, revision and timestamp it took. The model's own: the order of
the work inside a command (log 5). -/
def Obligations.RepliesNoticesAndTextArePlaced : Prop :=
  (∀ (s : State) (b : Battery) (v : Vol) (k : Line) (body : List Byte) (direct : Bool) (mark : Mark),
     v.live = true → v.followOn b = none → (∀ d, (v.drive d).sched.service = none) → (v.port k).store.length < 6 →
     s.finish (b, v.addReply k (.single body) direct mark) = { s with bat := b, vol :=
       { v.modPort k (fun p => { p with store := p.store ++ [{ body := body, mark := mark }] }) with
         stamp := v.stamp + 1 } })
  ∧ (∀ (s : State) (k : Line) (tag : Byte), s.hears k → tag ≠ 0 → s.vol.followOn s.bat = none →
      (∀ d, (s.vol.drive d).sched.service = none) → (s.vol.port k).store.length < 6 →
      exec (.time k tag) s = .next { s with vol :=
        { s.vol.modPort k (fun p => { p with store := p.store ++
            [{ body := [0x80, tag, 0x00] ++ s.bat.clock.fields ++ [if s.bat.clock.valid then 1 else 0],
               mark := .plain }] }) with stamp := s.vol.stamp + 1 } })
  ∧ (∀ (v : Vol) (k : Line),
       let n := (v.port k).notice
       let clear : Notice := { ready := false, settingsLost := false, warning := 0, closed := 0, holdLost := 0,
                               driveChange := 0 }
       let flags : Byte := (if n.ready then 1 else 0) + (if n.settingsLost then 2 else 0)
       (6 ≤ (v.port k).store.length → v.placeFirst k = none)
       ∧ ((v.port k).store.length < 6 → (v.port k).replies = [] → (∀ r q, reqLine r = k → v.req r = some q → q.replies = []) →
         (n = clear → v.placeFirst k = none)
         ∧ (n ≠ clear → v.placeFirst k = some (v.modPort k (fun p => { p with
             store := p.store ++ [{ body := [0x83, 0, flags, n.warning, n.closed, n.holdLost, n.driveChange], mark := .plain }],
             notice := clear })))))
  ∧ (∀ (v : Vol) (k : Line),
       let waits := fun (w : Waiting) (src : Option ReqId) => match src with
         | none => (v.port k).replies.head? = some w
         | some r => reqLine r = k ∧ ∃ q, v.req r = some q ∧ q.replies.head? = some w
       (v.oldestReply k = none ↔ ∀ w src, ¬ waits w src)
       ∧ ∀ w src, v.oldestReply k = some (w, src) →
         waits w src ∧ ∀ w' src', waits w' src' → w.made ≤ w'.made)
  ∧ (∀ (v : Vol) (k : Line) (w : Waiting) (src : Option ReqId),
       (v.port k).store.length < 6 → v.oldestReply k = some (w, src) →
       let gone := v.modPort k (fun p => { p with replies := p.replies.tail })
       let sends := fun (u : Vol) (body : List Byte) (mark : Mark) =>
         u.modPort k (fun p => { p with store := p.store ++ [{ body := body, mark := mark }] })
       (∀ body, w.body = .single body →
         (src = none → v.placeFirst k = some (sends gone body w.mark))
         ∧ ∀ r, src = some r →
           (w.final = true → v.placeFirst k = some ((sends v body w.mark).setReq r none))
           ∧ (w.final = false → v.placeFirst k
             = some ((sends v body w.mark).modReq r (fun q => { q with replies := q.replies.tail }))))
       ∧ ∀ tag records total, w.body = .listing tag records total → src = none →
         (records = [] → v.placeFirst k = some (sends gone [0x80, tag, 0x00, BitVec.ofNat 8 total] w.mark))
         ∧ (records ≠ [] → v.placeFirst k = some (sends
             (v.modPort k (fun p =>
               { p with replies := { w with body := .listing tag (records.drop 9) total } :: p.replies.tail }))
             ([0x82, tag, BitVec.ofNat 8 (min 9 records.length)] ++ (records.take 9).flatten) .plain)))
  ∧ (∀ (v : Vol) (k : Line),
       let textReady := fun (q : Request) =>
         (q.kind = .fetch ∨ q.kind = .draw) ∧ (q.stage = .reading ∨ q.stage = .delivering) ∧ 0 < q.filled
       (v.textSource k = none → ∀ r q, reqLine r = k → v.req r = some q → ¬ textReady q)
       ∧ ∀ r, v.textSource k = some r → reqLine r = k ∧ ∃ q, v.req r = some q ∧ textReady q
           ∧ ∀ r' q', reqLine r' = k → v.req r' = some q' → textReady q' → q.admitted ≤ q'.admitted)
  ∧ (∀ (v : Vol) (k : Line) (r : ReqId) (q : Request) (x : BufNo) (rest : List BufNo),
       v.req r = some q → q.chain = x :: rest →
       let start := q.delivered % 1024
       let count := min 256 (min (1024 - start) (q.info.length - q.delivered))
       let upTo := q.delivered + count
       let placed := (v.modPort k (fun p => { p with store := p.store ++
         [{ body := [0x81, q.tag] ++ ((v.buf x).data.drop start).take count, mark := .plain }] })).modReq r (fun p =>
           { p with delivered := upTo })
       let after := if upTo % 1024 = 0 ∨ q.info.length ≤ upTo then
           (placed.setBuf x { v.buf x with owner := none }).modReq r (fun p =>
             { p with chain := rest, filled := p.filled - 1 })
         else placed
       v.placeText k r = if q.info.length ≤ upTo then
           after.finish r .done (be16 q.info.length ++ be16 q.info.revision ++ q.info.timestamp) false
         else after)

/-! ## What each command does: power and RESET -/

/-- R170: a power-on with the battery good is a general reset: every block in its reset state, the editions
recomputed; one that is a battery loss sets the battery domain too, and SETTINGS LOST on the supervisor line. A main
power loss and a RESET hold put the blocks in the state of a general reset (log 27), and a RESET release completes it,
with the editions recomputed where there is power (R168, R171). R76, R77, R104, R125: what a general reset leaves:
every port at its stored rate with READY alone in its record and nothing waiting, every drive but its cable as after a
reset, no request, no buffer owned, no retired record. R16, R123: on each diskette the sector whose data field was being
written is left with a bad data check and its header as it was, one being formatted torn, and nothing else is changed. The
model's own: a main power loss puts the blocks in their reset state (log 27), how a diskette stands in State (log 8), what a
torn sector may hold (log 10), and that a release leaves the notice records as they stand, a SETTINGS LOST set during the
hold included (log 47). -/
def Obligations.PowerAndResetEventsResetTheBlocks : Prop :=
  (∀ s : State,
     (s.vol.power = false →
       exec (.powerOn true) s = .next (s.finish (s.bat.recomputeAll, ({ s.vol with power := true } : Vol).resetBlocks s.bat))
       ∧ exec (.powerOn false) s = .next (s.finish (Battery.default,
           (({ s.vol with power := true } : Vol).resetBlocks Battery.default).modPort supervisorLine (fun p =>
             { p with notice := { p.notice with settingsLost := true } }))))
     ∧ (s.vol.power = true →
       exec .mainPowerLoss s = .next (s.finish (s.bat, ({ s.vol with power := false } : Vol).resetBlocks s.bat)))
     ∧ (s.vol.resetHeld = false →
       exec .resetHold s = .next (s.finish (s.bat, ({ s.vol with resetHeld := true } : Vol).resetBlocks s.bat)))
     ∧ (s.vol.resetHeld = true →
       exec .resetRelease s = .next (s.finish (if s.vol.power then s.bat.recomputeAll else s.bat,
         { s.vol with resetHeld := false }))))
  ∧ (∀ (b : Battery) (v : Vol),
       let w := v.resetBlocks b
       w.power = v.power ∧ w.resetHeld = v.resetHeld ∧ w.tests = []
       ∧ (∀ k, w.port k = { assembler := .hunt, gapTimer := false, silenceTimer := false, detector := .idle,
                            rate := b.rate k, replies := [], store := [],
                            notice := { ready := true, settingsLost := false, warning := 0, closed := 0, holdLost := 0,
                                        driveChange := 0 } })
       ∧ (∀ d, (w.drive d).seq = { mount := .empty, writeProtected := false, doorClosed := false, cyl := none,
                                   head := .unloaded, unload := none, angle := 999, retries := 0, stall := false,
                                   side := 0, recal := none, step := none, settle := none, settleOwed := false,
                                   job := .none, phase := .idle, idleDue := false }
           ∧ (w.drive d).sched = { queue := [], service := none, stack := [], cursor := none, pending := false,
                                   nextArrival := 0 }
           ∧ (w.drive d).cat = { mirror := none, fault := false, copySource := false }
           ∧ (w.drive d).cable.doorClosed = (v.drive d).cable.doorClosed
           ∧ (w.drive d).cable.protect = (v.drive d).cable.protect
           ∧ (w.drive d).cable.track0 = (v.drive d).cable.track0
           ∧ (v.drive d).cutOff (w.drive d).cable.disk)
       ∧ (∀ r, w.req r = none) ∧ (∀ x, (w.buf x).owner = none) ∧ (∀ k, w.record k = .free))

/-! ## What each command does: the drives -/

/-- R2, R90, R91: an index pulse sets the angle counter to 0, and counts for a running unload count and a search; an
unload count at its setting unloads the head and stops. R2, R12, R82: an angle unit raises the counter, which holds at
999, and brings the write-protect line's reading; a track-side unit that waits for its first header's angle starts
there, and waits on at any other; in its write pass the next sector's write begins where the counter stands at that
sector's header angle, and waits till then; no other unit looks at the angle. Where the blocks do not run, the reading
alone. R90: of the drives in READY, UNFORMATTED or RECEIVING that have gone idle, with no selection to make, one has its
unload count started at 0 where its head is loaded and its setting is not 0, and stopped else. The model's own: the
write-protect line's reading comes with the angle unit (log 7), a track side starts at the angle's own sector (log 22),
and a drive whose count is to start is noted by idleDue, its start waiting for a head load in progress (log 21). -/
def Obligations.IndexPulsesAndAngleUnitsCount : Prop :=
  (∀ (s : State) (d : DriveNo), s.vol.live = true →
     let setting := (s.bat.settings.drives[d]).unload
     exec (.indexPulse d) s = .next (s.finish (s.bat, s.vol.modSeq d (fun q =>
       { q with angle := 0, unload := q.unload.map (fun n => min setting (n + 1)),
                phase := match q.phase with
                  | .searching n right wrong => .searching (min 2 (n + 1)) right wrong
                  | p => p })))
     ∧ (∀ n, (s.vol.drive d).seq.unload = some n → setting ≠ 0 → setting ≤ n →
       exec (.headUnload d) s = .next (s.finish (s.bat, s.vol.modSeq d (fun q =>
         { q with head := .unloaded, unload := none })))))
  ∧ (∀ (s : State) (d : DriveNo) (protect : Bool),
       let v := s.vol.modCable d (fun c => { c with protect := protect })
       let w := v.modSeq d (fun q => { q with angle := min 999 (q.angle + 1) })
       (s.vol.live = false → exec (.angleUnitTick d protect) s = .next (s.finish (s.bat, v)))
       ∧ (s.vol.live = true → (s.vol.drive d).seq.phase ≠ .waitAngle → (s.vol.drive d).seq.phase ≠ .unitPass false false →
         exec (.angleUnitTick d protect) s = .next (s.finish (s.bat, w)))
       ∧ (s.vol.live = true → ∀ u, (s.vol.drive d).seq.job = .unit u →
         let comes := fun (n : Nat) => n < 8 ∧ (s.vol.drive d).seq.angle + 1 = 125 * n + 8
         ((s.vol.drive d).seq.phase = .waitAngle →
           (∀ n, comes n → exec (.angleUnitTick d protect) s = .next (s.finish (s.bat, w.modSeq d (fun q =>
             { q with phase := .unitPass false true,
                      job := .unit { u with sectors := (List.range 8).map (fun i => (n + i) % 8),
                                            todo := (List.range 8).map (fun i => (n + i) % 8) } }))))
           ∧ ((∀ n, ¬ comes n) → exec (.angleUnitTick d protect) s = .next (s.finish (s.bat, w))))
         ∧ ((s.vol.drive d).seq.phase = .unitPass false false →
           let begins := ∃ i n rest, u.kind = .track i ∧ u.todo = n :: rest ∧ comes n
           (begins → exec (.angleUnitTick d protect) s = .next (s.finish (s.bat, w.modSeq d (fun q =>
             { q with phase := .unitPass false true }))))
           ∧ (¬ begins → exec (.angleUnitTick d protect) s = .next (s.finish (s.bat, w))))))
  ∧ (∀ (b : Battery) (v : Vol),
       let idles := fun (d : DriveNo) => let q := (v.drive d).seq
         q.idleDue = true ∧ q.job = .none ∧ (v.drive d).sched.service = none ∧ v.selectable d = false
         ∧ (q.mount = .ready ∨ q.mount = .unformatted ∨ q.mount = .receiving) ∧ (q.head = .loaded ∨ q.head = .unloaded)
       (v.idleNext b = none ↔ ∀ d, ¬ idles d)
       ∧ ∀ w, v.idleNext b = some w → ∃ d, idles d ∧ w = v.modSeq d (fun q =>
         { q with idleDue := false,
                  unload := if q.head = .loaded ∧ (b.settings.drives[d]).unload ≠ 0 then some 0 else none }))

/-- R75, R81, R97: an index stall while the watch runs, and a door opening, discard the drive's work; the drive goes to
FAULTED or EMPTY, and its requests end DRIVE FAULT or DISKETTE REMOVED. R17, R45, R75, R81, R97: after a discard the
drive is in its new mount state with its head unloaded and its cylinder unknown, its queue and stack are empty, no order
is in service and no preemption pending, it has no mirror and no catalog fault, no retired record is its own, and DRIVE
CHANGE for it is in every line's record. R2: its angle counter stands at 999. R53: no copy cursor stands under its
stack. R29: HOLD LOST for it joins the record of each line that held one of its entries, and no other's. R40, R75, R122:
the requests on it end with the discard's outcome, those in DELIVERING and the answered ones excepted, and those on
other drives are left; a COPY ends so too where an order or the unit of its own stood on the drive (R185). R16, R81,
R97: the sector whose data field the drive was writing is left with a bad data check and its header as it was, one being
formatted torn; nothing else on its diskette is changed, and nothing on another. R185: a COPY that names the drive, its
work elsewhere: its order is taken out and it ends, or it is in ENDING till that order ends, as it is already when it is
in ENDING; its catalog unit stops at the end of the sector in hand, or, between two, the COPY ends; its invalidation or
label unit runs on, the COPY in ENDING. The model's own: what of that R185 leaves open (log 17), the outcome a COPY in
ENDING keeps (log 39), the order in which the requests end (log 38), how a diskette stands in State (log 8), and what a
torn sector may hold (log 10). -/
def Obligations.StallsAndDoorOpeningsDiscardTheWork : Prop :=
  (∀ (s : State) (d : DriveNo), s.vol.live = true →
     ((s.vol.drive d).seq.stall = true →
       exec (.indexStall d) s = .next (s.finish (s.bat, s.vol.discard s.bat d .faulted .driveFault)))
     ∧ ((s.vol.drive d).seq.doorClosed = true → (s.vol.drive d).cable.doorClosed = false →
       exec (.doorOpening d) s = .next (s.finish (s.bat, s.vol.discard s.bat d .empty .disketteRemoved))))
  ∧ (∀ (b : Battery) (d : DriveNo) (m : MountState) (oc : OutcomeCode) (v : Vol), m = .empty ∨ m = .faulted →
       let w := v.discard b d m oc
       (w.drive d).seq.mount = m ∧ (w.drive d).seq.head = .unloaded ∧ (w.drive d).seq.cyl = none
       ∧ (w.drive d).seq.job = .none ∧ (w.drive d).seq.unload = none ∧ (w.drive d).seq.stall = false
       ∧ (w.drive d).seq.writeProtected = false ∧ (w.drive d).seq.retries = (v.drive d).seq.retries
       ∧ (w.drive d).sched.queue = [] ∧ (w.drive d).sched.service = none ∧ (w.drive d).sched.stack = []
       ∧ (w.drive d).sched.pending = false ∧ w.mirror d = none ∧ (w.drive d).cat.fault = false
       ∧ (∀ k, (w.record k).onDrive d = false)
       ∧ (∀ k, (w.port k).notice.driveChange.getLsbD d.val = true)
       ∧ (w.drive d).seq.angle = 999 ∧ (w.drive d).sched.cursor = none
       ∧ (v.drive d).cutOff (w.drive d).cable.disk
       ∧ (∀ e, e ≠ d → (w.drive e).cable = (v.drive e).cable)
       ∧ (∀ k, (w.port k).notice.holdLost
           = (v.port k).notice.holdLost ||| (if v.holdsOn k d then 1#8 <<< d.val else 0#8))
       ∧ ∀ r q, v.req r = some q →
         let ended := if q.silent then w.req r = none else ∃ q', w.req r = some q' ∧ q'.stage = .answered
           ∧ q'.outcome = some oc ∧ q'.tag = q.tag
           ∧ q'.replies.map Waiting.body = q.replies.map Waiting.body ++ [.single (answerBody q.tag oc [])]
         (q.stage = .answered → w.req r = some q)
         ∧ (q.stage = .delivering → w.req r = some (if q.drive = d then { q with onEntry := false } else q))
         ∧ (q.stage ≠ .answered → q.stage ≠ .delivering → q.kind ≠ .copy → q.drive = d → ended)
         ∧ (q.stage ≠ .answered → q.stage ≠ .delivering → q.kind ≠ .copy → q.drive ≠ d → w.req r = some q)
         ∧ (q.stage ≠ .answered → q.stage ≠ .delivering → q.kind = .copy → q.copyNames d = true →
             ((v.drive d).sched.hasOrder r = true ∨ ((v.drive d).seq.unitOf r).isSome = true) → ended))
  ∧ (∀ (b : Battery) (d : DriveNo) (m : MountState) (oc : OutcomeCode) (v : Vol),
       ∃ u : Vol, u.reqs = v.reqs ∧ (∀ e, e ≠ d → u.drive e = v.drive e) ∧ (u.drive d).seq.job = .none
         ∧ (u.drive d).sched = { (v.drive d).sched with
             queue := [], service := none, stack := [], cursor := none, pending := false }
         ∧ v.discard b d m oc
           = ((List.finRange 18).foldl (fun w r => w.discardRequest b d (v.drive d) oc r) u).driveChange d)
  ∧ (∀ (b : Battery) (d : DriveNo) (x : Drive) (oc : OutcomeCode) (v : Vol) (r : ReqId) (q : Request),
       v.req r = some q → q.kind = .copy → q.stage ≠ .answered → q.stage ≠ .delivering →
       let names := q.dest = d ∨ q.drive = d ∧ ∃ c, q.copy = some c ∧ c.holdsSource = true
       let held := x.sched.hasOrder r = true ∨ ∃ u, x.seq.job = .unit u ∧ u.req = r
       let w := v.modReq r (fun p =>
         if p.dest = d then { p with copy := p.copy.map (fun c => { c with holdsDest := false }) } else p)
       let ending := fun (v : Vol) => v.modReq r (fun p => { p with stage := .ending, outcome := some oc })
       let lingers := if q.stage = .ending then w else ending w
       let becomes := fun (t : Vol) => v.discardRequest b d x oc r = t
       (¬ names → becomes v)
       ∧ (names → held → becomes (w.copyEnd b r oc false))
       ∧ (names → ¬ held → ∀ u, (v.drive q.dest).seq.job = .unit u → u.req = r →
         let stopped := lingers.modReq r (fun p => { p with copy := p.copy.map (fun c => { c with stop := true }) })
         let midSector := ∃ verify, (v.drive q.dest).seq.phase = .unitPass verify true
         ((∀ half, u.kind ≠ .catalog half) → becomes lingers)
         ∧ (∀ half, u.kind = .catalog half →
           (midSector → becomes stopped)
           ∧ (¬ midSector →
             becomes (stopped.copyEnd b r (if q.stage = .ending then q.outcome.getD .cancelled else oc) false))))
       ∧ (names → ¬ held → (∀ u, (v.drive q.dest).seq.job = .unit u → u.req ≠ r) →
         let p := w.takeOut r q.drive q.dest
         (q.stage = .ending → becomes w)
         ∧ (q.stage ≠ .ending → becomes (if p.2 then p.1.copyEnd b r oc false else ending p.1))))

/-- R80, R82, R83: the door's raw reading changes, with the diskette put in; a door qualified closed on an EMPTY drive
starts LOADING: the retry count at 0, the stall watch running, the write-protect line sampled, the cylinder unknown;
LOADING is started so wherever it is. R20, R83, R84, R92, R94: in LOADING a label read good and valid, and each catalog
sector read good or exhausted, is followed by the next sector's first attempt, the fifteenth by READY with the mirror
built; an exhausted or invalid label ends it UNFORMATTED with no mirror. A sector that needed more than one attempt
counts one retry; a catalog sector exhausted after four sets the catalog fault condition then. At the end the condition
is set where a slot of the mirror is absent or DAMAGED (R45), and DRIVE CHANGE is set on every line (R78). An attempt
short of the fourth is followed by the next, the third after a recalibration. R18, R20 to R22: the mirror built has a
slot for each of the 16 of every sector, absent where the sector could not be read. A slot whose state byte reads FREE
is a FREE entry; one that reads FILED and passes every test of R21 against the bad list and the FILED entries of the
slots before it is FILED; every other is DAMAGED, with its fields as read and its extents up to their count, or all 12.
No entry has a holder, a filing, a reader, a reservation, a catalog write or a spike. The bad set is the label's list;
the withheld set is the sectors of the in-range extents of DAMAGED entries that are neither bad nor claimed by a FILED
entry; the suspect set is empty; the free set is every data sector left. The model's own: the door's reading and the
diskette come with DOOR_LINE_CHANGE (log 7), and the unload count's start is noted by idleDue (log 21). -/
def Obligations.DoorsAndLoading : Prop :=
  (∀ (s : State) (d : DriveNo) (closed : Bool),
    ((s.vol.drive d).cable.doorClosed ≠ closed →
      exec (.doorLineChange d closed none) s = .next (s.finish (s.bat, s.vol.modCable d (fun c =>
        { c with doorClosed := closed })))
      ∧ ∀ m, exec (.doorLineChange d closed (some m)) s = .next (s.finish (s.bat, s.vol.modCable d (fun c =>
        { c with doorClosed := closed, disk := m, protect := m.notch }))))
    ∧ (s.vol.live = true → (s.vol.drive d).seq.doorClosed = false → (s.vol.drive d).cable.doorClosed = true →
      (s.vol.drive d).seq.mount = .empty →
      exec (.doorClosing d) s = .next (s.finish (s.bat, (s.vol.modSeq d (fun q =>
        { q with doorClosed := true, mount := .loading, retries := 0, writeProtected := (s.vol.drive d).cable.protect,
                 stall := true, cyl := none, recal := none, unload := none, idleDue := true,
                 phase := .positioning,
                 job := .loading { sector := 0, label := none, catalog := [],
                                   tries := { attempt := 1, badData := false, mispositioned := true,
                                              recalBegun := false } } })).go s.bat d))))
  ∧ (∀ (b : Battery) (v : Vol) (d : DriveNo), v.startLoading b d = (v.modSeq d (fun q =>
       { q with mount := .loading, retries := 0, writeProtected := (v.drive d).cable.protect, stall := true, cyl := none,
                recal := none, unload := none, idleDue := true, phase := .positioning,
                job := .loading { sector := 0, label := none, catalog := [],
                                  tries := { attempt := 1, badData := false, mispositioned := true,
                                             recalBegun := false } } })).go b d)
  ∧ (∀ (v : Vol) (d : DriveNo) (m : MountState), v.changeMount d m
       = (List.finRange 9).foldl (fun w k => w.modPort k (fun p =>
           { p with notice := { p.notice with driveChange := p.notice.driveChange ||| (1#8 <<< d.val) } }))
         (v.modSeq d (fun q => { q with mount := m })))
  ∧ (∀ (b : Battery) (v : Vol) (d : DriveNo) (l : LoadWork),
       let fresh : Tries := { attempt := 1, badData := false, mispositioned := true, recalBegun := false }
       let counted := v.modSeq d (fun q =>
         { q with retries := if 1 < l.tries.attempt then min 255 (q.retries + 1) else q.retries })
       let ends := fun (w : Vol) (m : MountState) (mirror : Option Mirror) (fault : Bool) =>
         ((w.modSeq d (fun q => { q with job := .none, phase := .idle, recal := none, idleDue := true })).modCat d (fun c =>
           { c with mirror := mirror, fault := fault })).changeMount d m
       let noLabel := ends counted .unformatted none false
       let ready := fun (w : Vol) (m : Mirror) => ends w .ready (some m) (m.slots.any (fun o => match o with
         | none => true
         | some e => e.image.state == .damaged))
       let nextSector := fun (w : Vol) (l : LoadWork) =>
         (w.modSeq d (fun q => { q with job := .loading { l with sector := l.sector + 1, tries := fresh } })).go b d
       (∀ bs, l.sector = 0 → parseLabel bs = none → v.loadGood b d l bs = noLabel)
       ∧ (∀ bs lab, l.sector = 0 → parseLabel bs = some lab →
         v.loadGood b d l bs = nextSector counted { l with label := some lab })
       ∧ (∀ bs, 0 < l.sector → l.sector < 15 →
         v.loadGood b d l bs = nextSector counted { l with catalog := l.catalog ++ [some bs] })
       ∧ (∀ bs lab, 15 ≤ l.sector → l.label = some lab →
         v.loadGood b d l bs = ready counted (buildMirror lab (l.catalog ++ [some bs])))
       ∧ (∀ bad mispositioned, 4 ≤ l.tries.attempt →
         let faulted := counted.modCat d (fun c => { c with fault := true })
         (l.sector = 0 → v.loadFailed b d l bad mispositioned = noLabel)
         ∧ (0 < l.sector → l.sector < 15 →
           v.loadFailed b d l bad mispositioned = nextSector faulted { l with catalog := l.catalog ++ [none] })
         ∧ (∀ lab, 15 ≤ l.sector → l.label = some lab →
           v.loadFailed b d l bad mispositioned = ready faulted (buildMirror lab (l.catalog ++ [none]))))
       ∧ (∀ bad mispositioned, l.tries.attempt < 4 →
         let t := { l.tries with attempt := l.tries.attempt + 1, badData := l.tries.badData || bad,
                                 mispositioned := l.tries.mispositioned && mispositioned }
         (t.attempt = 3 → v.loadFailed b d l bad mispositioned = (v.modSeq d (fun q =>
           { q with job := .loading { l with tries := { t with recalBegun := true } }, cyl := none, recal := none })).go b d)
         ∧ (t.attempt ≠ 3 → v.loadFailed b d l bad mispositioned = v.modSeq d (fun q =>
           { q with job := .loading { l with tries := t }, phase := .searching 0 false false }))))
  ∧ (∀ (lab : Label) (sectors : List (Option (List Byte))),
       let m := buildMirror lab sectors
       let raw : List (Option (List Byte)) := sectors.flatMap (fun o => match o with
         | none => List.replicate 16 none
         | some bs => (List.range 16).map (fun i => some ((bs.drop (64 * i)).take 64)))
       let inRange := fun (x : Extent) =>
         1 ≤ x.cyl ∧ x.cyl ≤ 76 ∧ x.side ≤ 1 ∧ x.first ≤ 7 ∧ 1 ≤ x.count ∧ x.count ≤ 8 ∧ x.first + x.count ≤ 8
       let lies := fun (x : Extent) => (List.range x.count).map (fun k => dataIndex x.cyl x.side (x.first + k))
       let filed := fun (i : Nat) (w : SlotImage) => ∃ e, m.slots[i]? = some (some e) ∧ e.image = w ∧ w.state = .filed
       let claimed := fun (x : Nat) => ∃ i w, filed i w ∧ x ∈ w.extents.flatMap lies
       m.label = lab ∧ m.suspect = [] ∧ m.slots.length = raw.length
       ∧ (∀ i : Nat, raw[i]? = some none → m.slots[i]? = some none)
       ∧ (∀ (i : Nat) (bs : List Byte), raw[i]? = some (some bs) →
         let at' := fun (j : Nat) => (bs.getD j 0).toNat
         let read : SlotImage :=
           { state := .damaged, slug := bs.take 12, edition := at' 13, revision := at' 14 * 256 + at' 15,
             timestamp := (bs.drop 16).take 6, length := at' 22 * 256 + at' 23,
             extents := (List.range (min (at' 24) 12)).map (fun j =>
               { cyl := at' (25 + 3 * j), side := at' (26 + 3 * j), first := at' (27 + 3 * j) / 16,
                 count := at' (27 + 3 * j) % 16 }) }
         let xs := read.extents.flatMap lies
         let passes :=
           (∀ c ∈ read.slug, 0x41 ≤ c.toNat ∧ c.toNat ≤ 0x5A ∨ 0x30 ≤ c.toNat ∧ c.toNat ≤ 0x39 ∨ c = 0x2D ∨ c = 0x20)
           ∧ (∃ c ∈ read.slug, c ≠ 0x20) ∧ read.revision ≠ 0 ∧ read.edition ≤ 8 ∧ at' 24 ≤ 12
           ∧ (∀ x ∈ read.extents, inRange x) ∧ (read.extents.map Extent.count).sum = (read.length + 1023) / 1024
           ∧ xs.Nodup ∧ (∀ x ∈ xs, x ∉ lab.bads)
           ∧ ∀ (j : Nat) (w : SlotImage), j < i → filed j w → w.slug ≠ read.slug ∧ ∀ x ∈ xs, x ∉ w.extents.flatMap lies
         ∃ w : SlotImage, m.slots[i]? = some (some { image := w, holder := none, heldAt := 0, filing := none, readers := 0,
                                                     reserved := none, catWrite := none, spike := none })
           ∧ (at' 12 = 0 → w = SlotImage.freeImage)
           ∧ (at' 12 = 1 → passes → w = { read with state := .filed })
           ∧ (at' 12 ≠ 0 → ¬ (at' 12 = 1 ∧ passes) → w = read))
       ∧ (∀ x, x ∈ m.bad ↔ x ∈ lab.bads)
       ∧ (∀ x, x ∈ m.withheld ↔ (∃ (i : Nat) (e : Entry) (y : Extent), m.slots[i]? = some (some e)
           ∧ e.image.state = .damaged ∧ y ∈ e.image.extents
           ∧ inRange y ∧ x ∈ lies y) ∧ x ∉ lab.bads ∧ ¬ claimed x)
       ∧ (∀ x, x ∈ m.free ↔ x < 1216 ∧ x ∉ m.bad ∧ x ∉ m.withheld ∧ ¬ claimed x)
       ∧ m.free.Pairwise (fun x y => x < y))

/-- R86, R87, R88, R89: a step moves a known cylinder by one; the 80th step of a recalibration that leaves the track-0
line false discards the drive's work to FAULTED with SEEK FAULT; the step that was in progress when a RECAL was
cancelled ends its RECALIBRATE order, the cylinder unknown (R86, R100); otherwise positioning goes on, as it does after
a settle and a head load. R85, R86, R88, R89: how positioning goes on: on its cylinder with nothing owed it is ready; away
from it, one step toward it; with a settle owed, the settle; from an unknown cylinder, the track-0 line true makes it
cylinder 0, where a settle owed is made, and false makes one step outward. A step in progress is waited for, and so are
a settle and, where the head is needed, its load. A recalibration leaves a settle in progress or owed as it is. R12, R83, R100, R177: positioning goes to the
side and cylinder of the work in hand, with the drive's settings: an order's own, LOADING's for its sector, a unit's; a
RECALIBRATE goes to cylinder 0 with no side selected and the head as it is. R89: for all other work an unloaded head
begins its load, which at a load time of 0 is loaded at once. R11, R12, R14, R82, R91, R100: what a drive begins when
positioning has ended: a RECALIBRATE order ends DONE; an order about to make the first write of its service period has
the write-protect line sampled, and ends WRITE PROTECTED, with the condition set, where it reads protected; else an
order, LOADING and an invalidation unit search, a track-side unit writes its first sector or waits for a header's angle,
and a catalog or label unit's write pass begins. The model's own: the track-0 line's reading comes with STEP_DONE (log
7), a settle of 0 ms ends at once (log 11), no settle is owed by an idle drive or after a stopped recalibration (log
12), a cancelled RECALIBRATE ends with its step (log 37), a track side begins at the angle it stands at (log 22), and
the sample is taken as positioning ends (log 49). -/
def Obligations.PositioningGoesOn : Prop :=
  (∀ (s : State) (d : DriveNo), s.vol.live = true →
     (∀ (track0 : Bool) (m : StepMove), (s.vol.drive d).seq.step = some m →
       let v := (s.vol.modCable d (fun c => { c with track0 := track0 })).modSeq d (fun q =>
         { q with step := none, cyl := q.cyl.map (fun h => if m.inward then h + 1 else h - 1),
                  settleOwed := q.settleOwed && q.job != .none })
       let failed := track0 = false ∧ (s.vol.drive d).seq.cyl = none ∧ 80 ≤ (s.vol.drive d).seq.recal.getD 0
       let cancelled := ∃ o q, (s.vol.drive d).sched.service = some o ∧ o.kind = .recalibrate
         ∧ s.vol.req o.req = some q ∧ q.stage = .ending
       (cancelled → exec (.stepDone d track0) s = .next (s.finish (s.bat,
         (v.modSeq d (fun q => { q with settleOwed := false })).orderEnd s.bat d .cancelled)))
       ∧ (¬ cancelled → failed → exec (.stepDone d track0) s = .next (s.finish (s.bat, v.discard s.bat d .faulted .seekFault)))
       ∧ (¬ cancelled → ¬ failed → exec (.stepDone d track0) s = .next (s.finish (s.bat, v.go s.bat d))))
     ∧ (∀ n, (s.vol.drive d).seq.settle = some n → exec (.settleDone d) s = .next (s.finish (s.bat,
         (s.vol.modSeq d (fun q => { q with settle := none })).go s.bat d)))
     ∧ (∀ n, (s.vol.drive d).seq.head = .loading n →
       let v := s.vol.modSeq d (fun q => { q with head := .loaded })
       exec (.headLoadDone d) s = .next (s.finish (s.bat,
         if (s.vol.drive d).seq.phase = .positioning then v.go s.bat d else v))))
  ∧ (∀ (t : Timing) (track0 : Bool) (target : Nat) (needsHead : Bool) (q : Sequencer),
       let goes := fun (w : Sequencer) => q.go t track0 target needsHead = w
       let settles := q.settleOwed = true ∧ t.settle ≠ 0
       let waits := q.settle ≠ none ∨ needsHead = true ∧ q.head ≠ .loaded
       (q.step ≠ none → goes { q with phase := .positioning })
       ∧ (q.step = none → q.cyl = some target →
         (settles → goes { q with settle := some t.settle, settleOwed := false, phase := .positioning })
         ∧ (¬ settles → waits → goes { q with settleOwed := false, phase := .positioning })
         ∧ (¬ settles → ¬ waits → goes { q with settleOwed := false, phase := .ready }))
       ∧ (q.step = none → ∀ h, q.cyl = some h → h ≠ target →
         goes { q with step := some { inward := decide (h < target), units := t.step }, settle := none,
                       settleOwed := true, phase := .positioning })
       ∧ (q.step = none → q.cyl = none → track0 = false →
         goes { q with step := some { inward := false, units := t.step }, settle := none, settleOwed := true,
                       phase := .positioning, recal := some (q.recal.getD 0 + 1) })
       ∧ (q.step = none → q.cyl = none → track0 = true →
         goes (({ q with cyl := some 0, recal := none } : Sequencer).go t track0 target needsHead)))
  ∧ (∀ (t : Timing) (q : Sequencer), q.lower t
       = if q.head = .unloaded then { q with head := if t.load = 0 then .loaded else .loading t.load } else q)
  ∧ (∀ (t : Timing) (x : Drive),
       let toward := fun (cyl side : Nat) =>
         x.go t = { x with seq := (({ x.seq with side := side } : Sequencer).lower t).go t x.cable.track0 cyl true }
       (x.seq.job = .none → x.go t = x)
       ∧ (∀ o, x.seq.job = .order → x.sched.service = some o →
         (o.kind = .recalibrate → x.go t = { x with seq := x.seq.go t x.cable.track0 0 false })
         ∧ (o.kind ≠ .recalibrate → toward o.cyl o.side))
       ∧ (∀ l, x.seq.job = .loading l → toward 0 (if l.sector ≤ 7 then 0 else 1))
       ∧ ∀ u, x.seq.job = .unit u →
         (u.kind = .invalidate ∨ u.kind = .label → toward 0 0)
         ∧ (∀ n, u.kind = .track n → toward (n / 2) (n % 2))
         ∧ (∀ half, u.kind = .catalog half → toward 0 half))
  ∧ (∀ (b : Battery) (v : Vol) (d : DriveNo),
       let set := b.settings.drives[d]
       v.go b d = v.modDrive d (fun x => x.go
         { step := 6 * ([3, 4, 5, 6, 8, 10, 12, 15] : List Nat).getD set.stepCode 15, settle := 6 * set.settle,
           load := 6 * set.headLoad }))
  ∧ (∀ q : Sequencer, q.beginRecal = { q with cyl := none, recal := none })
  ∧ (∀ (b : Battery) (v : Vol) (d : DriveNo),
       let phased := fun (w : Vol) (p : Phase) => w.modSeq d (fun q => { q with phase := p })
       let search : Phase := .searching 0 false false
       (∀ o, (v.drive d).seq.job = .order → (v.drive d).sched.service = some o →
         let due := o.pass = .write ∧ o.sampled = false
         (o.kind = .recalibrate → v.beginWork b d = v.orderEnd b d .done)
         ∧ (o.kind ≠ .recalibrate → ¬ due → v.beginWork b d = phased v search)
         ∧ (o.kind ≠ .recalibrate → due →
           ((v.drive d).cable.protect = true → v.beginWork b d
             = (v.modSeq d (fun q => { q with writeProtected := true })).orderEnd b d .writeProtected)
           ∧ ((v.drive d).cable.protect = false → v.beginWork b d
             = phased (v.modSched d (fun x => { x with service := some { o with sampled := true } })) search)))
       ∧ (∀ l, (v.drive d).seq.job = .loading l → v.beginWork b d = phased v search)
       ∧ (∀ u, (v.drive d).seq.job = .unit u →
         (u.kind = .invalidate → v.beginWork b d = phased v search)
         ∧ (∀ i, u.kind = .track i →
           (∀ n : Nat, n < 8 → (v.drive d).seq.angle = 125 * n + 8 → v.beginWork b d = v.modSeq d (fun q =>
             { q with phase := .unitPass false true,
                      job := .unit { u with sectors := (List.range 8).map (fun i => (n + i) % 8),
                                            todo := (List.range 8).map (fun i => (n + i) % 8) } }))
           ∧ ((∀ n : Nat, n < 8 → (v.drive d).seq.angle ≠ 125 * n + 8) → v.beginWork b d = phased v .waitAngle))
         ∧ ((∃ half, u.kind = .catalog half) ∨ u.kind = .label → v.beginWork b d = phased v (.unitPass false false))))

/-- R6, R91, R92: a header in a search: with a bad check it counts for nothing, the sought one begins its sector's
transfer, any other of the target cylinder shows the head right, and any of another cylinder shows it wrong. At the
search limit the attempt fails, mispositioned when every good header named a wrong cylinder and there was one. R92, R93,
R94: a failed attempt of an order: with four made, the sector is exhausted, counts one retry, and ends the order READ
FAULT for a bad data check, SEEK FAULT where every failure was mispositioned, else SECTOR MISSING, its request in ENDING
ending as its cause gave; short of four, an ENDING request's order ends; else the next attempt, the third after a
recalibration. R67, R70: a preemption pending with sectors completed waits for the boundary. LOADING's attempts are
DoorsAndLoading's matter. R12, R14, R95, R183: in a verify pass, and in a unit's passes but the write pass of a track side,
which looks for none, a good header of the sector at hand is found, and any other counts for nothing. R35: as a write or
rewrite of a CATALOG WRITE begins its sector is composed in its buffer: its own slot's new image, and each other slot's entry
as it is served. R183: as the write of a COPY's catalog sector begins it is composed from the source's mirror: FILED entries as
they are, all else FREE; R14: a FORMAT's is of FREE slots. The model's own: a preemption pending before the order's first
sector is decided at the end of the failed attempt, made where a higher class waits and lapsing where none does (log 14), and a
header found marks the sector at hand (log 19). -/
def Obligations.SearchesReadHeaders : Prop :=
  (∀ (s : State) (d : DriveNo) (pulses : Nat) (right wrong : Bool),
    s.vol.live = true → (s.vol.drive d).seq.phase = .searching pulses right wrong →
    (pulses < 2 → ∀ (c side n : Nat) (h : HeaderRead), (s.vol.drive d).searchTarget = some (c, side, n) →
      let good := crc [h.cyl, h.side, h.sector, h.size] = h.check
      let sought := h.cyl.toNat = c ∧ h.side.toNat = side ∧ h.sector.toNat = n ∧ h.size.toNat = 3
      let shows := fun (p : Phase) => exec (.headerFound d h) s
        = .next (s.finish (s.bat, s.vol.modSeq d (fun q => { q with phase := p })))
      (¬ good → exec (.headerFound d h) s = .next (s.finish (s.bat, s.vol)))
      ∧ (good → sought → exec (.headerFound d h) s = .next (s.finish (s.bat,
          (s.vol.composeService d).modSeq d (fun q => { q with phase := .transfer }))))
      ∧ (good → ¬ sought → h.cyl.toNat = c → shows (.searching pulses true wrong))
      ∧ (good → h.cyl.toNat ≠ c → shows (.searching pulses right true)))
    ∧ (2 ≤ pulses →
      (∀ o, (s.vol.drive d).seq.job = .order → (s.vol.drive d).sched.service = some o →
        exec (.searchLimit d) s = .next (s.finish (s.bat, s.vol.attemptFailed s.bat d o false (wrong && !right))))
      ∧ (∀ l, (s.vol.drive d).seq.job = .loading l →
        exec (.searchLimit d) s = .next (s.finish (s.bat, s.vol.loadFailed s.bat d l false (wrong && !right))))
      ∧ (∀ u, (s.vol.drive d).seq.job = .unit u →
        exec (.searchLimit d) s = .next (s.finish (s.bat, s.vol.invalidateEnd s.bat d u)))))
  ∧ (∀ (b : Battery) (v : Vol) (d : DriveNo) (o : Order) (bad mispositioned : Bool),
       let t := { o.tries with attempt := o.tries.attempt + 1, badData := o.tries.badData || bad,
                               mispositioned := o.tries.mispositioned && mispositioned }
       let why : OutcomeCode := if t.badData then .readFault else if t.mispositioned then .seekFault else .sectorMissing
       let higher := ∃ y ∈ (v.drive d).sched.queue, v.eligible y = true ∧ o.cls.rank < y.cls.rank
       let tried := fun (w : Vol) (t : Tries) =>
         w.modSched d (fun x => { x with service := x.service.map (fun o => { o with tries := t }) })
       let next := fun (w : Vol) =>
         if t.attempt = 3 ∧ t.recalBegun = false then
           ((tried w { t with recalBegun := true }).modSeq d (fun q => { q with cyl := none, recal := none })).go b d
         else (tried w t).modSeq d (fun q => { q with phase := .searching 0 false false })
       (4 ≤ o.tries.attempt → v.attemptFailed b d o bad mispositioned
         = (v.modSeq d (fun q => { q with retries := min 255 (q.retries + 1) })).orderEnd b d
             (if v.endingOrder o then .cancelled else why))
       ∧ (o.tries.attempt < 4 → v.endingOrder o = true →
           v.attemptFailed b d o bad mispositioned = v.orderEnd b d .cancelled)
       ∧ (o.tries.attempt < 4 → v.endingOrder o = false → ((v.drive d).sched.pending = false ∨ o.progress ≠ 0) →
           v.attemptFailed b d o bad mispositioned = next v)
       ∧ (o.tries.attempt < 4 → v.endingOrder o = false → (v.drive d).sched.pending = true → o.progress = 0 →
           (higher → v.attemptFailed b d o bad mispositioned = (tried v t).modDrive d Drive.preemptEarly)
           ∧ (¬ higher → v.attemptFailed b d o bad mispositioned
             = next (v.modSched d (fun x => { x with pending := false })))))
  ∧ (∀ (s : State) (d : DriveNo) (h : HeaderRead), s.vol.live = true →
       let names := fun (c side n : Nat) => crc [h.cyl, h.side, h.sector, h.size] = h.check
         ∧ h.cyl.toNat = c ∧ h.side.toNat = side ∧ h.sector.toNat = n ∧ h.size.toNat = 3
       let ends := fun (v : Vol) => exec (.headerFound d h) s = .next (s.finish (s.bat, v))
       (∀ (w : VerifyWork) (o : Order) (n : Nat) (rest : List Nat),
         (s.vol.drive d).seq.phase = .verify w → (s.vol.drive d).sched.service = some o → w.todo = n :: rest →
         (names o.cyl o.side n → ends ((if w.rewrite = true then s.vol.composeService d else s.vol).modSeq d (fun q =>
           { q with phase := .verify { w with found := true } })))
         ∧ (¬ names o.cyl o.side n → ends s.vol))
       ∧ (∀ (verify found : Bool) (u : UnitWork) (n : Nat) (rest : List Nat),
         (s.vol.drive d).seq.phase = .unitPass verify found → (s.vol.drive d).seq.job = .unit u → u.todo = n :: rest →
         let here := names u.kind.place.1 u.kind.place.2 n
         (verify = true → here → ends (s.vol.modSeq d (fun q => { q with phase := .unitPass true true })))
         ∧ (verify = true → ¬ here → ends s.vol)
         ∧ (verify = false → ∀ i, u.kind = .track i → ends s.vol)
         ∧ (verify = false → (∀ i, u.kind ≠ .track i) →
           (here → ends (s.vol.modSeq d (fun q =>
             { q with phase := .unitPass false true, job := .unit { u with image := s.vol.unitImage u n } })))
           ∧ (¬ here → ends s.vol))))
  ∧ (∀ (v : Vol) (d : DriveNo) (o : Order), (v.drive d).sched.service = some o →
       (o.kind ≠ .catalogWrite → v.composeService d = v)
       ∧ ∀ x xs q m, o.kind = .catalogWrite → o.buffers = x :: xs → v.req o.req = some q → v.mirror d = some m →
         v.composeService d = v.setBuf x { v.buf x with data := (List.range 16).flatMap (fun i =>
           match m.entry (q.slot / 16 * 16 + i) with
           | none => List.replicate 64 0
           | some e => match e.catWrite with
             | none => e.image.bytes
             | some c => if q.slot / 16 * 16 + i = q.slot then c.image.bytes else e.image.bytes) })
  ∧ (∀ (v : Vol) (u : UnitWork) (n : Nat),
       ((∀ half, u.kind ≠ .catalog half) → v.unitImage u n = u.image)
       ∧ ∀ half, u.kind = .catalog half →
         (u.copy = false → v.unitImage u n = List.replicate 1024 0)
         ∧ ∀ q m, u.copy = true → v.req u.req = some q → v.mirror q.drive = some m →
           v.unitImage u n = (List.range 16).flatMap (fun i => match m.entry ((half * 8 + n - 1) * 16 + i) with
             | none => List.replicate 64 0
             | some e => if e.image.state = .filed then e.image.bytes else List.replicate 64 0))

/-- R4, R91, R92, R94, R11, R83: the end of a sector transfer. A write stores the order's bytes and their check and
completes the sector; a read takes the field into its buffer, and then a good data check completes the sector and a bad
one fails the attempt; LOADING goes on as DoorsAndLoading says, and so does the invalidation unit. R12, R14, R183: the
end of a sector of a unit's write pass: formatted on a track side, else written where its header was found; the verify
pass follows the last. R185: a unit that a discard has stopped ends the COPY, with its outcome, at the end of the sector
being written, and writes nothing more. R91, R94, R181: a completed sector counts one retry where it needed more than
one attempt, and the order goes on past skipped sectors with fresh attempts. R67 to R70, R73, R95: the boundary: an
ENDING request's order ends; after the last sector a write to be verified begins its verify pass, in which no preemption
stands, and any other order ends DONE; a pending preemption lapses with no higher class waiting, pushes the order with a
free stack slot, and stays without one. The model's own: what the drive gives for a data field is the row's operand (log
8), what a field that stands bad on the diskette gives is a free value (log 45), and a catalog or label sector whose
header is not found in the write pass is not written and has failed (log 18), and progress stands at the write pass's
count in a verify pass (log 48). -/
def Obligations.SectorBoundariesEndTransfers : Prop :=
  (∀ (s : State) (d : DriveNo) (f : FieldRead), s.vol.live = true → (s.vol.drive d).seq.phase = .transfer →
    (∀ o, (s.vol.drive d).seq.job = .order → (s.vol.drive d).sched.service = some o →
      (o.pass = .write → exec (.sectorBoundary d f) s = .next (s.finish (s.bat,
        (s.vol.modDisk d (fun m => m.writeData o.cyl o.side o.sector (s.vol.sectorData o o.sector))).sectorCompleted
          s.bat d o)))
      ∧ (o.pass = .read → ∀ bs x, (s.vol.drive d).cable.disk.readField o.cyl o.side o.sector f = some bs →
        o.bufferFor o.sector = some x → exec (.sectorBoundary d f) s = .next (s.finish (s.bat,
          (s.vol.fillBuf x bs).sectorCompleted s.bat d o)))
      ∧ (o.pass = .read → (s.vol.drive d).cable.disk.readField o.cyl o.side o.sector f = none →
        ∀ x, o.bufferFor o.sector = some x →
        let fails := fun (v : Vol) => exec (.sectorBoundary d f) s = .next (s.finish (s.bat, v.attemptFailed s.bat d o true false))
        (∀ bs check, f = .asRead bs check → fails (s.vol.setBuf x { s.vol.buf x with
          data := bs.take 1024 ++ List.replicate (1024 - bs.length) 0 }))
        ∧ (f = .asStored → ∃ bs : List Byte, bs.length = 1024 ∧ fails
          { s.vol.setBuf x { s.vol.buf x with data := bs } with picks := s.vol.picks + 1 })))
    ∧ (∀ l, (s.vol.drive d).seq.job = .loading l →
      (∀ bs, (s.vol.drive d).cable.disk.readField 0 (loadPlace l.sector).1 (loadPlace l.sector).2 f = some bs →
        exec (.sectorBoundary d f) s = .next (s.finish (s.bat, s.vol.loadGood s.bat d l bs)))
      ∧ ((s.vol.drive d).cable.disk.readField 0 (loadPlace l.sector).1 (loadPlace l.sector).2 f = none →
        exec (.sectorBoundary d f) s = .next (s.finish (s.bat, s.vol.loadFailed s.bat d l true false))))
    ∧ (∀ u, (s.vol.drive d).seq.job = .unit u → u.kind = .invalidate →
      exec (.sectorBoundary d f) s = .next (s.finish (s.bat,
        (s.vol.modDisk d (fun m => m.writeData 0 0 0 u.image)).invalidateEnd s.bat d u))))
  ∧ (∀ (s : State) (d : DriveNo) (f : FieldRead) (found : Bool) (u : UnitWork) (n : Nat) (rest : List Nat),
      s.vol.live = true → (s.vol.drive d).seq.phase = .unitPass false found → (s.vol.drive d).seq.job = .unit u →
      u.todo = n :: rest →
      let ended := fun (w : Vol) (failed : List Nat) => exec (.sectorBoundary d f) s = .next (s.finish (s.bat,
        if s.vol.unitStops u then w.copyEnd s.bat u.req (((s.vol.req u.req).bind Request.outcome).getD .cancelled) false
        else w.modSeq d (fun q => { q with
          job := .unit { u with failed := failed, todo := if rest = [] then u.sectors else rest },
          phase := .unitPass (decide (rest = [])) false })))
      (∀ i, u.kind = .track i → found = true →
        ended (s.vol.modDisk d (fun m => m.format (trackPlace i).1 (trackPlace i).2 n)) u.failed)
      ∧ (∀ half, (u.kind = .catalog half ∨ u.kind = .label ∧ half = 0) →
        (found = true → ended (s.vol.modDisk d (fun m => m.writeData 0 half n u.image)) u.failed)
        ∧ (found = false → n ∉ u.failed → ended s.vol (u.failed ++ [n]))))
  ∧ (∀ (b : Battery) (v : Vol) (d : DriveNo) (o x : Order), (v.drive d).sched.service = some x →
      let w := (v.modSeq d (fun q =>
          { q with retries := if 1 < o.tries.attempt then min 255 (q.retries + 1) else q.retries })).modSched d (fun y =>
        { y with service := some { x with
            progress := skipOver x.skip x.first 8 (x.progress + 1),
            tries := { attempt := 1, badData := false, mispositioned := true, recalBegun := false },
            troubled := x.troubled ++ (if 1 < x.tries.attempt then [x.first + x.progress] else []) } })
      v.sectorCompleted b d o
        = (if o.kind = .read then w.modReq o.req (fun q => { q with filled := q.filled + 1 }) else w).boundary b d)
  ∧ (∀ (skip : List Nat) (first p : Nat),
      let q := skipOver skip first 8 p
      p ≤ q ∧ (∀ i, p ≤ i → i < q → first + i ∈ skip) ∧ (q < p + 8 → first + q ∉ skip))
  ∧ (∀ (b : Battery) (v : Vol) (d : DriveNo) (o : Order), (v.drive d).sched.service = some o →
      let higher := ∃ y ∈ (v.drive d).sched.queue, v.eligible y = true ∧ o.cls.rank < y.cls.rank
      let search := fun (w : Vol) => w.modSeq d (fun q => { q with phase := .searching 0 false false })
      let lapsed := v.modSched d (fun x => { x with pending := false })
      let verified := o.kind = .catalogWrite ∨ o.kind = .copyWrite
        ∨ o.kind = .write ∧ ((b.settings.drives[d]).verify = 1
            ∨ (b.settings.drives[d]).verify = 2 ∧ 4 ≤ (v.drive d).seq.retries)
      (v.endingOrder o = true → v.boundary b d = v.orderEnd b d .cancelled)
      ∧ (v.endingOrder o = false → o.count ≤ o.progress → ¬ (o.pass = .write ∧ verified) →
          v.boundary b d = v.orderEnd b d .done)
      ∧ (v.endingOrder o = false → o.count ≤ o.progress → o.pass = .write → verified →
          v.boundary b d = (v.modSched d (fun x =>
            { x with service := some { o with pass := .verify }, pending := false })).modSeq d (fun q =>
              { q with phase := .verify { rewrite := false, found := false, todo := o.sectors, failing := [], writes := 1,
                                          troubled := o.troubled } }))
      ∧ (v.endingOrder o = false → o.progress < o.count →
          ((v.drive d).sched.pending = false → v.boundary b d = search v)
          ∧ ((v.drive d).sched.pending = true → ¬ higher → v.boundary b d = search lapsed)
          ∧ ((v.drive d).sched.pending = true → higher → (v.drive d).sched.depth < 3 → v.boundary b d = v.modDrive d
            (fun z => { z with
              seq := { z.seq with job := .none, phase := .idle, recal := none, idleDue := true },
              sched := { z.sched with
                service := none, pending := false,
                stack := z.sched.stack ++ [{ o with tries := { attempt := 1, badData := false, mispositioned := true,
                                                               recalBegun := false } }] } }))
          ∧ ((v.drive d).sched.pending = true → higher → 3 ≤ (v.drive d).sched.depth → v.boundary b d = search v)))
  ∧ (∀ (v : Vol) (u : UnitWork),
       v.unitStops u = true ↔ ∃ q c, v.req u.req = some q ∧ q.copy = some c ∧ c.stop = true)

/-- R4, R9: a data field written reads back as its bytes, filled with zeros to 1024, while the diskette is in its
canonical form, and every other address of the geometry reads as before. R8, R189: a label as it is written reads back
as a valid label with its volume name, date and bad list. R18, R189: a slot image as it is written is 64 bytes and
reads back as its fields, with its state byte and extent count. The model's own: how a diskette stands in State (log
8). -/
def Obligations.WhatIsWrittenReadsBack : Prop :=
  (∀ (m : Diskette) (c h n : Nat) (bs : List Byte), m.wf = true → c ≤ 76 → h ≤ 1 → n ≤ 7 → bs.length ≤ 1024 →
     (m.writeData c h n bs).readField c h n .asStored = some (bs ++ List.replicate (1024 - bs.length) 0)
     ∧ ((m.writeData c h n bs).sector c h n).header = (m.sector c h n).header
     ∧ ∀ c' h' n', addressOk c' h' n' = true → (c', h', n') ≠ (c, h, n) →
         (m.writeData c h n bs).sector c' h' n' = m.sector c' h' n')
  ∧ ((∀ (volume date : List Byte) (bads : List Nat),
        volume.length = 8 → date.length = 6 → bads.length ≤ 16 → (∀ x ∈ bads, x < 1216) →
        (labelBytes volume date bads.length bads).length = 1024
        ∧ parseLabel (labelBytes volume date bads.length bads)
          = some { volume := volume, date := date, badCount := bads.length, bads := bads })
     ∧ (∀ w : SlotImage, w.state = .filed → w.slug.length = 12 → w.edition < 256 → w.revision < 65536 →
          w.timestamp.length = 6 → w.length < 65536 → w.extents.length ≤ 12 → (∀ e ∈ w.extents, e.inRange = true) →
          w.bytes.length = 64
          ∧ rawSlot w.bytes = { stateByte := 1, extentCount := w.extents.length, image := { w with state := .damaged } }))

/-- R95, R73, R12: the end of a sector of a verify pass: a read-back that fails, its header not found or its data check
bad, joins the failing sectors; a rewrite stores the sector's bytes where its header was found, leaves the list as it
stands, and counts one retry for a sector that gave no trouble before (R94). R95, R96, R24: after the last sector of a
revolution, a rewrite is followed by its read-back and a clean read-back by DONE; a failed one by the rewrite of what
failed, or, the third write having failed, by WRITE FAULT, the failing sectors of a WRITE order suspect. An ENDING
request's order ends there; the model's own: what had then failed its third read-back is reported suspect (log 35). R12,
R14: a unit's read-back counts its failed sectors, and its last ends its passes, and one that a discard has stopped ends
its COPY there (R185, SectorBoundariesEndTransfers says which is); the model's own: a label that fails has its data
check left bad (log 40), and the header of a sector at hand is marked as it is found (log 19). -/
def Obligations.VerifySectorsAreCounted : Prop :=
  ∀ (s : State) (d : DriveNo) (f : FieldRead), s.vol.live = true →
    (∀ (w : VerifyWork) (o : Order) (n : Nat) (rest : List Nat),
      (s.vol.drive d).seq.phase = .verify w → (s.vol.drive d).sched.service = some o → w.todo = n :: rest →
      let passed := w.found && ((s.vol.drive d).cable.disk.readField o.cyl o.side n f).isSome
      let failing := if w.rewrite || passed then w.failing else w.failing ++ [n]
      let written := if w.rewrite && w.found then
          s.vol.modDisk d (fun x => x.writeData o.cyl o.side n (s.vol.sectorData o n)) else s.vol
      let v := written.modSeq d (fun q =>
        if w.rewrite = true ∧ n ∉ w.troubled then { q with retries := min 255 (q.retries + 1) } else q)
      let troubled := if w.rewrite then w.troubled ++ [n] else w.troubled
      let suspects := if o.kind = .write then v.modMirror d (fun m =>
        { m with suspect := addSectors m.suspect (failing.map (dataIndex o.cyl o.side)) }) else v
      let ends := fun (v : Vol) => exec (.verifySectorEnd d f) s = .next (s.finish (s.bat, v))
      let goes := fun (w : VerifyWork) => ends (v.modSeq d (fun q => { q with phase := .verify w }))
      (s.vol.endingOrder o = false →
        (rest ≠ [] → goes { w with found := false, todo := rest, failing := failing, troubled := troubled })
        ∧ (rest = [] → w.rewrite = true → goes { rewrite := false, found := false, todo := w.failing, failing := [],
                                                 writes := w.writes + 1, troubled := troubled })
        ∧ (rest = [] → w.rewrite = false → failing = [] → ends (v.orderEnd s.bat d .done))
        ∧ (rest = [] → w.rewrite = false → failing ≠ [] → w.writes < 3 →
            goes { w with rewrite := true, found := false, todo := failing, failing := failing })
        ∧ (rest = [] → w.rewrite = false → failing ≠ [] → 3 ≤ w.writes → ends (suspects.orderEnd s.bat d .writeFault)))
      ∧ (s.vol.endingOrder o = true →
        ends ((if w.rewrite = false ∧ 3 ≤ w.writes then suspects else v).orderEnd s.bat d .cancelled)))
    ∧ (∀ (found : Bool) (u : UnitWork) (n : Nat) (rest : List Nat),
      (s.vol.drive d).seq.phase = .unitPass true found → (s.vol.drive d).seq.job = .unit u → u.todo = n :: rest →
      let ok := found && ((s.vol.drive d).cable.disk.readField u.kind.place.1 u.kind.place.2 n f).isSome
      let failed := if ok = true ∨ n ∈ u.failed then u.failed else u.failed ++ [n]
      let v := if u.kind = .label ∧ failed ≠ [] then s.vol.modDisk d (fun m => m.spoilData 0 0 n) else s.vol
      exec (.verifySectorEnd d f) s = .next (s.finish (s.bat,
        if s.vol.unitStops u then v.copyEnd s.bat u.req (((s.vol.req u.req).bind Request.outcome).getD .cancelled) false
        else v.modSeq d (fun q =>
          { q with phase := if rest = [] then .unitDone else .unitPass true false,
                   job := .unit { u with todo := rest, failed := failed } }))))

/-- R73, R102, R117: the idle limit of a filing in OPEN ends it CANCELLED, at once or at its order's boundary. -/
def Obligations.TheIdleLimitEndsAFiling : Prop :=
  ∀ (s : State) (r : ReqId) (q : Request) (ses : Session),
    s.vol.live = true → s.vol.req r = some q → q.session = some ses → q.stage = .opened → ses.idle = true →
    let p := s.vol.takeOut r q.drive q.dest
    exec (.idleLimitExpiry r) s = .next (s.finish (s.bat,
      if p.2 then p.1.finish r .cancelled [] false
      else p.1.modReq r (fun q => { q with stage := .ending, outcome := some .cancelled })))

/-- R13, R14, R15: the end of a FORMAT unit. A track side's failed sectors join the bad list; a failed sector of
cylinder 0 or of a catalog or label unit, and a bad list past 16, stop the FORMAT WRITE FAULT; else a FORMAT in ENDING
stops with the outcome its cause gave, the completed track side's failed sectors not added. A FORMAT that stops leaves
its drive UNFORMATTED, with its notice. R11, R15, R180: a FORMAT's invalidation unit is followed by the first track
side, or in ENDING the FORMAT stops; a COPY's waits for its end to be taken. A track side is followed by the next, the
last by the catalog units, those by the label unit, and that by the answer DONE with the number of bad sectors and a
LOADING. R11, R13, R14, R82, R180, R183, R184: a unit samples the write-protect line before it begins; where it reads
protected, the write-protected condition is set and a COPY ends WRITE PROTECTED, a FORMAT in its invalidation unit is
answered so and reloads, and a FORMAT in any other unit stops with that; else the drive has the unit in hand, with its
sectors in the order of its passes, and positioning begins. A label unit writes the FORMAT's volume name, the clock's
snapshot and the bad list built, or what a COPY recorded. The model's own: a failed unit's WRITE FAULT, of cylinder 0 or
of a catalog or label unit, stands over a cancellation taken in the same FORMAT (log 16), and the snapshot is the clock
as the unit is begun (log 46). -/
def Obligations.FormatUnitsFollowEachOther : Prop :=
  (∀ (s : State) (d : DriveNo) (u : UnitWork) (q : Request) (w : FormatWork),
    s.vol.live = true → (s.vol.drive d).seq.phase = .unitDone → (s.vol.drive d).seq.job = .unit u →
    u.copy = false → s.vol.req u.req = some q → q.format = some w →
    let ends := fun (v : Vol) => exec (.formatUnitEnd d) s = .next (s.finish (s.bat, v))
    let stops := fun (oc : OutcomeCode) => ends (((s.vol.modSeq d (fun x =>
      { x with job := .none, phase := .idle, recal := none, idleDue := true })).changeMount d .unformatted).finish u.req oc
        [] false)
    (∀ n, u.kind = .track n →
      let bads := if n / 2 = 0 then w.bads else
        w.bads ++ ((List.range 8).filter (fun i => decide (i ∈ u.failed))).map (dataIndex (n / 2) (n % 2))
      (n / 2 = 0 → u.failed ≠ [] → stops .writeFault)
      ∧ (¬ (n / 2 = 0 ∧ u.failed ≠ []) → q.stage = .ending → stops (q.outcome.getD .cancelled))
      ∧ (¬ (n / 2 = 0 ∧ u.failed ≠ []) → q.stage ≠ .ending → 16 < bads.length → stops .writeFault)
      ∧ (¬ (n / 2 = 0 ∧ u.failed ≠ []) → q.stage ≠ .ending → bads.length ≤ 16 →
          ends ((s.vol.modReq u.req (fun p => { p with format := some { w with bads := bads } })).beginUnit s.bat d u.req
            false (if n + 1 < 154 then .track (n + 1) else .catalog 0))))
    ∧ (∀ half, u.kind = .catalog half →
      (u.failed ≠ [] → stops .writeFault)
      ∧ (u.failed = [] → q.stage = .ending → stops (q.outcome.getD .cancelled))
      ∧ (u.failed = [] → q.stage ≠ .ending →
          ends (s.vol.beginUnit s.bat d u.req false (if half = 0 then .catalog 1 else .label))))
    ∧ (u.kind = .label →
      (u.failed ≠ [] → stops .writeFault)
      ∧ (u.failed = [] → ends (s.vol.formatReloads s.bat d u.req .done [BitVec.ofNat 8 w.bads.length] false))))
  ∧ (∀ (b : Battery) (v : Vol) (d : DriveNo) (r : ReqId) (oc : OutcomeCode) (data : List Byte) (direct : Bool),
       v.formatReloads b d r oc data direct
         = ((v.modSeq d (fun x => { x with job := .none, phase := .idle, recal := none })).finish r oc data direct).startLoading
             b d)
  ∧ (∀ (b : Battery) (v : Vol) (d : DriveNo) (r : ReqId) (q : Request) (copy : Bool) (kind : UnitKind), v.req r = some q →
       let sensed := v.modSeq d (fun x => { x with writeProtected := true })
       let sectors := match kind with
         | .invalidate => [0]
         | .track _ => [0, 1, 2, 3, 4, 5, 6, 7]
         | .catalog half => if half = 0 then [1, 2, 3, 4, 5, 6, 7] else [0, 1, 2, 3, 4, 5, 6, 7]
         | .label => [0]
       let image := match kind, q.copy, q.format with
         | .label, some c, _ => labelBytes c.volume c.date c.badCount (c.bads.take c.badCount)
         | .label, none, some w =>
           labelBytes w.volume (if b.clock.valid then b.clock.fields else [0, 0, 0, 0, 0, 0]) w.bads.length w.bads
         | _, _, _ => zeroSector
       ((v.drive d).cable.protect = true →
         (copy = true → v.beginUnit b d r copy kind
           = sensed.copyEnd b r .writeProtected (decide (kind = .invalidate)))
         ∧ (copy = false → kind = .invalidate → v.beginUnit b d r copy kind
           = sensed.formatReloads b d r .writeProtected [] true)
         ∧ (copy = false → kind ≠ .invalidate → v.beginUnit b d r copy kind
           = ((sensed.modSeq d (fun x =>
               { x with job := .none, phase := .idle, recal := none, idleDue := true })).changeMount d .unformatted).finish r
             .writeProtected [] false))
       ∧ ((v.drive d).cable.protect = false → v.beginUnit b d r copy kind
         = v.placeUnit b d
           { kind := kind, req := r, copy := copy, sectors := sectors, todo := sectors, failed := [], image := image }))
  ∧ (∀ (b : Battery) (v : Vol) (d : DriveNo) (u : UnitWork), v.placeUnit b d u = (v.modSeq d (fun q =>
       { q with job := .unit u, phase := .positioning, unload := none, idleDue := true })).go b d)
  ∧ (∀ (b : Battery) (v : Vol) (d : DriveNo) (u : UnitWork),
       (u.copy = true → v.invalidateEnd b d u = v.modSeq d (fun q => { q with phase := .unitDone }))
       ∧ (u.copy = false → ∀ q, v.req u.req = some q →
         (q.stage = .ending → v.invalidateEnd b d u = ((v.modSeq d (fun x =>
           { x with job := .none, phase := .idle, recal := none, idleDue := true })).changeMount d .unformatted).finish u.req
             (q.outcome.getD .cancelled) [] false)
         ∧ (q.stage ≠ .ending → v.invalidateEnd b d u = v.beginUnit b d u.req false (.track 0))))

/-- R180, R183, R184, R186: the ends of a COPY's units on its destination: the invalidation unit puts it in TRACKS
with the COPY READ of the cursor's track side; the first catalog unit is followed by the second, and that by LABEL and
its unit, the source released; the label unit ends the COPY DONE, or WRITE FAULT where it failed. In ENDING the COPY ends with
its outcome at the end of an invalidation or catalog unit, whether or not sectors failed. R59, R181, R182, R185: a COPY READ
that ends DONE is followed by the COPY WRITE of the sectors not on the destination's bad list, from the lowest to the highest,
those between that are on it skipped; where there is none, and when a COPY WRITE ends DONE, the buffers return and the cursor
goes to the next track side, whose COPY READ runs from its lowest story sector to its highest, or, after cylinder 76, side 1,
to cylinder 0 with the COPY in CATALOG. With any other outcome of its order the COPY ends with it (R185). The model's own: the unload count's start is noted by idleDue (log 21). -/
def Obligations.CopyUnitsFollowEachOther : Prop :=
  (∀ (s : State) (d : DriveNo) (u : UnitWork) (q : Request),
    s.vol.live = true → (s.vol.drive d).seq.phase = .unitDone → (s.vol.drive d).seq.job = .unit u →
    u.copy = true → s.vol.req u.req = some q →
    (u.kind = .invalidate → q.stage ≠ .ending → exec (.copyOpeningEnd d) s = .next (s.finish (s.bat,
      ((s.vol.modSeq d (fun x => { x with job := .none, phase := .idle, recal := none, idleDue := true })).modReq u.req
        (fun p => { p with stage := .tracks })).copyReadNext s.bat u.req)))
    ∧ (u.kind = .invalidate → q.stage = .ending → exec (.copyOpeningEnd d) s = .next (s.finish (s.bat,
      s.vol.copyEnd s.bat u.req (q.outcome.getD .cancelled) false)))
    ∧ (u.kind = .catalog 0 → q.stage ≠ .ending → u.failed = [] → exec (.copyCatalogUnitEnd d) s = .next (s.finish (s.bat,
      s.vol.beginUnit s.bat d u.req true (.catalog 1))))
    ∧ (u.kind = .catalog 1 → q.stage ≠ .ending → u.failed = [] → exec (.copyCatalogUnitEnd d) s = .next (s.finish (s.bat,
      (((s.vol.modSched q.drive (fun x => { x with cursor := none })).modCat q.drive (fun c =>
        { c with copySource := false })).modReq u.req (fun p =>
          { p with stage := .label, copy := p.copy.map (fun c => { c with holdsSource := false }) })).beginUnit s.bat d
        u.req true .label)))
    ∧ (∀ half, u.kind = .catalog half → q.stage ≠ .ending → u.failed ≠ [] →
      exec (.copyCatalogUnitEnd d) s = .next (s.finish (s.bat, s.vol.copyEnd s.bat u.req .writeFault false)))
    ∧ (∀ half, u.kind = .catalog half → q.stage = .ending →
      exec (.copyCatalogUnitEnd d) s = .next (s.finish (s.bat,
        s.vol.copyEnd s.bat u.req (q.outcome.getD .cancelled) false)))
    ∧ (u.kind = .label → exec (.copyLabelVerified d) s = .next (s.finish (s.bat,
      s.vol.copyEnd s.bat u.req (if u.failed = [] then .done else .writeFault) false))))
  ∧ (∀ (b : Battery) (v : Vol) (d : DriveNo) (o : Order) (q : Request) (c : CopyWork),
       (v.drive d).sched.service = some o → v.req o.req = some q → q.copy = some c → q.stage ≠ .ending →
       let w := v.modDrive d (fun z =>
         { z with seq := { z.seq with job := .none, phase := .idle, recal := none, idleDue := true },
                  sched := { z.sched with service := none, pending := false } })
       let sound := (List.range 8).filter (fun n => decide (dataIndex o.cyl o.side n ∉ c.bads))
       (o.kind = .copyRead → sound ≠ [] → v.orderEnd b d .done
         = w.makeOrder b o.req q.dest .copyWrite (runOfSet o.cyl o.side sound o.buffers))
       ∧ (o.kind = .copyRead → sound = [] → v.orderEnd b d .done = (w.returnBufs o.buffers).copyAdvance b o.req)
       ∧ (o.kind = .copyWrite → v.orderEnd b d .done = (w.returnBufs o.buffers).copyAdvance b o.req)
       ∧ (∀ oc, oc ≠ .done → (o.kind = .copyRead ∨ o.kind = .copyWrite) →
         v.orderEnd b d oc = w.copyEnd b o.req oc false))
  ∧ (∀ (b : Battery) (v : Vol) (r : ReqId) (q : Request) (c side : Nat),
       v.req r = some q → (v.drive q.drive).sched.cursor = some (c, side) →
       let cursorAt := fun (p : Nat × Nat) => v.modSched q.drive (fun x => { x with cursor := some p })
       (side = 0 → v.copyAdvance b r = (cursorAt (c, 1)).copyReadNext b r)
       ∧ (side ≠ 0 → c < 76 → v.copyAdvance b r = (cursorAt (c + 1, 0)).copyReadNext b r)
       ∧ (side ≠ 0 → 76 ≤ c → v.copyAdvance b r
         = ((cursorAt (0, 0)).modReq r (fun q => { q with stage := .catalog })).beginUnit b q.dest r true (.catalog 0))
       ∧ (∀ m, v.mirror q.drive = some m → v.copyReadNext b r = v.makeOrder b r q.drive .copyRead (runOfSet c side
           ((List.range 8).filter (fun n => decide (dataIndex c side n ∈ filedSectors m.slots))) [])))
  ∧ (∀ (c side : Nat) (xs : List Nat) (bufs : List BufNo), xs.Pairwise (fun x y => x < y) → (∀ x ∈ xs, x < 8) →
       let p := runOfSet c side xs bufs
       p.cyl = c ∧ p.side = side ∧ p.buffers = bufs ∧ (xs = [] → p.count = 0)
       ∧ (xs ≠ [] → p.first ∈ xs ∧ p.first + p.count - 1 ∈ xs ∧ 1 ≤ p.count
         ∧ ∀ n, (n ∈ xs ↔ (p.first ≤ n ∧ n < p.first + p.count ∧ n ∉ p.skip))
           ∧ (n ∈ p.skip → p.first ≤ n ∧ n < p.first + p.count)))

/-! ## Rules of arithmetic, choice and layout -/

/-- R5: the check register starts at 0xFFFF, each byte is taken most-significant bit first through the polynomial x^16 +
x^12 + x^5 + 1, the check is not inverted, and a field followed by its own stored check gives 0 exactly when it is good;
headers, data fields and frames use it. -/
def Obligations.TheCheckIsTheCyclicCheck : Prop :=
  crc [] = 0xFFFF ∧ crc [0x00] = 0xE1F0
  ∧ crc [0x31, 0x32, 0x33, 0x34, 0x35, 0x36, 0x37, 0x38, 0x39] = 0x29B1
  ∧ (∀ (bs : List Byte) (b : Byte), crc (bs ++ [b]) = (List.range 8).foldl (fun (r : Word16) i =>
      let out := r.getLsbD 15 != b.getLsbD (7 - i)
      if out then (r <<< 1) ^^^ 0x1021 else r <<< 1) (crc bs))
  ∧ (∀ (bs : List Byte) (c : Word16), crc (bs ++ [c.extractLsb' 8 8, c.extractLsb' 0 8]) = 0 ↔ crc bs = c)
  ∧ (∀ h : HeaderRead, headerGood h = true ↔ crc [h.cyl, h.side, h.sector, h.size] = h.check)
  ∧ (∀ (m : Diskette) (c h n : Nat) (bs : List Byte) (x : Word16), bs.length = 1024 →
      (m.readField c h n (.asRead bs x) = some bs ↔ crc bs = x))
  ∧ (∀ body : List Byte, envelope body = 0xE7 :: (be16 body.length ++ body
      ++ [(crc (be16 body.length ++ body)).extractLsb' 8 8, (crc (be16 body.length ++ body)).extractLsb' 0 8]))

/-- R61: the steps and the seek of an order, with the rule's three instances. R62: the positioning of an order. -/
def Obligations.TheSeekAndPositioningOfAnOrder : Prop :=
  ((∀ h c : Nat, (stepsTo (some h) false c : Int) = |(c : Int) - h|)
   ∧ (∀ c, stepsTo none false c = 76 + c) ∧ (∀ h c, stepsTo (some h) true c = h) ∧ (∀ c, stepsTo none true c = 76)
   ∧ (∀ (b : Battery) (d : DriveNo) (n : Nat), seekUnits (b.timing d) n
       = n * (6 * stepMillis (b.settings.drives[d]).stepCode) + if 0 < n then 6 * (b.settings.drives[d]).settle else 0)
   ∧ seekUnits { step := 36, settle := 90, load := 210 } 4 = 234
   ∧ seekUnits { step := 36, settle := 90, load := 210 } 0 = 0
   ∧ seekUnits { step := 36, settle := 90, load := 210 } (stepsTo none false 3) = 2934)
  ∧ (∀ (b : Battery) (d : DriveNo) (seek : Nat),
       positioning (b.timing d) true seek = seek
       ∧ positioning (b.timing d) false seek = max seek (6 * (b.settings.drives[d]).headLoad))
  ∧ positioning { step := 36, settle := 90, load := 210 } false 0 = 210
  ∧ positioning { step := 36, settle := 90, load := 210 } false 234 = 234

/-- R63: the wait of an order is what brings its arrival angle to its first header's angle, within one revolution; its
cost is its positioning and its wait, a RECALIBRATE's its positioning alone, and with the settings in their ranges it is
at most 14,859, which is reached. R64: the effective cost of an order is its cost less 125 for each bypass, at least 0;
both ends of its range are reached. -/
def Obligations.TheWaitAndCostOfAnOrder : Prop :=
  (∀ (angle pos n : Nat), n ≤ 7 →
     waitFor angle pos n ≤ 999 ∧ ((angle + pos) % 1000 + waitFor angle pos n) % 1000 = 125 * n + 8)
  ∧ (∀ (t : Timing) (head : Option Nat) (loaded : Bool) (angle : Nat) (o : Order),
       let pos := positioning t loaded (seekUnits t (stepsTo head (o.kind == .recalibrate) o.cyl))
       costOf t head loaded angle o = (if o.kind = .recalibrate then pos else pos + waitFor angle pos o.first)
       ∧ effectiveCost t head loaded angle o = costOf t head loaded angle o - 125 * o.bypass)
  ∧ (∀ (b : Battery) (d : DriveNo) (head : Option Nat) (loaded : Bool) (angle : Nat) (o : Order),
       b.ok → (∀ h, head = some h → h ≤ 76) → o.cyl ≤ 76 → o.first ≤ 7 →
       costOf (b.timing d) head loaded angle o ≤ 14859 ∧ effectiveCost (b.timing d) head loaded angle o ≤ 14859)
  ∧ (∃ (b : Battery) (angle : Nat) (o : Order), b.ok ∧ o.cyl ≤ 76 ∧ o.first ≤ 7 ∧ angle ≤ 999 ∧ o.bypass = 0 ∧
       costOf (b.timing 0) none true angle o = 14859 ∧ effectiveCost (b.timing 0) none true angle o = 14859)
  ∧ (∃ (b : Battery) (angle : Nat) (o : Order), b.ok ∧ o.cyl ≤ 76 ∧ o.first ≤ 7 ∧ angle ≤ 999 ∧
       effectiveCost (b.timing 0) (some o.cyl) true angle o = 0)

/-- R57, R58: the choice among orders: there is one where there are any; it is the oldest due one where one is due, else
the oldest of those of least effective cost. The order chosen leaves the queue, and every other eligible order of its
class there counts one more bypass, up to 8. R54, R104: a READ is eligible when it holds its buffers, or its count is
free and within the 8 of its request; a COPY READ when it holds its 8, or 8 are free; every other order always. R54,
R181: an order without buffers takes them as it is placed in service: a READ its count, for its request to deliver; a
COPY READ 8, of which those whose sector is no story sector are filled with zeros. R82, R85, R90, R92, R100: a placed
order has its write-protect sample due, no preemption stands, the unload count is stopped, and its positioning begins,
with a recalibration for a RECALIBRATE; R181: a COPY READ with no sectors ends DONE at once. The model's own: an order
whose third attempt's recalibration was not begun before it was preempted is given it when it is chosen again (log 14),
and of the free buffers the lowest-numbered are taken (log 42). R54 to R58: a selection on a drive: the choice is among
the eligible queued orders of the highest class, and the order chosen is placed in service; a suspended order on top of
the stack is resumed instead where no eligible order is of a higher class. -/
def Obligations.TheChoiceOfAnOrder : Prop :=
  (∀ (cost : Order → Nat) (os : List Order),
    (chooseOrder cost os = none ↔ os = [])
    ∧ ∀ o, chooseOrder cost os = some o → ∃ before after, os = before ++ o :: after ∧
      ((o.bypass = 8 ∧ ∀ p ∈ before, p.bypass ≠ 8)
        ∨ ((∀ p ∈ os, p.bypass ≠ 8) ∧ (∀ p ∈ before, cost o < cost p) ∧ ∀ p ∈ after, cost o ≤ cost p)))
  ∧ (∀ (o : Order) (eligible queue : List Order), passedOver o eligible queue
      = (queue.filter (fun x => decide (x.arrival ≠ o.arrival))).map (fun x =>
        if x ∈ eligible ∧ x.cls = o.cls then { x with bypass := min (x.bypass + 1) 8 } else x))
  ∧ (∀ (v : Vol) (o : Order),
      let free := (List.finRange 40).filter (fun x => decide ((v.buf x).owner = none))
      let held := (List.finRange 40).filter (fun x => decide ((v.buf x).owner = some o.req))
      (o.kind = .read →
        (v.eligible o = true ↔ o.buffers ≠ [] ∨ o.count ≤ free.length ∧ held.length + o.count ≤ 8))
      ∧ (o.kind = .copyRead → (v.eligible o = true ↔ o.buffers ≠ [] ∨ 8 ≤ free.length))
      ∧ (o.kind ≠ .read → o.kind ≠ .copyRead → v.eligible o = true))
  ∧ (∀ (b : Battery) (v : Vol) (d : DriveNo) (o : Order),
      let served := fun (w : Vol) (p : Order) =>
        (w.modSched d (fun s => { s with service := some { p with sampled := false }, pending := false })).modSeq d (fun q =>
          { q with job := .order, phase := .positioning, unload := none, idleDue := true })
      let recalibrates := fun (w : Vol) => (w.modSeq d (fun q => { q with cyl := none, recal := none })).go b d
      let begins := fun (w : Vol) (p : Order) =>
        if p.kind = .recalibrate then recalibrates (served w p)
        else if p.tries.attempt = 3 ∧ p.tries.recalBegun = false then
          recalibrates (served w { p with tries := { p.tries with recalBegun := true } })
        else (served w p).go b d
      let taken := fun (n : Nat) => ((List.finRange 40).filter (fun x => decide ((v.buf x).owner = none))).take n
      let story := fun (k : Nat) => o.first ≤ k ∧ k < o.first + o.count ∧ k ∉ o.skip
      (o.kind ≠ .read → o.kind ≠ .copyRead → v.placeInService b d o = begins v o)
      ∧ (o.kind = .read →
        (o.buffers ≠ [] → v.placeInService b d o = begins v o)
        ∧ (o.buffers = [] → v.placeInService b d o = begins
          ({ v with pool := Vector.ofFn (fun x =>
              if x ∈ taken o.count then { v.buf x with owner := some o.req } else v.buf x) }.modReq o.req (fun q =>
            { q with chain := q.chain ++ taken o.count })) { o with buffers := taken o.count }))
      ∧ (o.kind = .copyRead →
        let done := fun (w : Vol) (p : Order) =>
          v.placeInService b d o = if o.count = 0 then (served w p).orderEnd b d .done else begins w p
        (o.buffers ≠ [] → done v o)
        ∧ (o.buffers = [] → done
          { v with pool := Vector.ofFn (fun x =>
              if x ∈ taken 8 then { owner := some o.req, data := if story ((taken 8).idxOf x) then (v.buf x).data
                                                                 else List.replicate 1024 0 }
              else v.buf x) } { o with buffers := taken 8 })))
  ∧ ∀ (b : Battery) (v : Vol) (d : DriveNo),
      let x := v.drive d
      let es := x.sched.queue.filter v.eligible
      let highest := es.filter (fun o => es.all (fun p => decide (p.cls.rank ≤ o.cls.rank)))
      let chosen := chooseOrder
        (effectiveCost (b.timing d) x.seq.reported (decide (x.seq.head = .loaded)) x.seq.angle) highest
      let fresh := match chosen with
        | none => v
        | some o => (v.modSched d (fun s => { s with queue := passedOver o es s.queue })).placeInService b d o
      (chosen = none ↔ es = [])
      ∧ (x.sched.stack = [] → v.select b d = fresh)
      ∧ ∀ below top, x.sched.stack = below ++ [top] →
        ((∀ p ∈ es, p.cls.rank ≤ top.cls.rank) →
          v.select b d = (v.modSched d (fun s => { s with stack := below })).placeInService b d top)
        ∧ ((∃ p ∈ es, top.cls.rank < p.cls.rank) → v.select b d = fresh)

/-- R65, R66: a queued order preempts the order in service when it is eligible, of a higher class, preempt is on, and
the order in service is not in its verify pass: at once in the early state, the preempted order going back to the queue
at its own arrival position, after the orders older than it and before the younger, else at the next boundary. -/
def Obligations.ThePreemptionTest : Prop :=
  (∀ (b : Battery) (v : Vol) (d : DriveNo) (a : Nat) (x y : Order),
    (v.drive d).sched.service = some x → (v.drive d).sched.queue.find? (fun o => o.arrival == a) = some y →
    (v.preempts b d a = true ↔ (v.eligible y = true ∧ x.cls.rank < y.cls.rank
      ∧ (b.settings.drives[d]).preempt = 1 ∧ x.pass ≠ .verify))
    ∧ ((v.drive d).early = true ↔ (x.progress = 0 ∧ x.pass ≠ .verify ∧ (v.drive d).seq.phase ≠ .transfer))
    ∧ ((v.drive d).early = true → v.preempt b d = (v.modDrive d (fun z =>
        { z with seq := { z.seq with job := .none, phase := .idle, recal := none, idleDue := true },
                 sched := { z.sched with service := none, pending := false,
                                         queue := insertByArrival x z.sched.queue } })).select b d)
    ∧ ((v.drive d).early = false → v.preempt b d = v.modSched d (fun z => { z with pending := true })))
  ∧ (∀ (o : Order) (queue : List Order), ∃ older younger, queue = older ++ younger
      ∧ insertByArrival o queue = older ++ o :: younger
      ∧ (∀ p ∈ older, p.arrival ≤ o.arrival) ∧ (∀ p, younger.head? = some p → o.arrival < p.arrival)
      ∧ (queue.Pairwise (fun p q => p.arrival < q.arrival) → ∀ p ∈ younger, o.arrival < p.arrival))

/-- R37, R38, R42, R45: at the end of a CATALOG WRITE no catalog write is left on its entry. One that completed puts the
new image in service, a FREE slot for a SPIKE, with no reservation; one that failed leaves the image that was served.
The catalog fault condition is set by a failure other than WRITE PROTECTED, and stands otherwise. R23, R26, R37, R42: on
completion the old version is retired first: its sectors join the free set, its claimed record, if any, becoming free,
or, while it has readers, they go with them to that record. R33, R38, R118: on failure the claimed record becomes free,
and a filing that ends lets its pending sectors back into the free set, the suspect ones excepted, with its reservation
and its buffers. R36: after it every FETCH and DRAW that waited on that slot goes on, as FetchAndDrawOpenTheirRequests
says; the model's own: in the order of their admission (log 25). -/
def Obligations.TheEndOfACatalogWrite : Prop :=
  (∀ (b : Battery) (v : Vol) (r : ReqId) (q : Request) (e : Entry) (w : CatWrite) (oc : OutcomeCode),
    v.req r = some q → v.entry q.drive q.slot = some e → e.catWrite = some w →
    (∃ e', (v.catalogWriteEnd b r oc).entry q.drive q.slot = some e' ∧ e'.catWrite = none
      ∧ (oc = .done → q.kind ≠ .spike → e'.image = w.image ∧ e'.reserved = none ∧ e'.filing = none)
      ∧ (oc = .done → q.kind = .spike → e'.image = SlotImage.freeImage ∧ e'.spike = none)
      ∧ (oc ≠ .done → e'.image = e.image)
      ∧ ((v.catalogWriteEnd b r oc).drive q.drive).cat.fault
        = ((v.drive q.drive).cat.fault || (oc != .done && oc != .writeProtected)))
    ∧ (oc = .done → q.kind = .spike → v.catalogWriteEnd b r oc
      = ((((v.retireOld q.drive q.slot e w).modEntry q.drive q.slot (fun e =>
          { e with image := SlotImage.freeImage, readers := 0, catWrite := none, spike := none, holder := none })).leaveEntry
            q.drive q.slot).finish r .done [] false).wake b q.drive q.slot)
    ∧ (oc = .done → q.kind ≠ .spike → ∀ ses, q.session = some ses →
      let dropped := e.holder = some (reqLine r) ∧ ses.keepHold = false
        ∧ v.drawOpen (reqLine r) q.drive q.slot = false
      v.catalogWriteEnd b r oc
      = ((((v.retireOld q.drive q.slot e w).modEntry q.drive q.slot (fun x =>
          { x with image := w.image, readers := 0, reserved := none, catWrite := none, filing := none,
                   holder := if dropped then none else x.holder })).modSession r (fun t =>
            { t with pending := [] })).finish r .done (be16 w.image.revision ++ w.image.timestamp) false).wake b q.drive
              q.slot)
    ∧ (oc ≠ .done →
      let freed := match w.record with
        | none => v
        | some k => v.setRecord k .free
      let after := freed.modEntry q.drive q.slot (fun e => { e with catWrite := none })
      v.catalogWriteEnd b r oc = ((if oc = .writeProtected then after
        else after.modCat q.drive (fun c => { c with fault := true })).finish r oc [] false).wake b q.drive q.slot))
  ∧ (∀ (v : Vol) (d : DriveNo) (slot : Nat) (e : Entry) (w : CatWrite),
      let joins := fun (v : Vol) => v.modMirror d (fun m =>
        { m with free := addSectors m.free (extentSectors e.image.extents) })
      (w.record = none → v.retireOld d slot e w = joins v)
      ∧ (∀ k, w.record = some k → e.readers = 0 → v.retireOld d slot e w = joins (v.setRecord k .free))
      ∧ ∀ k, w.record = some k → 0 < e.readers →
        (v.retireOld d slot e w).record k = .inUse d e.image.extents e.readers
        ∧ (v.retireOld d slot e w).mirror d = v.mirror d
        ∧ ∀ r q, v.req r = some q → (v.retireOld d slot e w).req r = some
          (if q.drive = d ∧ q.version = some (.entry slot) then { q with version := some (.record k) } else q))
  ∧ (∀ (free xs : List Nat) (x : Nat), x ∈ addSectors free xs ↔ x ∈ free ∨ x ∈ xs)
  ∧ (∀ (v : Vol) (r : ReqId) (q : Request) (ses : Session) (oc : OutcomeCode),
      v.req r = some q → q.kind = .file → q.version = none → q.session = some ses →
      v.letGo r oc = ((v.modMirror q.drive (fun m =>
          { m with free := addSectors m.free ((extentSectors ses.pending).filter (fun x => decide (x ∉ m.suspect))) })).modEntry
        q.drive q.slot (fun e => if e.filing = some r then { e with filing := none, reserved := none } else e)).returnAll r)
  ∧ (∀ (b : Battery) (v : Vol) (d : DriveNo) (slot : Nat), ∃ rs : List ReqId, rs.Nodup
      ∧ (∀ r, r ∈ rs ↔ ∃ q, v.req r = some q ∧ (q.kind = .fetch ∨ q.kind = .draw) ∧ q.stage = .waiting ∧ q.drive = d
          ∧ q.slot = slot)
      ∧ rs.Pairwise (fun a c => ∀ p q, v.req a = some p → v.req c = some q → p.admitted ≤ q.admitted)
      ∧ v.wake b d slot = rs.foldl (fun w r => w.proceed b r) v)

/-- R31, R32: the search goes from the start point to the last sector and on from sector 0 to it; a run is of
neighbouring sectors of the free set on one track side that it meets in a row. The run taken for n buffers is the first n
sectors of the first run of at least n; where there is none that long, it is the first of the longest runs. Nothing is
taken only where the free set is empty. -/
def Obligations.TheRunTakenForAWrite : Prop :=
  ∀ (free : List Nat) (start n : Nat), 1 ≤ n → n ≤ 8 → free.Pairwise (fun x y => x < y) →
    let row := fun (y m : Nat) =>
      (∀ i, i < m → y + i ∈ free) ∧ y / 8 = (y + m - 1) / 8 ∧ ∀ i, 1 ≤ i → i < m → y + i ≠ start
    let before := fun (y x : Nat) => (start ≤ y ∧ (x < start ∨ y < x)) ∨ (y < start ∧ x < start ∧ y < x)
    (chooseRun free start n = none ↔ free = [])
    ∧ ∀ x k, chooseRun free start n = some (x, k) →
      1 ≤ k ∧ k ≤ n ∧ row x k ∧ (∀ y, before y x → ¬ row y k) ∧ (k < n → ∀ y, ¬ row y (k + 1))

/-- R9: the data index of a data sector lies below 1216 and is its own; the rule's two instances. -/
def Obligations.DataIndicesAreTheirOwn : Prop :=
  (∀ c h n, 1 ≤ c → c ≤ 76 → h ≤ 1 → n ≤ 7 → dataIndex c h n < 1216)
  ∧ (∀ c h n c' h' n', 1 ≤ c → c ≤ 76 → h ≤ 1 → n ≤ 7 → 1 ≤ c' → c' ≤ 76 → h' ≤ 1 → n' ≤ 7 →
      dataIndex c h n = dataIndex c' h' n' → c = c' ∧ h = h' ∧ n = n')
  ∧ dataIndex 30 1 5 = 477 ∧ dataIndex 76 1 7 = 1215

/-- R165: every minute of the day lies in exactly one arc of an entry: OPEN from the open time for the span less the
lead, WARNING for the lead, CLOSED for the rest; the OPEN arc and the CLOSED arc are not empty. -/
def Obligations.TheArcsOfAnEdition : Prop :=
  ∀ e : Edition, e.ok = true →
    (∀ i, i < e.span - e.lead → e.arcState ((e.opens + i) % 1440) = .opened)
    ∧ (∀ i, e.span - e.lead ≤ i → i < e.span → e.arcState ((e.opens + i) % 1440) = .warning)
    ∧ (∀ i, e.span ≤ i → i < 1440 → e.arcState ((e.opens + i) % 1440) = .closed)
    ∧ (e.opens + e.span) % 1440 = e.closes ∧ 1 ≤ e.span - e.lead ∧ e.span ≤ 1439

/-- R159: a carry into the minute, field by field, with the month lengths and the rule's instance; a carry into the hour
fixes the length of the second that begins (R158). -/
def Obligations.CarriesThroughTheCalendar : Prop :=
  (∀ c : Clock, c.mi ≠ 59 → c.carryMinute = { c with mi := c.mi + 1, ss := 0, prescaler := 0, secondLength := 32768 })
  ∧ (∀ c : Clock, c.mi = 59 → c.hh ≠ 23 → c.carryMinute
      = { c with hh := c.hh + 1, mi := 0, ss := 0, prescaler := 0, secondLength := (32768 - c.trim).toNat })
  ∧ (∀ c : Clock, c.mi = 59 → c.hh = 23 → c.dd ≠ monthDays c.yy c.mm → c.carryMinute
      = { c with dd := c.dd + 1, hh := 0, mi := 0, ss := 0, prescaler := 0, secondLength := (32768 - c.trim).toNat })
  ∧ (∀ c : Clock, c.mi = 59 → c.hh = 23 → c.dd = monthDays c.yy c.mm → c.mm ≠ 12 → c.carryMinute
      = { c with mm := c.mm + 1, dd := 1, hh := 0, mi := 0, ss := 0, prescaler := 0,
                 secondLength := (32768 - c.trim).toNat })
  ∧ (∀ c : Clock, c.mi = 59 → c.hh = 23 → c.dd = monthDays c.yy c.mm → c.mm = 12 → c.carryMinute
      = { c with yy := if c.yy = 99 then 0 else c.yy + 1, mm := 1, dd := 1, hh := 0, mi := 0, ss := 0,
                 prescaler := 0, secondLength := (32768 - c.trim).toNat })
  ∧ (∀ yy, yy ≤ 99 → (List.range 12).map (fun i => monthDays yy (i + 1))
      = [31, if yy % 4 = 0 then 29 else 28, 31, 30, 31, 30, 31, 31, 30, 31, 30, 31])
  ∧ ({ Clock.default with yy := 99, mm := 12, dd := 31, hh := 23, mi := 59, ss := 59 } : Clock).endSecond
      = Clock.default

/-- R126, R127: the bytes of an envelope, taken one after another by an assembler in HUNT, are taken as its body. -/
def Obligations.AnEnvelopeIsTakenAsItsBody : Prop :=
  ∀ (k : Line) (body : List Byte) (b : Battery) (v : Vol),
    2 ≤ body.length → body.length ≤ 260 → (v.port k).detector = .idle → (v.port k).assembler = .hunt →
    let w := v.modPort k (fun p => { p with assembler := .hunt, gapTimer := false, silenceTimer := false })
    (envelope body).foldl (fun p x => takeByte k x p.1 p.2) (b, v)
      = if w.passes b k then takeBody k body b w else (b, w)
end

