-- ==== Sys2Proof/Laws/Diskette.lean ====
section
/-! SUPPORT. The diskette: reading after a store, and the canonical form every store keeps. -/

namespace Sys2Proof

/-- The form of one sector. -/
def Sector.form (x : Sector) : Bool := x.header.form && x.data.form

@[simp] theorem Sector.blank_form : Sector.blank.form = true := rfl

/-! ## Keys -/

theorem addressOk_iff (c h n : Nat) : addressOk c h n = true ↔ c ≤ 76 ∧ h ≤ 1 ∧ n ≤ 7 := by
  unfold addressOk
  simp only [Bool.and_eq_true, decide_eq_true_eq, and_assoc]
  exact Iff.rfl

theorem sectorKey_lt {c h n : Nat} (a : addressOk c h n = true) : sectorKey c h n < 1232 := by
  rw [addressOk_iff] at a
  unfold sectorKey
  omega

theorem sectorKey_inj {c h n c' h' n' : Nat} (a : addressOk c h n = true) (a' : addressOk c' h' n' = true)
    (e : sectorKey c h n = sectorKey c' h' n') : c = c' ∧ h = h' ∧ n = n' := by
  rw [addressOk_iff] at a a'
  unfold sectorKey at e
  omega

/-! ## Reading after a store -/

theorem sectorsGet_put_ne {k j : Nat} (h : j ≠ k) (x : Sector) (l : List (Nat × Sector)) :
    sectorsGet (sectorsPut l k x) j = sectorsGet l j := by
  induction l with
  | nil =>
    unfold sectorsPut
    split <;> simp [sectorsGet, Ne.symm h]
  | cons p rest ih =>
    obtain ⟨i, y⟩ := p
    unfold sectorsPut
    by_cases hlt : k < i
    · by_cases hb : x = Sector.blank <;> simp [hlt, hb, sectorsGet, Ne.symm h]
    · by_cases he : k = i
      · subst he
        by_cases hb : x = Sector.blank <;> simp [hb, sectorsGet, Ne.symm h]
      · simp [hlt, he, sectorsGet, ih]

/-- Every key of a list is at least a bound. -/
def keysFrom (b : Nat) (l : List (Nat × Sector)) : Prop := ∀ p ∈ l, b ≤ p.1

theorem sectorsForm_tail {p : Nat × Sector} {l : List (Nat × Sector)} (h : sectorsForm (p :: l) = true) :
    sectorsForm l = true := by
  obtain ⟨i, y⟩ := p
  simp only [sectorsForm, Bool.and_eq_true] at h
  exact h.2

theorem sectorsForm_keys {i : Nat} {y : Sector} {l : List (Nat × Sector)}
    (h : sectorsForm ((i, y) :: l) = true) : keysFrom (i + 1) l := by
  induction l generalizing i y with
  | nil => intro p hp; cases hp
  | cons q rest ih =>
    obtain ⟨j, z⟩ := q
    have hij : i < j := by
      simp only [sectorsForm, Bool.and_eq_true, decide_eq_true_eq] at h
      exact h.1.2
    intro p hp
    cases hp with
    | head => exact hij
    | tail _ hp => exact le_trans (by omega) (ih (sectorsForm_tail h) p hp)

theorem sectorsGet_of_keysFrom {k : Nat} {l : List (Nat × Sector)} (h : keysFrom (k + 1) l) :
    sectorsGet l k = Sector.blank := by
  induction l with
  | nil => rfl
  | cons q rest ih =>
    obtain ⟨j, z⟩ := q
    have hj : k + 1 ≤ j := h (j, z) List.mem_cons_self
    have : j ≠ k := by omega
    simp only [sectorsGet, this, if_false]
    exact ih (fun p hp => h p (List.mem_cons_of_mem _ hp))

theorem sectorsGet_put_self {k : Nat} (x : Sector) {l : List (Nat × Sector)} (h : sectorsForm l = true) :
    sectorsGet (sectorsPut l k x) k = x := by
  induction l with
  | nil =>
    unfold sectorsPut
    split <;> simp_all [sectorsGet]
  | cons p rest ih =>
    obtain ⟨i, y⟩ := p
    have hk := sectorsForm_keys h
    have hrest := sectorsForm_tail h
    unfold sectorsPut
    by_cases hlt : k < i
    · by_cases hb : x = Sector.blank
      · have hne : i ≠ k := by omega
        simp only [hlt, hb, if_true, sectorsGet, hne, if_false]
        exact sectorsGet_of_keysFrom (fun p hp => le_trans (by omega) (hk p hp))
      · simp [hlt, hb, sectorsGet]
    · by_cases he : k = i
      · subst he
        by_cases hb : x = Sector.blank
        · simp only [lt_irrefl, if_false, if_true, hb]
          exact sectorsGet_of_keysFrom hk
        · simp [hb, sectorsGet]
      · have hne : i ≠ k := fun e => he e.symm
        simp [hlt, he, sectorsGet, hne, ih hrest]

/-! ## The canonical form -/

theorem sectorsForm_cons {i : Nat} {y : Sector} {l : List (Nat × Sector)} :
    sectorsForm ((i, y) :: l) = true ↔
      i < 1232 ∧ y.form = true ∧ y ≠ Sector.blank ∧ keysFrom (i + 1) l ∧ sectorsForm l = true := by
  constructor
  · intro h
    refine ⟨?_, ?_, ?_, sectorsForm_keys h, sectorsForm_tail h⟩ <;>
      simp only [sectorsForm, Bool.and_eq_true, decide_eq_true_eq, Bool.not_eq_true', beq_eq_false_iff_ne] at h
    · exact h.1.1.1.1.1
    · simp [Sector.form, h.1.1.1.1.2, h.1.1.1.2]
    · exact h.1.1.2
  · rintro ⟨hi, hf, hb, hk, hl⟩
    simp only [Sector.form, Bool.and_eq_true] at hf
    have hb' : (y == (⟨HeaderField.absent, DataField.bad⟩ : Sector)) = false := by
      simpa [Sector.blank] using hb
    cases l with
    | nil => simp [sectorsForm, hi, hf.1, hf.2, hb']
    | cons q rest =>
      obtain ⟨j, z⟩ := q
      have hj : i + 1 ≤ j := hk (j, z) List.mem_cons_self
      unfold sectorsForm
      simp [hi, hf.1, hf.2, hb', hl, show i < j by omega]

theorem keysFrom_put {b k : Nat} (x : Sector) {l : List (Nat × Sector)} (hb : b ≤ k) (h : keysFrom b l) :
    keysFrom b (sectorsPut l k x) := by
  induction l with
  | nil =>
    unfold sectorsPut
    split
    · exact h
    · intro p hp; simp at hp; subst hp; exact hb
  | cons q rest ih =>
    obtain ⟨j, z⟩ := q
    have hrest : keysFrom b rest := fun p hp => h p (List.mem_cons_of_mem _ hp)
    have hj : b ≤ j := h (j, z) List.mem_cons_self
    unfold sectorsPut
    intro p hp
    split at hp
    · split at hp
      · exact h p hp
      · cases hp with
        | head => exact hb
        | tail _ hp => exact h p hp
    · split at hp
      · split at hp
        · exact hrest p hp
        · cases hp with
          | head => exact hb
          | tail _ hp => exact hrest p hp
      · cases hp with
        | head => exact hj
        | tail _ hp => exact ih hrest p hp

/-- A sector of good form stored under a key of the geometry keeps the canonical form. -/
theorem sectorsForm_put {k : Nat} {x : Sector} {l : List (Nat × Sector)} (hk : k < 1232) (hx : x.form = true)
    (h : sectorsForm l = true) : sectorsForm (sectorsPut l k x) = true := by
  induction l with
  | nil =>
    unfold sectorsPut
    split
    · rfl
    · next hb => exact sectorsForm_cons.mpr ⟨hk, hx, hb, List.forall_mem_nil _, rfl⟩
  | cons q rest ih =>
    obtain ⟨i, y⟩ := q
    obtain ⟨hi, hy, hyb, hik, hrest⟩ := sectorsForm_cons.mp h
    unfold sectorsPut
    by_cases hlt : k < i
    · by_cases hb : x = Sector.blank
      · simpa [hlt, hb] using h
      · simp only [hlt, if_true, hb, if_false]
        refine sectorsForm_cons.mpr ⟨hk, hx, hb, ?_, h⟩
        intro p hp
        cases hp with
        | head => exact hlt
        | tail _ hp => exact le_trans (by omega) (hik p hp)
    · by_cases he : k = i
      · subst he
        by_cases hb : x = Sector.blank
        · simpa [hb] using hrest
        · simp only [lt_irrefl, if_false, if_true, hb]
          exact sectorsForm_cons.mpr ⟨hk, hx, hb, hik, hrest⟩
      · simp only [hlt, if_false, he]
        exact sectorsForm_cons.mpr ⟨hi, hy, hyb, keysFrom_put x (by omega) hik, ih hrest⟩

theorem sectorsGet_form {k : Nat} {l : List (Nat × Sector)} (h : sectorsForm l = true) :
    (sectorsGet l k).form = true := by
  induction l with
  | nil => rfl
  | cons q rest ih =>
    obtain ⟨i, y⟩ := q
    unfold sectorsGet
    split
    · exact (sectorsForm_cons.mp h).2.1
    · exact ih (sectorsForm_tail h)

/-! ## The operations on a diskette -/

theorem Diskette.sector_put_ne {m : Diskette} {c h n c' h' n' : Nat} {x : Sector}
    (a' : addressOk c' h' n' = true) (e : (c', h', n') ≠ (c, h, n)) :
    (m.put c h n x).sector c' h' n' = m.sector c' h' n' := by
  unfold Diskette.put
  split
  · next a =>
    refine sectorsGet_put_ne (fun k => e ?_) x m.sectors
    obtain ⟨rfl, rfl, rfl⟩ := sectorKey_inj a' a k
    rfl
  · rfl

theorem Diskette.sector_put_self {m : Diskette} {c h n : Nat} {x : Sector} (a : addressOk c h n = true)
    (w : m.wf = true) : (m.put c h n x).sector c h n = x := by
  unfold Diskette.put Diskette.sector
  rw [if_pos a]
  exact sectorsGet_put_self x w

theorem Diskette.put_wf {m : Diskette} {c h n : Nat} {x : Sector} (hx : addressOk c h n = true → x.form = true)
    (w : m.wf = true) : (m.put c h n x).wf = true := by
  unfold Diskette.put
  split
  · next a => exact sectorsForm_put (sectorKey_lt a) (hx a) w
  · exact w

@[simp] theorem sectorOf_length (bs : List Byte) : (sectorOf bs).length = Config.sectorBytes := by
  simp only [sectorOf, padTo, List.length_append, List.length_take, List.length_replicate]
  omega

theorem Diskette.sector_form {m : Diskette} (w : m.wf = true) (c h n : Nat) : (m.sector c h n).form = true :=
  sectorsGet_form w

theorem Diskette.writeData_wf {m : Diskette} (w : m.wf = true) (c h n : Nat) (bs : List Byte) :
    (m.writeData c h n bs).wf = true := by
  refine Diskette.put_wf (fun _ => ?_) w
  have := Diskette.sector_form w c h n
  simp only [Sector.form, Bool.and_eq_true] at this ⊢
  exact ⟨this.1, by simp [DataField.form]⟩

theorem Diskette.spoilData_wf {m : Diskette} (w : m.wf = true) (c h n : Nat) : (m.spoilData c h n).wf = true := by
  refine Diskette.put_wf (fun _ => ?_) w
  have := Diskette.sector_form w c h n
  simp only [Sector.form, Bool.and_eq_true] at this ⊢
  exact ⟨this.1, rfl⟩

theorem goodHeader_form {c h n : Nat} (a : addressOk c h n = true) : (HeaderField.good c h n 3).form = true := by
  rw [addressOk_iff] at a
  simp [HeaderField.form]
  omega

theorem zeroSector_form : (DataField.good zeroSector).form = true := by
  simp [DataField.form, zeroSector]

theorem Diskette.format_wf {m : Diskette} (w : m.wf = true) (c h n : Nat) : (m.format c h n).wf = true := by
  refine Diskette.put_wf (fun a => ?_) w
  simp [Sector.form, goodHeader_form a, zeroSector_form]

theorem Diskette.spoilFormat_wf {m : Diskette} (w : m.wf = true) (c h n : Nat) (how : BitVec 2) :
    (m.spoilFormat c h n how).wf = true := by
  have hs := Diskette.sector_form w c h n
  simp only [Sector.form, Bool.and_eq_true] at hs
  unfold Diskette.spoilFormat
  repeat' split
  · exact Diskette.put_wf (fun _ => by simp [Sector.form, HeaderField.form, hs.2]) w
  · exact Diskette.put_wf (fun a => by simp [Sector.form, goodHeader_form a, DataField.form]) w
  · exact Diskette.put_wf (fun _ => rfl) w
  · exact Diskette.put_wf (fun _ => by simp [Sector.form, HeaderField.form, zeroSector_form]) w

theorem Diskette.writeData_ne {m : Diskette} {c h n c' h' n' : Nat} (bs : List Byte)
    (a' : addressOk c' h' n' = true) (e : (c', h', n') ≠ (c, h, n)) :
    (m.writeData c h n bs).sector c' h' n' = m.sector c' h' n' := Diskette.sector_put_ne a' e

theorem Diskette.format_ne {m : Diskette} {c h n c' h' n' : Nat} (a' : addressOk c' h' n' = true)
    (e : (c', h', n') ≠ (c, h, n)) : (m.format c h n).sector c' h' n' = m.sector c' h' n' :=
  Diskette.sector_put_ne a' e

end Sys2Proof
end

