-- ==== Sys2Proof/Laws/Outside.lean ====
section
/-! SUPPORT. What the operations on requests, orders and catalogs do not reach: each leaves Vol.outside as it was. -/

set_option linter.unusedSimpArgs false
set_option linter.unusedTactic false
set_option linter.unreachableTactic false

namespace Sys2Proof.Machine



theorem Vector.map_set_eq {α β : Type} {n : Nat} (f : α → β) (xs : Vector α n) (i : Nat) (h : i < n) (x : α)
    (e : f x = f xs[i]) : (xs.set i x).map f = xs.map f := by
  ext j hj
  simp only [Vector.getElem_map, Vector.getElem_set]
  split
  · next hij => subst hij; exact e
  · rfl

theorem Vol.outside_modPort (v : Vol) (k : Line) (f : Port → Port) (h : ∀ p, (f p).face = p.face) :
    (v.modPort k f).outside = v.outside := by
  simp only [Vol.outside, Vol.modPort, Outside.mk.injEq, true_and, Fin.getElem_fin]
  exact Vector.map_set_eq _ _ _ _ _ (h _)

theorem Vol.outside_modDrive (v : Vol) (d : DriveNo) (f : Drive → Drive) (h : ∀ x, (f x).cable = x.cable) :
    (v.modDrive d f).outside = v.outside := by
  simp only [Vol.outside, Vol.modDrive, Outside.mk.injEq, true_and, Fin.getElem_fin, and_true]
  exact Vector.map_set_eq _ _ _ _ _ (h _)

theorem Vol.outside_modDrive_cable (v : Vol) (d : DriveNo) (f : Drive → Drive)
    (h : (f v.drives[d]).cable = (v.drives[d]).cable) : (v.modDrive d f).outside = v.outside := by
  simp only [Vol.outside, Vol.modDrive, Outside.mk.injEq, true_and, Fin.getElem_fin, and_true]
  exact Vector.map_set_eq _ _ _ _ _ h



theorem Vol.outside_foldl {α : Type} (f : Vol → α → Vol) (h : ∀ v x, (f v x).outside = v.outside) (xs : List α)
    (v : Vol) : (xs.foldl f v).outside = v.outside := by
  induction xs generalizing v with
  | nil => rfl
  | cons x xs ih => rw [List.foldl_cons, ih, h]

theorem Vol.outside_takeBuf {v w : Vol} {r : ReqId} {x : BufNo} (h : v.takeBuf r = some (x, w)) :
    w.outside = v.outside := by
  unfold Vol.takeBuf at h
  split at h
  · cases h
  · cases h; rfl

@[simp] theorem Vol.outside_takeBufs (v : Vol) (r : ReqId) (n : Nat) : (v.takeBufs r n).2.outside = v.outside := by
  induction n generalizing v with
  | zero => rfl
  | succ n ih =>
    unfold Vol.takeBufs
    split
    · rfl
    · next h => rw [ih, Vol.outside_takeBuf h]

@[simp] theorem Drive.cable_go (t : Timing) (x : Drive) : (x.go t).cable = x.cable := by
  unfold Drive.go
  split <;> rfl

@[simp] theorem Drive.cable_startLoading (t : Timing) (x : Drive) : (x.startLoading t).cable = x.cable := by
  unfold Drive.startLoading
  rw [Drive.cable_go]

@[simp] theorem Drive.cable_leaveService (x : Drive) : x.leaveService.cable = x.cable := rfl

@[simp] theorem Drive.cable_preemptEarly (x : Drive) : x.preemptEarly.cable = x.cable := by
  unfold Drive.preemptEarly
  split <;> rfl

@[simp] theorem Drive.cable_push (x : Drive) : x.push.cable = x.cable := by
  unfold Drive.push
  split <;> rfl

@[simp] theorem Drive.cable_takeOut (r : ReqId) (x : Drive) : (x.takeOut r).1.cable = x.cable := by
  unfold Drive.takeOut
  repeat' split
  all_goals rfl

@[simp] theorem Vol.outside_leaveService (v : Vol) (d : DriveNo) :
    (v.modDrive d Drive.leaveService).outside = v.outside := Vol.outside_modDrive _ _ _ Drive.cable_leaveService

@[simp] theorem Vol.outside_preemptEarly (v : Vol) (d : DriveNo) :
    (v.modDrive d Drive.preemptEarly).outside = v.outside := Vol.outside_modDrive _ _ _ Drive.cable_preemptEarly

@[simp] theorem Vol.outside_push (v : Vol) (d : DriveNo) :
    (v.modDrive d Drive.push).outside = v.outside := Vol.outside_modDrive _ _ _ Drive.cable_push

/-- The list of preemption tests is not seen from outside. -/
@[simp] theorem Vol.outside_tests (v : Vol) (ts : List (DriveNo × Nat)) :
    ({ v with tests := ts } : Vol).outside = v.outside := rfl

@[simp] theorem Vol.outside_picks (v : Vol) (n : Nat) : ({ v with picks := n } : Vol).outside = v.outside := rfl

@[simp] theorem Vol.outside_onlySupervisor (k : Line) (tag : Byte) (b : Battery) (v : Vol) (go : Battery × Vol)
    (h : go.2.outside = v.outside) : (onlySupervisor k tag b v go).2.outside = v.outside := by
  unfold onlySupervisor Vol.say Vol.answer Vol.addReply
  split
  · exact h
  · exact Vol.outside_modPort v k (fun p => { p with replies := p.replies ++ [_] }) (fun _ => rfl)

@[simp] theorem Vol.outside_modSeq (v : Vol) (d : DriveNo) (f : Sequencer → Sequencer) : (Vol.modSeq v d f).outside = v.outside := Vol.outside_modDrive _ _ _ (fun _ => rfl)

@[simp] theorem Vol.outside_modSched (v : Vol) (d : DriveNo) (f : Scheduler → Scheduler) : (Vol.modSched v d f).outside = v.outside := Vol.outside_modDrive _ _ _ (fun _ => rfl)

@[simp] theorem Vol.outside_modCat (v : Vol) (d : DriveNo) (f : Catalog → Catalog) : (Vol.modCat v d f).outside = v.outside := Vol.outside_modDrive _ _ _ (fun _ => rfl)

@[simp] theorem Vol.outside_modMirror (v : Vol) (d : DriveNo) (f : Mirror → Mirror) : (Vol.modMirror v d f).outside = v.outside := Vol.outside_modDrive _ _ _ (fun _ => rfl)

@[simp] theorem Vol.outside_setReq (v : Vol) (r : ReqId) (q : Option Request) : (Vol.setReq v r q).outside = v.outside := rfl

@[simp] theorem Vol.outside_modReq (v : Vol) (r : ReqId) (f : Request → Request) : (Vol.modReq v r f).outside = v.outside := rfl

@[simp] theorem Vol.outside_nextStamp (v : Vol) : (Vol.nextStamp v).outside = v.outside := rfl

@[simp] theorem Vol.outside_setBuf (v : Vol) (b : BufNo) (x : Buffer) : (Vol.setBuf v b x).outside = v.outside := rfl

@[simp] theorem Vol.outside_returnBuf (v : Vol) (b : BufNo) : (Vol.returnBuf v b).outside = v.outside := rfl

@[simp] theorem Vol.outside_returnBufs (v : Vol) (bs : List BufNo) : (Vol.returnBufs v bs).outside = v.outside := Vol.outside_foldl _ (fun _ _ => by simp) _ _

@[simp] theorem Vol.outside_returnAll (v : Vol) (r : ReqId) : (Vol.returnAll v r).outside = v.outside := by
  unfold Vol.returnAll
  try dsimp only
  repeat' (first | (simp [apply_ite Vol.outside]; done) | split)

@[simp] theorem Vol.outside_fillBuf (v : Vol) (b : BufNo) (bs : List Byte) : (Vol.fillBuf v b bs).outside = v.outside := rfl

@[simp] theorem Vol.outside_readBad (o : Order) (f : FieldRead) (v : Vol) : (v.readBad o f).outside = v.outside := by
  unfold Vol.readBad
  split <;> rfl

@[simp] theorem Vol.outside_writeBuf (v : Vol) (b : BufNo) (start : Nat) (bs : List Byte) : (Vol.writeBuf v b start bs).outside = v.outside := rfl

@[simp] theorem Vol.outside_addReply (v : Vol) (k : Line) (body : ReplyBody) (direct : Bool) (mark : Mark) : (Vol.addReply v k body direct mark).outside = v.outside := by
  simp only [Vol.addReply, Vol.outside_nextStamp]
  exact Vol.outside_modPort _ _ _ (fun _ => rfl)

@[simp] theorem Vol.outside_answer (v : Vol) (k : Line) (tag : Byte) (oc : OutcomeCode) (data : List Byte) : (Vol.answer v k tag oc data).outside = v.outside := by
  unfold Vol.answer
  try dsimp only
  repeat' (first | (simp [apply_ite Vol.outside]; done) | split)

@[simp] theorem Vol.outside_addReqReply (v : Vol) (r : ReqId) (body : List Byte) (direct final : Bool) : (Vol.addReqReply v r body direct final).outside = v.outside := by
  unfold Vol.addReqReply
  try dsimp only
  repeat' (first | (simp [apply_ite Vol.outside]; done) | split)

@[simp] theorem Vol.outside_reqAnswer (v : Vol) (r : ReqId) (oc : OutcomeCode) (data : List Byte) (direct final : Bool) : (Vol.reqAnswer v r oc data direct final).outside = v.outside := by
  unfold Vol.reqAnswer
  try dsimp only
  repeat' (first | (simp [apply_ite Vol.outside]; done) | split)

@[simp] theorem Vol.outside_modNotice (v : Vol) (k : Line) (f : Notice → Notice) : (Vol.modNotice v k f).outside = v.outside := Vol.outside_modPort _ _ _ (fun _ => rfl)

@[simp] theorem Vol.outside_modNotices (v : Vol) (f : Notice → Notice) : (Vol.modNotices v f).outside = v.outside := Vol.outside_foldl _ (fun _ _ => by simp) _ _

@[simp] theorem Vol.outside_driveChange (v : Vol) (d : DriveNo) : (Vol.driveChange v d).outside = v.outside := by
  unfold Vol.driveChange
  try dsimp only
  repeat' (first | (simp [apply_ite Vol.outside]; done) | split)

@[simp] theorem Vol.outside_holdLost (v : Vol) (k : Line) (d : DriveNo) : (Vol.holdLost v k d).outside = v.outside := by
  unfold Vol.holdLost
  try dsimp only
  repeat' (first | (simp [apply_ite Vol.outside]; done) | split)

@[simp] theorem Vol.outside_editionNotices (v : Vol) (warned closed : Byte) : (Vol.editionNotices v warned closed).outside = v.outside := by
  unfold Vol.editionNotices
  try dsimp only
  repeat' (first | (simp [apply_ite Vol.outside]; done) | split)

@[simp] theorem Vol.outside_setMount (v : Vol) (d : DriveNo) (m : MountState) : (Vol.setMount v d m).outside = v.outside := by
  unfold Vol.setMount
  try dsimp only
  repeat' (first | (simp [apply_ite Vol.outside]; done) | split)

@[simp] theorem Vol.outside_changeMount (v : Vol) (d : DriveNo) (m : MountState) : (Vol.changeMount v d m).outside = v.outside := by
  unfold Vol.changeMount
  try dsimp only
  repeat' (first | (simp [apply_ite Vol.outside]; done) | split)

@[simp] theorem Vol.outside_modEntry (v : Vol) (d : DriveNo) (i : Nat) (f : Entry → Entry) : (Vol.modEntry v d i f).outside = v.outside := by
  unfold Vol.modEntry
  try dsimp only
  repeat' (first | (simp [apply_ite Vol.outside]; done) | split)

@[simp] theorem Vol.outside_addFree (v : Vol) (d : DriveNo) (xs : List Nat) : (Vol.addFree v d xs).outside = v.outside := by
  unfold Vol.addFree
  try dsimp only
  repeat' (first | (simp [apply_ite Vol.outside]; done) | split)

@[simp] theorem Vol.outside_dropHold (v : Vol) (d : DriveNo) (i : Nat) : (Vol.dropHold v d i).outside = v.outside := by
  unfold Vol.dropHold
  try dsimp only
  repeat' (first | (simp [apply_ite Vol.outside]; done) | split)

@[simp] theorem Vol.outside_setHold (v : Vol) (d : DriveNo) (i : Nat) (k : Line) : (Vol.setHold v d i k).outside = v.outside := by
  unfold Vol.setHold
  try dsimp only
  repeat' (first | (simp [apply_ite Vol.outside]; done) | split)

@[simp] theorem Vol.outside_dropLine (v : Vol) (k : Line) : (Vol.dropLine v k).outside = v.outside := Vol.outside_foldl _ (fun _ _ => by simp) _ _

@[simp] theorem Vol.outside_loseHolds (v : Vol) (d : DriveNo) : (Vol.loseHolds v d).outside = v.outside := Vol.outside_foldl _ (fun _ _ => by split <;> simp) _ _

@[simp] theorem Vol.outside_setRecord (v : Vol) (k : RecNo) (x : Retired) : (Vol.setRecord v k x).outside = v.outside := rfl

@[simp] theorem Vol.outside_freeRecordsOf (v : Vol) (d : DriveNo) : (Vol.freeRecordsOf v d).outside = v.outside := Vol.outside_foldl _ (fun _ _ => by split <;> simp) _ _

@[simp] theorem Vol.outside_releaseVersion (v : Vol) (d : DriveNo) (x : VersionRef) : (Vol.releaseVersion v d x).outside = v.outside := by
  unfold Vol.releaseVersion
  try dsimp only
  repeat' (first | (simp [apply_ite Vol.outside]; done) | split)

@[simp] theorem Vol.outside_releaseReader (v : Vol) (r : ReqId) : (Vol.releaseReader v r).outside = v.outside := by
  unfold Vol.releaseReader
  try dsimp only
  repeat' (first | (simp [apply_ite Vol.outside]; done) | split)

@[simp] theorem Vol.outside_moveReaders (v : Vol) (d : DriveNo) (i : Nat) (k : RecNo) : (Vol.moveReaders v d i k).outside = v.outside := Vol.outside_foldl _ (fun _ _ => by simp) _ _

@[simp] theorem Vol.outside_go (b : Battery) (d : DriveNo) (v : Vol) : (Vol.go b d v).outside = v.outside := Vol.outside_modDrive _ _ _ (Drive.cable_go _)

@[simp] theorem Vol.outside_startLoading (b : Battery) (d : DriveNo) (v : Vol) : (Vol.startLoading b d v).outside = v.outside := Vol.outside_modDrive _ _ _ (Drive.cable_startLoading _)

@[simp] theorem Vol.outside_makeOrder (b : Battery) (r : ReqId) (d : DriveNo) (kind : OrderKind) (p : OrderPlace) (v : Vol) : (Vol.makeOrder b r d kind p v).outside = v.outside := by
  unfold Vol.makeOrder
  split
  · rfl
  · dsimp only
    split
    · rw [Vol.outside_tests, Vol.outside_modSched]
    · exact Vol.outside_modSched _ _ _

@[simp] theorem Vol.outside_takeOut (v : Vol) (r : ReqId) (d e : DriveNo) :
    (v.takeOut r d e).1.outside = v.outside := by
  unfold Vol.takeOut
  dsimp only
  split
  · exact Vol.outside_modDrive_cable _ _ _ (by simp [Vol.drive])
  · rw [Vol.outside_modDrive_cable, Vol.outside_modDrive_cable]
    · simp [Vol.drive]
    · simp [Vol.drive]

@[simp] theorem Vol.outside_dropDraw (r : ReqId) (q : Request) (oc : OutcomeCode) (v : Vol) : (Vol.dropDraw r q oc v).outside = v.outside := by
  unfold Vol.dropDraw
  try dsimp only
  repeat' (first | (simp [apply_ite Vol.outside]; done) | split)

@[simp] theorem Vol.outside_dropFiling (r : ReqId) (q : Request) (v : Vol) : (Vol.dropFiling r q v).outside = v.outside := by
  unfold Vol.dropFiling
  try dsimp only
  repeat' (first | (simp [apply_ite Vol.outside]; done) | split)

@[simp] theorem Vol.outside_dropSpike (r : ReqId) (q : Request) (v : Vol) : (Vol.dropSpike r q v).outside = v.outside := by
  unfold Vol.dropSpike
  try dsimp only
  repeat' (first | (simp [apply_ite Vol.outside]; done) | split)

@[simp] theorem Vol.outside_letGo (r : ReqId) (oc : OutcomeCode) (v : Vol) : (Vol.letGo r oc v).outside = v.outside := by
  unfold Vol.letGo
  try dsimp only
  repeat' (first | (simp [apply_ite Vol.outside]; done) | split)

@[simp] theorem Vol.outside_finish (r : ReqId) (oc : OutcomeCode) (data : List Byte) (direct : Bool) (v : Vol) : (Vol.finish r oc data direct v).outside = v.outside := by
  unfold Vol.finish
  try dsimp only
  repeat' (first | (simp [apply_ite Vol.outside]; done) | split)

@[simp] theorem Vol.outside_readNext (b : Battery) (r : ReqId) (v : Vol) : (Vol.readNext b r v).outside = v.outside := by
  unfold Vol.readNext
  try dsimp only
  repeat' (first | (simp [apply_ite Vol.outside]; done) | split)

@[simp] theorem Vol.outside_becomeReader (b : Battery) (r : ReqId) (slot : Nat) (direct : Bool) (v : Vol) : (Vol.becomeReader b r slot direct v).outside = v.outside := by
  unfold Vol.becomeReader
  try dsimp only
  repeat' (first | (simp [apply_ite Vol.outside]; done) | split)

@[simp] theorem Vol.outside_proceed (b : Battery) (r : ReqId) (v : Vol) : (Vol.proceed b r v).outside = v.outside := by
  unfold Vol.proceed
  try dsimp only
  repeat' (first | (simp [apply_ite Vol.outside]; done) | split)

@[simp] theorem Vol.outside_wake (b : Battery) (d : DriveNo) (slot : Nat) (v : Vol) : (Vol.wake b d slot v).outside = v.outside := by
  unfold Vol.wake
  refine Vol.outside_foldl _ (fun w r => ?_) _ _
  split
  · rfl
  · split <;> simp

@[simp] theorem Vol.outside_modSession (v : Vol) (r : ReqId) (f : Session → Session) : (Vol.modSession v r f).outside = v.outside := rfl

@[simp] theorem Vol.outside_formWrite (b : Battery) (r : ReqId) (direct : Bool) (v : Vol) : (Vol.formWrite b r direct v).outside = v.outside := by
  unfold Vol.formWrite
  try dsimp only
  repeat' (first | (simp [apply_ite Vol.outside]; done) | split)

theorem Vol.outside_catalogBuffer {v w : Vol} {r : ReqId} {q : Request} {x : BufNo}
    (h : v.catalogBuffer r q = some (x, w)) : w.outside = v.outside := by
  unfold Vol.catalogBuffer at h
  split at h
  · cases h; rfl
  · exact Vol.outside_takeBuf h

@[simp] theorem Vol.outside_enterWrite (b : Battery) (r : ReqId) (v : Vol) : (Vol.enterWrite b r v).outside = v.outside := by
  unfold Vol.enterWrite
  split
  · rfl
  · split
    · next h =>
      have h' : _ = v.outside := Vol.outside_catalogBuffer h
      dsimp only
      split <;> simp [h']
    · rfl

@[simp] theorem Vol.outside_writeDue (b : Battery) (r : ReqId) (v : Vol) : (Vol.writeDue b r v).outside = v.outside := by
  unfold Vol.writeDue
  try dsimp only
  repeat' (first | (simp [apply_ite Vol.outside]; done) | split)

@[simp] theorem Vol.outside_takeForCommit (r : ReqId) (v : Vol) : (Vol.takeForCommit r v).outside = v.outside := by
  unfold Vol.takeForCommit
  split
  · rfl
  · split
    · rfl
    · next h => simp [Vol.outside_takeBuf h]

@[simp] theorem Vol.outside_commitDue (b : Battery) (r : ReqId) (v : Vol) : (Vol.commitDue b r v).outside = v.outside := by
  simp [Vol.commitDue]

@[simp] theorem Vol.outside_leaveEntry (d : DriveNo) (slot : Nat) (v : Vol) : (Vol.leaveEntry d slot v).outside = v.outside :=
  Vol.outside_foldl _ (fun _ _ => by simp) _ _

@[simp] theorem Vol.outside_retireOld (d : DriveNo) (slot : Nat) (e : Entry) (w : CatWrite) (v : Vol) : (Vol.retireOld d slot e w v).outside = v.outside := by
  unfold Vol.retireOld
  try dsimp only
  repeat' (first | (simp [apply_ite Vol.outside]; done) | split)

@[simp] theorem Vol.outside_unclaim (w : CatWrite) (v : Vol) : (Vol.unclaim w v).outside = v.outside := by
  unfold Vol.unclaim
  try dsimp only
  repeat' (first | (simp [apply_ite Vol.outside]; done) | split)

@[simp] theorem Vol.outside_commitDone (b : Battery) (r : ReqId) (q : Request) (e : Entry) (w : CatWrite) (v : Vol) : (Vol.commitDone b r q e w v).outside = v.outside := by
  unfold Vol.commitDone
  try dsimp only
  repeat' (first | (simp [apply_ite Vol.outside]; done) | split)

@[simp] theorem Vol.outside_spikeDone (b : Battery) (r : ReqId) (q : Request) (e : Entry) (w : CatWrite) (v : Vol) : (Vol.spikeDone b r q e w v).outside = v.outside := by
  unfold Vol.spikeDone
  try dsimp only
  repeat' (first | (simp [apply_ite Vol.outside]; done) | split)

@[simp] theorem Vol.outside_catalogWriteFailed (b : Battery) (r : ReqId) (q : Request) (w : CatWrite) (oc : OutcomeCode) (v : Vol) : (Vol.catalogWriteFailed b r q w oc v).outside = v.outside := by
  unfold Vol.catalogWriteFailed
  try dsimp only
  repeat' (first | (simp [apply_ite Vol.outside]; done) | split)

@[simp] theorem Vol.outside_catalogWriteEnd (b : Battery) (r : ReqId) (oc : OutcomeCode) (v : Vol) : (Vol.catalogWriteEnd b r oc v).outside = v.outside := by
  unfold Vol.catalogWriteEnd
  try dsimp only
  repeat' (first | (simp [apply_ite Vol.outside]; done) | split)

@[simp] theorem Vol.outside_formatStops (d : DriveNo) (r : ReqId) (oc : OutcomeCode) (v : Vol) : (Vol.formatStops d r oc v).outside = v.outside := by
  unfold Vol.formatStops
  try dsimp only
  repeat' (first | (simp [apply_ite Vol.outside]; done) | split)

@[simp] theorem Vol.outside_formatReloads (b : Battery) (d : DriveNo) (r : ReqId) (oc : OutcomeCode) (data : List Byte) (direct : Bool) (v : Vol) : (Vol.formatReloads b d r oc data direct v).outside = v.outside := by
  unfold Vol.formatReloads
  try dsimp only
  repeat' (first | (simp [apply_ite Vol.outside]; done) | split)

@[simp] theorem Vol.outside_releaseSource (d : DriveNo) (v : Vol) : (Vol.releaseSource d v).outside = v.outside := by
  unfold Vol.releaseSource
  try dsimp only
  repeat' (first | (simp [apply_ite Vol.outside]; done) | split)

@[simp] theorem Vol.outside_copyEnd (b : Battery) (r : ReqId) (oc : OutcomeCode) (direct : Bool) (v : Vol) : (Vol.copyEnd b r oc direct v).outside = v.outside := by
  unfold Vol.copyEnd
  try dsimp only
  repeat' (first | (simp [apply_ite Vol.outside]; done) | split)

@[simp] theorem Vol.outside_unitProtected (b : Battery) (d : DriveNo) (r : ReqId) (copy : Bool) (kind : UnitKind) (v : Vol) : (Vol.unitProtected b d r copy kind v).outside = v.outside := by
  unfold Vol.unitProtected
  try dsimp only
  repeat' (first | (simp [apply_ite Vol.outside]; done) | split)

@[simp] theorem Vol.outside_placeUnit (b : Battery) (d : DriveNo) (u : UnitWork) (v : Vol) : (Vol.placeUnit b d u v).outside = v.outside := by
  unfold Vol.placeUnit
  try dsimp only
  repeat' (first | (simp [apply_ite Vol.outside]; done) | split)

@[simp] theorem Vol.outside_beginUnit (b : Battery) (d : DriveNo) (r : ReqId) (copy : Bool) (kind : UnitKind) (v : Vol) : (Vol.beginUnit b d r copy kind v).outside = v.outside := by
  unfold Vol.beginUnit
  try dsimp only
  repeat' (first | (simp [apply_ite Vol.outside]; done) | split)

@[simp] theorem Vol.outside_copyReadNext (b : Battery) (r : ReqId) (v : Vol) : (Vol.copyReadNext b r v).outside = v.outside := by
  unfold Vol.copyReadNext
  try dsimp only
  repeat' (first | (simp [apply_ite Vol.outside]; done) | split)

@[simp] theorem Vol.outside_copyAdvance (b : Battery) (r : ReqId) (v : Vol) : (Vol.copyAdvance b r v).outside = v.outside := by
  unfold Vol.copyAdvance
  try dsimp only
  repeat' (first | (simp [apply_ite Vol.outside]; done) | split)

@[simp] theorem Vol.outside_copyWriteNext (b : Battery) (r : ReqId) (o : Order) (v : Vol) : (Vol.copyWriteNext b r o v).outside = v.outside := by
  unfold Vol.copyWriteNext
  try dsimp only
  repeat' (first | (simp [apply_ite Vol.outside]; done) | split)

@[simp] theorem Vol.outside_setEnding (r : ReqId) (oc : OutcomeCode) (v : Vol) : (Vol.setEnding r oc v).outside = v.outside := by
  unfold Vol.setEnding
  try dsimp only
  repeat' (first | (simp [apply_ite Vol.outside]; done) | split)

@[simp] theorem Vol.outside_endWithOrder (r : ReqId) (oc : OutcomeCode) (direct : Bool) (v : Vol) : (Vol.endWithOrder r oc direct v).outside = v.outside := by
  unfold Vol.endWithOrder
  try dsimp only
  repeat' (first | (simp [apply_ite Vol.outside]; done) | split)

@[simp] theorem Vol.outside_copyStops (b : Battery) (r : ReqId) (oc : OutcomeCode) (direct : Bool) (v : Vol) : (Vol.copyStops b r oc direct v).outside = v.outside := by
  unfold Vol.copyStops
  try dsimp only
  repeat' (first | (simp [apply_ite Vol.outside]; done) | split)

@[simp] theorem Vol.outside_cancelRequest (b : Battery) (r : ReqId) (v : Vol) : (Vol.cancelRequest b r v).outside = v.outside := by
  unfold Vol.cancelRequest
  try dsimp only
  repeat' (first | (simp [apply_ite Vol.outside]; done) | split)

@[simp] theorem Vol.outside_fetchOrderDone (b : Battery) (r : ReqId) (v : Vol) : (Vol.fetchOrderDone b r v).outside = v.outside := by
  unfold Vol.fetchOrderDone
  try dsimp only
  repeat' (first | (simp [apply_ite Vol.outside]; done) | split)

@[simp] theorem Vol.outside_writeOrderDone (b : Battery) (r : ReqId) (o : Order) (v : Vol) : (Vol.writeOrderDone b r o v).outside = v.outside := by
  unfold Vol.writeOrderDone
  try dsimp only
  repeat' (first | (simp [apply_ite Vol.outside]; done) | split)

@[simp] theorem Vol.outside_respond (b : Battery) (o : Order) (oc : OutcomeCode) (v : Vol) : (Vol.respond b o oc v).outside = v.outside := by
  unfold Vol.respond
  try dsimp only
  repeat' (first | (simp [apply_ite Vol.outside]; done) | split)

@[simp] theorem Vol.outside_orderEnd (b : Battery) (d : DriveNo) (oc : OutcomeCode) (v : Vol) : (Vol.orderEnd b d oc v).outside = v.outside := by
  unfold Vol.orderEnd
  try dsimp only
  repeat' (first | (simp [apply_ite Vol.outside]; done) | split)

@[simp] theorem Vol.outside_modService (v : Vol) (d : DriveNo) (f : Order → Order) : (Vol.modService v d f).outside = v.outside := by
  unfold Vol.modService
  try dsimp only
  repeat' (first | (simp [apply_ite Vol.outside]; done) | split)

@[simp] theorem Vol.outside_setPhase (v : Vol) (d : DriveNo) (p : Phase) : (Vol.setPhase v d p).outside = v.outside := by
  unfold Vol.setPhase
  try dsimp only
  repeat' (first | (simp [apply_ite Vol.outside]; done) | split)

@[simp] theorem Vol.outside_composeFor (o : Order) (d : DriveNo) (v : Vol) : (Vol.composeFor o d v).outside = v.outside := by
  unfold Vol.composeFor
  try dsimp only
  repeat' (first | (simp [apply_ite Vol.outside]; done) | split)

@[simp] theorem Vol.outside_decidePending (d : DriveNo) (o : Order) (v : Vol) : (Vol.decidePending d o v).outside = v.outside := by
  unfold Vol.decidePending
  try dsimp only
  repeat' (first | (simp [apply_ite Vol.outside]; done) | split)

@[simp] theorem Vol.outside_passEnd (b : Battery) (d : DriveNo) (o : Order) (v : Vol) : (Vol.passEnd b d o v).outside = v.outside := by
  unfold Vol.passEnd
  try dsimp only
  repeat' (first | (simp [apply_ite Vol.outside]; done) | split)

@[simp] theorem Vol.outside_boundary (b : Battery) (d : DriveNo) (v : Vol) : (Vol.boundary b d v).outside = v.outside := by
  unfold Vol.boundary
  try dsimp only
  repeat' (first | (simp [apply_ite Vol.outside]; done) | split)

@[simp] theorem Vol.outside_sectorCompleted (b : Battery) (d : DriveNo) (o : Order) (v : Vol) : (Vol.sectorCompleted b d o v).outside = v.outside := by
  unfold Vol.sectorCompleted
  try dsimp only
  repeat' (first | (simp [apply_ite Vol.outside]; done) | split)

@[simp] theorem Vol.outside_nextAttempt (b : Battery) (d : DriveNo) (t : Tries) (v : Vol) : (Vol.nextAttempt b d t v).outside = v.outside := by
  unfold Vol.nextAttempt
  try dsimp only
  repeat' (first | (simp [apply_ite Vol.outside]; done) | split)

@[simp] theorem Vol.outside_attemptFailed (b : Battery) (d : DriveNo) (o : Order) (bad mispositioned : Bool) (v : Vol) : (Vol.attemptFailed b d o bad mispositioned v).outside = v.outside := by
  unfold Vol.attemptFailed
  try dsimp only
  repeat' (first | (simp [apply_ite Vol.outside]; done) | split)

@[simp] theorem Vol.outside_suspect (d : DriveNo) (o : Order) (failed : List Nat) (v : Vol) : (Vol.suspect d o failed v).outside = v.outside := by
  unfold Vol.suspect
  try dsimp only
  repeat' (first | (simp [apply_ite Vol.outside]; done) | split)

@[simp] theorem Vol.outside_verifyRound (b : Battery) (d : DriveNo) (o : Order) (w : VerifyWork) (v : Vol) : (Vol.verifyRound b d o w v).outside = v.outside := by
  unfold Vol.verifyRound
  try dsimp only
  repeat' (first | (simp [apply_ite Vol.outside]; done) | split)

@[simp] theorem Vol.outside_suspectCut (d : DriveNo) (o : Order) (w : VerifyWork) (v : Vol) : (Vol.suspectCut d o w v).outside = v.outside := by
  unfold Vol.suspectCut
  try dsimp only
  repeat' (first | (simp [apply_ite Vol.outside]; done) | split)

@[simp] theorem Vol.outside_loadingEnd (d : DriveNo) (m : MountState) (mirror : Option Mirror) (v : Vol) : (Vol.loadingEnd d m mirror v).outside = v.outside := by
  unfold Vol.loadingEnd
  try dsimp only
  repeat' (first | (simp [apply_ite Vol.outside]; done) | split)

@[simp] theorem Vol.outside_setLoad (v : Vol) (d : DriveNo) (l : LoadWork) : (Vol.setLoad v d l).outside = v.outside := by
  unfold Vol.setLoad
  try dsimp only
  repeat' (first | (simp [apply_ite Vol.outside]; done) | split)

@[simp] theorem Vol.outside_loadNext (b : Battery) (d : DriveNo) (l : LoadWork) (v : Vol) : (Vol.loadNext b d l v).outside = v.outside := by
  unfold Vol.loadNext
  try dsimp only
  repeat' (first | (simp [apply_ite Vol.outside]; done) | split)

@[simp] theorem Vol.outside_loadGood (b : Battery) (d : DriveNo) (l : LoadWork) (bs : List Byte) (v : Vol) : (Vol.loadGood b d l bs v).outside = v.outside := by
  unfold Vol.loadGood
  try dsimp only
  repeat' (first | (simp [apply_ite Vol.outside]; done) | split)

@[simp] theorem Vol.outside_loadFailed (b : Battery) (d : DriveNo) (l : LoadWork) (bad mispositioned : Bool) (v : Vol) : (Vol.loadFailed b d l bad mispositioned v).outside = v.outside := by
  unfold Vol.loadFailed
  try dsimp only
  repeat' (first | (simp [apply_ite Vol.outside]; done) | split)

@[simp] theorem Vol.outside_setUnit (v : Vol) (d : DriveNo) (u : UnitWork) : (Vol.setUnit v d u).outside = v.outside := by
  unfold Vol.setUnit
  try dsimp only
  repeat' (first | (simp [apply_ite Vol.outside]; done) | split)

@[simp] theorem Vol.outside_trackStart (d : DriveNo) (v : Vol) : (Vol.trackStart d v).outside = v.outside := by
  unfold Vol.trackStart
  try dsimp only
  repeat' (first | (simp [apply_ite Vol.outside]; done) | split)

@[simp] theorem Vol.outside_invalidateEnd (b : Battery) (d : DriveNo) (u : UnitWork) (v : Vol) : (Vol.invalidateEnd b d u v).outside = v.outside := by
  unfold Vol.invalidateEnd
  try dsimp only
  repeat' (first | (simp [apply_ite Vol.outside]; done) | split)

@[simp] theorem Vol.outside_unitSectorDone (b : Battery) (d : DriveNo) (u : UnitWork) (verify : Bool) (v : Vol) : (Vol.unitSectorDone b d u verify v).outside = v.outside := by
  unfold Vol.unitSectorDone
  try dsimp only
  repeat' (first | (simp [apply_ite Vol.outside]; done) | split)

@[simp] theorem Vol.outside_trackUnitEnd (b : Battery) (d : DriveNo) (u : UnitWork) (n : Nat) (v : Vol) : (Vol.trackUnitEnd b d u n v).outside = v.outside := by
  unfold Vol.trackUnitEnd
  try dsimp only
  repeat' (first | (simp [apply_ite Vol.outside]; done) | split)

@[simp] theorem Vol.outside_formatUnitEnd (b : Battery) (d : DriveNo) (u : UnitWork) (v : Vol) : (Vol.formatUnitEnd b d u v).outside = v.outside := by
  unfold Vol.formatUnitEnd
  try dsimp only
  repeat' (first | (simp [apply_ite Vol.outside]; done) | split)

@[simp] theorem Vol.outside_copyOpened (b : Battery) (d : DriveNo) (u : UnitWork) (v : Vol) : (Vol.copyOpened b d u v).outside = v.outside := by
  unfold Vol.copyOpened
  try dsimp only
  repeat' (first | (simp [apply_ite Vol.outside]; done) | split)

@[simp] theorem Vol.outside_copyCatalogEnd (b : Battery) (d : DriveNo) (u : UnitWork) (half : Nat) (v : Vol) : (Vol.copyCatalogEnd b d u half v).outside = v.outside := by
  unfold Vol.copyCatalogEnd
  try dsimp only
  repeat' (first | (simp [apply_ite Vol.outside]; done) | split)

@[simp] theorem Vol.outside_copyLabelEnd (b : Battery) (u : UnitWork) (v : Vol) : (Vol.copyLabelEnd b u v).outside = v.outside := by
  unfold Vol.copyLabelEnd
  try dsimp only
  repeat' (first | (simp [apply_ite Vol.outside]; done) | split)

@[simp] theorem Vol.outside_orderReady (b : Battery) (d : DriveNo) (o : Order) (v : Vol) : (Vol.orderReady b d o v).outside = v.outside := by
  unfold Vol.orderReady
  try dsimp only
  repeat' (first | (simp [apply_ite Vol.outside]; done) | split)

@[simp] theorem Vol.outside_beginWork (b : Battery) (d : DriveNo) (v : Vol) : (Vol.beginWork b d v).outside = v.outside := by
  unfold Vol.beginWork
  try dsimp only
  repeat' (first | (simp [apply_ite Vol.outside]; done) | split)

@[simp] theorem Vol.outside_zeroFill (worked : List Nat) (xs : List BufNo) (k : Nat) (v : Vol) : (Vol.zeroFill worked xs k v).outside = v.outside := by
  induction xs generalizing k v with
  | nil => rfl
  | cons x xs ih =>
    rw [Vol.zeroFill, ih]
    split <;> simp

@[simp] theorem Vol.outside_takeFor (o : Order) (v : Vol) : (v.takeFor o).2.outside = v.outside := by
  unfold Vol.takeFor
  repeat' (first | (simp; done) | split)

@[simp] theorem Vol.outside_startOrder (b : Battery) (d : DriveNo) (o : Order) (v : Vol) : (Vol.startOrder b d o v).outside = v.outside := by
  unfold Vol.startOrder
  try dsimp only
  repeat' (first | (simp [apply_ite Vol.outside]; done) | split)

@[simp] theorem Vol.outside_placeInService (b : Battery) (d : DriveNo) (o : Order) (v : Vol) : (Vol.placeInService b d o v).outside = v.outside := by
  unfold Vol.placeInService
  try dsimp only
  repeat' (first | (simp [apply_ite Vol.outside]; done) | split)

@[simp] theorem Vol.outside_resume (b : Battery) (d : DriveNo) (o : Order) (v : Vol) : (Vol.resume b d o v).outside = v.outside := by
  unfold Vol.resume
  try dsimp only
  repeat' (first | (simp [apply_ite Vol.outside]; done) | split)

@[simp] theorem Vol.outside_choose (b : Battery) (d : DriveNo) (es : List Order) (v : Vol) : (Vol.choose b d es v).outside = v.outside := by
  unfold Vol.choose
  try dsimp only
  repeat' (first | (simp [apply_ite Vol.outside]; done) | split)

@[simp] theorem Vol.outside_select (b : Battery) (d : DriveNo) (v : Vol) : (Vol.select b d v).outside = v.outside := by
  unfold Vol.select
  try dsimp only
  repeat' (first | (simp [apply_ite Vol.outside]; done) | split)

@[simp] theorem Vol.outside_preempt (b : Battery) (d : DriveNo) (v : Vol) : (Vol.preempt b d v).outside = v.outside := by
  unfold Vol.preempt
  try dsimp only
  repeat' (first | (simp [apply_ite Vol.outside]; done) | split)

@[simp] theorem Vol.outside_dropReply (v : Vol) (k : Line) : (Vol.dropReply v k).outside = v.outside := Vol.outside_modPort _ _ _ (fun _ => rfl)

@[simp] theorem Vol.outside_discardMirror (d : DriveNo) (v : Vol) : (Vol.discardMirror d v).outside = v.outside := by
  unfold Vol.discardMirror
  try dsimp only
  repeat' (first | (simp [apply_ite Vol.outside]; done) | split)

@[simp] theorem Vol.outside_copyLingers (r : ReqId) (q : Request) (oc : OutcomeCode) (v : Vol) : (Vol.copyLingers r q oc v).outside = v.outside := by
  unfold Vol.copyLingers
  try dsimp only
  repeat' (first | (simp [apply_ite Vol.outside]; done) | split)

@[simp] theorem Vol.outside_stopCatalogUnit (b : Battery) (r : ReqId) (q : Request) (oc : OutcomeCode) (v : Vol) : (Vol.stopCatalogUnit b r q oc v).outside = v.outside := by
  unfold Vol.stopCatalogUnit
  try dsimp only
  repeat' (first | (simp [apply_ite Vol.outside]; done) | split)

@[simp] theorem Vol.outside_discardCopy (b : Battery) (r : ReqId) (q : Request) (held : Bool) (oc : OutcomeCode) (v : Vol) : (Vol.discardCopy b r q held oc v).outside = v.outside := by
  unfold Vol.discardCopy
  try dsimp only
  repeat' (first | (simp [apply_ite Vol.outside]; done) | split)

@[simp] theorem Vol.outside_loseDest (d : DriveNo) (r : ReqId) (v : Vol) : (Vol.loseDest d r v).outside = v.outside := by
  unfold Vol.loseDest
  simp

@[simp] theorem Vol.outside_discardRequest (b : Battery) (d : DriveNo) (x : Drive) (oc : OutcomeCode) (r : ReqId) (v : Vol) : (Vol.discardRequest b d x oc r v).outside = v.outside := by
  unfold Vol.discardRequest
  try dsimp only
  repeat' (first | (simp [apply_ite Vol.outside]; done) | split)

@[simp] theorem Vol.outside_say (k : Line) (tag : Byte) (oc : OutcomeCode) (v : Vol) : (Vol.say k tag oc v).outside = v.outside := by
  unfold Vol.say
  try dsimp only
  repeat' (first | (simp [apply_ite Vol.outside]; done) | split)

@[simp] theorem Vol.outside_openRequest (v : Vol) (r : ReqId) (q : Request) : (Vol.openRequest v r q).outside = v.outside := by
  unfold Vol.openRequest
  try dsimp only
  repeat' (first | (simp [apply_ite Vol.outside]; done) | split)

@[simp] theorem Vol.outside_admitFetch (b : Battery) (k : Line) (tag : Byte) (kind : ReqKind) (f : StoryFields) (r : ReqId) (slot : Nat) (writing : Bool) (v : Vol) : (Vol.admitFetch b k tag kind f r slot writing v).outside = v.outside := by
  unfold Vol.admitFetch
  try dsimp only
  repeat' (first | (simp [apply_ite Vol.outside]; done) | split)

@[simp] theorem Vol.outside_fetchLookup (b : Battery) (k : Line) (tag : Byte) (f : StoryFields) (r : ReqId) (v : Vol) : (Vol.fetchLookup b k tag f r v).outside = v.outside := by
  unfold Vol.fetchLookup
  try dsimp only
  repeat' (first | (simp [apply_ite Vol.outside]; done) | split)

@[simp] theorem Vol.outside_drawLookup (b : Battery) (k : Line) (tag : Byte) (f : StoryFields) (r : ReqId) (v : Vol) : (Vol.drawLookup b k tag f r v).outside = v.outside := by
  unfold Vol.drawLookup
  try dsimp only
  repeat' (first | (simp [apply_ite Vol.outside]; done) | split)

@[simp] theorem Vol.outside_takeFetch (b : Battery) (k : Line) (tag drive cls edition : Byte) (slug : List Byte) (v : Vol) : (Vol.takeFetch b k tag drive cls edition slug v).outside = v.outside := by
  unfold Vol.takeFetch Vol.readChecks
  repeat' (first | (simp [apply_ite Vol.outside]; done) | split)

@[simp] theorem Vol.outside_takeDraw (b : Battery) (k : Line) (tag drive cls edition : Byte) (slug : List Byte) (v : Vol) : (Vol.takeDraw b k tag drive cls edition slug v).outside = v.outside := by
  unfold Vol.takeDraw Vol.readChecks
  repeat' (first | (simp [apply_ite Vol.outside]; done) | split)

@[simp] theorem Vol.outside_admitFile (b : Battery) (k : Line) (tag : Byte) (f : StoryFields) (r : ReqId) (slot : Nat) (reserved : Option (List Byte)) (v : Vol) : (Vol.admitFile b k tag f r slot reserved v).outside = v.outside := by
  unfold Vol.admitFile
  try dsimp only
  repeat' (first | (simp [apply_ite Vol.outside]; done) | split)

@[simp] theorem Vol.outside_fileLookup (b : Battery) (k : Line) (tag : Byte) (f : StoryFields) (r : ReqId) (v : Vol) : (Vol.fileLookup b k tag f r v).outside = v.outside := by
  unfold Vol.fileLookup
  try dsimp only
  repeat' (first | (simp [apply_ite Vol.outside]; done) | split)

@[simp] theorem Vol.outside_takeFile (b : Battery) (k : Line) (tag drive cls edition : Byte) (slug : List Byte) (v : Vol) : (Vol.takeFile b k tag drive cls edition slug v).outside = v.outside := by
  unfold Vol.takeFile Vol.writeChecks
  repeat' (first | (simp [apply_ite Vol.outside]; done) | split)

@[simp] theorem Vol.outside_admitSpike (b : Battery) (k : Line) (tag : Byte) (f : StoryFields) (r : ReqId) (slot : Nat) (v : Vol) : (Vol.admitSpike b k tag f r slot v).outside = v.outside := by
  unfold Vol.admitSpike
  try dsimp only
  repeat' (first | (simp [apply_ite Vol.outside]; done) | split)

@[simp] theorem Vol.outside_spikeLookup (b : Battery) (k : Line) (tag : Byte) (f : StoryFields) (r : ReqId) (v : Vol) : (Vol.spikeLookup b k tag f r v).outside = v.outside := by
  unfold Vol.spikeLookup
  try dsimp only
  repeat' (first | (simp [apply_ite Vol.outside]; done) | split)

@[simp] theorem Vol.outside_takeSpike (b : Battery) (k : Line) (tag drive cls : Byte) (slug : List Byte) (v : Vol) : (Vol.takeSpike b k tag drive cls slug v).outside = v.outside := by
  unfold Vol.takeSpike Vol.writeChecks
  repeat' (first | (simp [apply_ite Vol.outside]; done) | split)

@[simp] theorem Vol.outside_appendText (r : ReqId) (ses : Session) (bytes : List Byte) (v : Vol) : (Vol.appendText r ses bytes v).outside = v.outside := by
  unfold Vol.appendText
  dsimp only
  split
  · split
    · rfl
    · next h => simp [Vol.outside_takeBuf h]
  · split
    · simp
    · split
      · simp
      · split
        · simp
        · next h => simp [Vol.outside_takeBuf h]

@[simp] theorem Vol.outside_formIfFull (b : Battery) (r : ReqId) (direct : Bool) (v : Vol) : (Vol.formIfFull b r direct v).outside = v.outside := by
  unfold Vol.formIfFull
  try dsimp only
  repeat' (first | (simp [apply_ite Vol.outside]; done) | split)

@[simp] theorem Vol.outside_fileText (b : Battery) (r : ReqId) (ses : Session) (bytes : List Byte) (v : Vol) : (Vol.fileText b r ses bytes v).outside = v.outside := by
  unfold Vol.fileText
  try dsimp only
  repeat' (first | (simp [apply_ite Vol.outside]; done) | split)

@[simp] theorem Vol.outside_takeText (b : Battery) (k : Line) (tag : Byte) (bytes : List Byte) (v : Vol) : (Vol.takeText b k tag bytes v).outside = v.outside := by
  unfold Vol.takeText
  try dsimp only
  repeat' (first | (simp [apply_ite Vol.outside]; done) | split)

@[simp] theorem Vol.outside_flushFill (r : ReqId) (ses : Session) (v : Vol) : (Vol.flushFill r ses v).outside = v.outside := by
  unfold Vol.flushFill
  try dsimp only
  repeat' (first | (simp [apply_ite Vol.outside]; done) | split)

@[simp] theorem Vol.outside_closeOn (b : Battery) (r : ReqId) (v : Vol) : (Vol.closeOn b r v).outside = v.outside := by
  unfold Vol.closeOn
  try dsimp only
  repeat' (first | (simp [apply_ite Vol.outside]; done) | split)

@[simp] theorem Vol.outside_takeClose (b : Battery) (k : Line) (tag keep : Byte) (v : Vol) : (Vol.takeClose b k tag keep v).outside = v.outside := by
  unfold Vol.takeClose
  try dsimp only
  repeat' (first | (simp [apply_ite Vol.outside]; done) | split)

@[simp] theorem Vol.outside_takeRelease (k : Line) (tag drive : Byte) (slug : List Byte) (v : Vol) : (Vol.takeRelease k tag drive slug v).outside = v.outside := by
  unfold Vol.takeRelease
  try dsimp only
  repeat' (first | (simp [apply_ite Vol.outside]; done) | split)

@[simp] theorem Vol.outside_takeList (b : Battery) (k : Line) (tag drive count : Byte) (pattern : List Byte) (v : Vol) : (Vol.takeList b k tag drive count pattern v).outside = v.outside := by
  unfold Vol.takeList
  try dsimp only
  repeat' (first | (simp [apply_ite Vol.outside]; done) | split)

@[simp] theorem Vol.outside_takeCancel (b : Battery) (k : Line) (tag target : Byte) (v : Vol) : (Vol.takeCancel b k tag target v).outside = v.outside := by
  unfold Vol.takeCancel
  try dsimp only
  repeat' (first | (simp [apply_ite Vol.outside]; done) | split)

@[simp] theorem Vol.outside_takeStatus (k : Line) (tag : Byte) (v : Vol) : (Vol.takeStatus k tag v).outside = v.outside := by
  unfold Vol.takeStatus
  try dsimp only
  repeat' (first | (simp [apply_ite Vol.outside]; done) | split)

@[simp] theorem Vol.outside_takeTime (b : Battery) (k : Line) (tag : Byte) (v : Vol) : (Vol.takeTime b k tag v).outside = v.outside := by
  unfold Vol.takeTime
  try dsimp only
  repeat' (first | (simp [apply_ite Vol.outside]; done) | split)

@[simp] theorem Vol.outside_takeDrive (b : Battery) (k : Line) (tag drive : Byte) (v : Vol) : (Vol.takeDrive b k tag drive v).outside = v.outside := by
  unfold Vol.takeDrive
  try dsimp only
  repeat' (first | (simp [apply_ite Vol.outside]; done) | split)

@[simp] theorem Vol.outside_noteSet (i : Item) (value : Nat) (v : Vol) : (Vol.noteSet i value v).outside = v.outside := by
  unfold Vol.noteSet
  try dsimp only
  repeat' (first | (simp [apply_ite Vol.outside]; done) | split)

@[simp] theorem Vol.outside_takeSet (k : Line) (tag item : Byte) (value : Word16) (b : Battery) (v : Vol) : (takeSet k tag item value b v).2.outside = v.outside := by
  unfold takeSet
  try dsimp only
  repeat' (first | (simp [apply_ite Vol.outside]; done) | split)

@[simp] theorem Vol.outside_takeGet (k : Line) (tag item : Byte) (b : Battery) (v : Vol) : (takeGet k tag item b v).2.outside = v.outside := by
  unfold takeGet
  try dsimp only
  repeat' (first | (simp [apply_ite Vol.outside]; done) | split)

@[simp] theorem Vol.outside_takeSettime (k : Line) (tag yy mm dd hh mi ss : Byte) (b : Battery) (v : Vol) : (takeSettime k tag yy mm dd hh mi ss b v).2.outside = v.outside := by
  unfold takeSettime
  try dsimp only
  repeat' (first | (simp [apply_ite Vol.outside]; done) | split)

@[simp] theorem Vol.outside_takeTrim (k : Line) (tag : Byte) (value : Word16) (b : Battery) (v : Vol) : (takeTrim k tag value b v).2.outside = v.outside := by
  unfold takeTrim
  try dsimp only
  repeat' (first | (simp [apply_ite Vol.outside]; done) | split)

@[simp] theorem Vol.outside_promoteOn (warned : Byte) (v : Vol) (d : DriveNo) : (Vol.promoteOn warned v d).outside = v.outside := by
  unfold Vol.promoteOn
  try dsimp only
  repeat' (first | (simp [apply_ite Vol.outside]; done) | split)

@[simp] theorem Vol.outside_minuteTick (b : Battery) (v : Vol) : (minuteTick b v).2.outside = v.outside := by
  unfold minuteTick
  dsimp only
  rw [Vol.outside_foldl _ (fun _ _ => by simp), Vol.outside_editionNotices]

@[simp] theorem Vol.outside_takeRound (k : Line) (tag : Byte) (b : Battery) (v : Vol) : (takeRound k tag b v).2.outside = v.outside := by
  unfold takeRound
  try dsimp only
  repeat' (first | (simp [apply_ite Vol.outside]; done) | split)

@[simp] theorem Vol.outside_takeEdition (k : Line) (tag number enabled openHH openMM closeHH closeMM lead : Byte) (b : Battery) (v : Vol) : (takeEdition k tag number enabled openHH openMM closeHH closeMM lead b v).2.outside = v.outside := by
  unfold takeEdition
  try dsimp only
  repeat' (first | (simp [apply_ite Vol.outside]; done) | split)

@[simp] theorem Vol.outside_breakHold (k : Line) (tag : Byte) (d : DriveNo) (g : List Byte) (v : Vol) : (Vol.breakHold k tag d g v).outside = v.outside := by
  unfold Vol.breakHold
  try dsimp only
  repeat' (first | (simp [apply_ite Vol.outside]; done) | split)

@[simp] theorem Vol.outside_takeBreak (k : Line) (tag drive : Byte) (slug : List Byte) (b : Battery) (v : Vol) : (takeBreak k tag drive slug b v).2.outside = v.outside := by
  unfold takeBreak
  try dsimp only
  repeat' (first | (simp [apply_ite Vol.outside]; done) | split)

@[simp] theorem Vol.outside_takeDriveFor (v : Vol) (d : DriveNo) (m : MountState) : (Vol.takeDriveFor v d m).outside = v.outside := by
  unfold Vol.takeDriveFor
  try dsimp only
  repeat' (first | (simp [apply_ite Vol.outside]; done) | split)

@[simp] theorem Vol.outside_admitFormat (b : Battery) (tag : Byte) (d : DriveNo) (volume : List Byte) (r : ReqId) (v : Vol) : (Vol.admitFormat b tag d volume r v).outside = v.outside := by
  unfold Vol.admitFormat
  try dsimp only
  repeat' (first | (simp [apply_ite Vol.outside]; done) | split)

@[simp] theorem Vol.outside_takeFormat (k : Line) (tag drive : Byte) (volume : List Byte) (b : Battery) (v : Vol) : (takeFormat k tag drive volume b v).2.outside = v.outside := by
  unfold takeFormat
  try dsimp only
  repeat' (first | (simp [apply_ite Vol.outside]; done) | split)

@[simp] theorem Vol.outside_admitCopy (b : Battery) (tag : Byte) (s d : DriveNo) (r : ReqId) (v : Vol) : (Vol.admitCopy b tag s d r v).outside = v.outside := by
  unfold Vol.admitCopy
  try dsimp only
  repeat' (first | (simp [apply_ite Vol.outside]; done) | split)

@[simp] theorem Vol.outside_takeCopy (k : Line) (tag source dest : Byte) (b : Battery) (v : Vol) : (takeCopy k tag source dest b v).2.outside = v.outside := by
  unfold takeCopy
  try dsimp only
  repeat' (first | (simp [apply_ite Vol.outside]; done) | split)

@[simp] theorem Vol.outside_admitRecal (b : Battery) (tag : Byte) (d : DriveNo) (r : ReqId) (v : Vol) : (Vol.admitRecal b tag d r v).outside = v.outside := by
  unfold Vol.admitRecal
  try dsimp only
  repeat' (first | (simp [apply_ite Vol.outside]; done) | split)

@[simp] theorem Vol.outside_takeRecal (k : Line) (tag drive : Byte) (b : Battery) (v : Vol) : (takeRecal k tag drive b v).2.outside = v.outside := by
  unfold takeRecal
  try dsimp only
  repeat' (first | (simp [apply_ite Vol.outside]; done) | split)

@[simp] theorem Vol.outside_takeRestart (k : Line) (tag : Byte) (b : Battery) (v : Vol) : (takeRestart k tag b v).2.outside = v.outside := by
  unfold takeRestart
  try dsimp only
  repeat' (first | (simp [apply_ite Vol.outside]; done) | split)

@[simp] theorem Vol.outside_takeCommand (i : Instr) (b : Battery) (v : Vol) : (takeCommand i b v).2.outside = v.outside := by
  unfold takeCommand
  try dsimp only
  repeat' (first | (simp [apply_ite Vol.outside]; done) | split)

@[simp] theorem Vol.outside_takeBody (k : Line) (body : List Byte) (b : Battery) (v : Vol) : (takeBody k body b v).2.outside = v.outside := by
  unfold takeBody
  try dsimp only
  repeat' (first | (simp [apply_ite Vol.outside]; done) | split)

@[simp] theorem Vol.outside_frameFault (b : Battery) (k : Line) (v : Vol) : (Vol.frameFault b k v).outside = v.outside := by
  unfold Vol.frameFault
  try dsimp only
  repeat' (first | (simp [apply_ite Vol.outside]; done) | split)

@[simp] theorem Vol.outside_lineResetRequest (b : Battery) (r : ReqId) (v : Vol) : (Vol.lineResetRequest b r v).outside = v.outside := by
  unfold Vol.lineResetRequest
  try dsimp only
  repeat' (first | (simp [apply_ite Vol.outside]; done) | split)

@[simp] theorem Vol.outside_indexPulse (b : Battery) (d : DriveNo) (v : Vol) : (Vol.indexPulse b d v).outside = v.outside := by
  unfold Vol.indexPulse
  try dsimp only
  repeat' (first | (simp [apply_ite Vol.outside]; done) | split)

@[simp] theorem Vol.outside_headUnload (b : Battery) (d : DriveNo) (v : Vol) : (Vol.headUnload b d v).outside = v.outside := by
  unfold Vol.headUnload
  try dsimp only
  repeat' (first | (simp [apply_ite Vol.outside]; done) | split)

@[simp] theorem Vol.outside_doorCloses (b : Battery) (d : DriveNo) (v : Vol) : (Vol.doorCloses b d v).outside = v.outside := by
  unfold Vol.doorCloses
  try dsimp only
  repeat' (first | (simp [apply_ite Vol.outside]; done) | split)

@[simp] theorem Vol.outside_recalStops (b : Battery) (d : DriveNo) (v : Vol) :
    (Vol.recalStops b d v).outside = v.outside := by
  simp [Vol.recalStops]

@[simp] theorem Vol.outside_settleDone (b : Battery) (d : DriveNo) (v : Vol) : (Vol.settleDone b d v).outside = v.outside := by
  unfold Vol.settleDone
  try dsimp only
  repeat' (first | (simp [apply_ite Vol.outside]; done) | split)

@[simp] theorem Vol.outside_headLoadDone (b : Battery) (d : DriveNo) (v : Vol) : (Vol.headLoadDone b d v).outside = v.outside := by
  unfold Vol.headLoadDone
  try dsimp only
  repeat' (first | (simp [apply_ite Vol.outside]; done) | split)

@[simp] theorem Vol.outside_composeService (d : DriveNo) (v : Vol) : (Vol.composeService d v).outside = v.outside := by
  unfold Vol.composeService
  try dsimp only
  repeat' (first | (simp [apply_ite Vol.outside]; done) | split)

@[simp] theorem Vol.outside_headerSought (d : DriveNo) (v : Vol) : (Vol.headerSought d v).outside = v.outside := by
  unfold Vol.headerSought
  try dsimp only
  repeat' (first | (simp [apply_ite Vol.outside]; done) | split)

@[simp] theorem Vol.outside_headerSearched (d : DriveNo) (pulses : Nat) (right wrong : Bool) (h : HeaderRead) (v : Vol) : (Vol.headerSearched d pulses right wrong h v).outside = v.outside := by
  unfold Vol.headerSearched
  try dsimp only
  repeat' (first | (simp [apply_ite Vol.outside]; done) | split)

@[simp] theorem Vol.outside_headerVerified (d : DriveNo) (w : VerifyWork) (h : HeaderRead) (v : Vol) : (Vol.headerVerified d w h v).outside = v.outside := by
  unfold Vol.headerVerified
  try dsimp only
  repeat' (first | (simp [apply_ite Vol.outside]; done) | split)

@[simp] theorem Vol.outside_headerInUnit (d : DriveNo) (verify : Bool) (h : HeaderRead) (v : Vol) : (Vol.headerInUnit d verify h v).outside = v.outside := by
  unfold Vol.headerInUnit
  try dsimp only
  repeat' (first | (simp [apply_ite Vol.outside]; done) | split)

@[simp] theorem Vol.outside_headerFound (d : DriveNo) (h : HeaderRead) (v : Vol) : (Vol.headerFound d h v).outside = v.outside := by
  unfold Vol.headerFound
  try dsimp only
  repeat' (first | (simp [apply_ite Vol.outside]; done) | split)

@[simp] theorem Vol.outside_searchFails (b : Battery) (d : DriveNo) (mispositioned : Bool) (v : Vol) : (Vol.searchFails b d mispositioned v).outside = v.outside := by
  unfold Vol.searchFails
  try dsimp only
  repeat' (first | (simp [apply_ite Vol.outside]; done) | split)

@[simp] theorem Vol.outside_searchLimit (b : Battery) (d : DriveNo) (v : Vol) : (Vol.searchLimit b d v).outside = v.outside := by
  unfold Vol.searchLimit
  try dsimp only
  repeat' (first | (simp [apply_ite Vol.outside]; done) | split)

@[simp] theorem Vol.outside_loadRead (b : Battery) (d : DriveNo) (l : LoadWork) (f : FieldRead) (v : Vol) : (Vol.loadRead b d l f v).outside = v.outside := by
  unfold Vol.loadRead
  try dsimp only
  repeat' (first | (simp [apply_ite Vol.outside]; done) | split)

@[simp] theorem Vol.outside_angleTick (d : DriveNo) (v : Vol) : (Vol.angleTick d v).outside = v.outside := by
  unfold Vol.angleTick
  try dsimp only
  repeat' (first | (simp [apply_ite Vol.outside]; done) | split)

@[simp] theorem Vol.outside_formatUnitDone (b : Battery) (d : DriveNo) (v : Vol) : (Vol.formatUnitDone b d v).outside = v.outside := by
  unfold Vol.formatUnitDone
  try dsimp only
  repeat' (first | (simp [apply_ite Vol.outside]; done) | split)

@[simp] theorem Vol.outside_copyOpeningDone (b : Battery) (d : DriveNo) (v : Vol) : (Vol.copyOpeningDone b d v).outside = v.outside := by
  unfold Vol.copyOpeningDone
  try dsimp only
  repeat' (first | (simp [apply_ite Vol.outside]; done) | split)

@[simp] theorem Vol.outside_copyCatalogDone (b : Battery) (d : DriveNo) (v : Vol) : (Vol.copyCatalogDone b d v).outside = v.outside := by
  unfold Vol.copyCatalogDone
  try dsimp only
  repeat' (first | (simp [apply_ite Vol.outside]; done) | split)

@[simp] theorem Vol.outside_copyLabelDone (b : Battery) (d : DriveNo) (v : Vol) : (Vol.copyLabelDone b d v).outside = v.outside := by
  unfold Vol.copyLabelDone
  try dsimp only
  repeat' (first | (simp [apply_ite Vol.outside]; done) | split)

@[simp] theorem Vol.outside_idleExpires (r : ReqId) (v : Vol) : (Vol.idleExpires r v).outside = v.outside := by
  unfold Vol.idleExpires
  try dsimp only
  repeat' (first | (simp [apply_ite Vol.outside]; done) | split)

end Sys2Proof.Machine
end

