-- ==== Sys2Proof/Laws/State.lean ====
section
/-! SUPPORT. Reading State after an update: one lemma for each field an update leaves, by rfl, and one for the field
it changes. -/

namespace Sys2Proof.Machine

/-! ## Fields an update leaves -/

@[simp] theorem Vol.power_modDrive (v : Vol) (d : DriveNo) (f : Drive → Drive) :
    (v.modDrive d f).power = v.power := rfl

@[simp] theorem Vol.resetHeld_modDrive (v : Vol) (d : DriveNo) (f : Drive → Drive) :
    (v.modDrive d f).resetHeld = v.resetHeld := rfl

@[simp] theorem Vol.ports_modDrive (v : Vol) (d : DriveNo) (f : Drive → Drive) :
    (v.modDrive d f).ports = v.ports := rfl

@[simp] theorem Vol.reqs_modDrive (v : Vol) (d : DriveNo) (f : Drive → Drive) :
    (v.modDrive d f).reqs = v.reqs := rfl

@[simp] theorem Vol.pool_modDrive (v : Vol) (d : DriveNo) (f : Drive → Drive) :
    (v.modDrive d f).pool = v.pool := rfl

@[simp] theorem Vol.retired_modDrive (v : Vol) (d : DriveNo) (f : Drive → Drive) :
    (v.modDrive d f).retired = v.retired := rfl

@[simp] theorem Vol.stamp_modDrive (v : Vol) (d : DriveNo) (f : Drive → Drive) :
    (v.modDrive d f).stamp = v.stamp := rfl

@[simp] theorem Vol.picks_modDrive (v : Vol) (d : DriveNo) (f : Drive → Drive) :
    (v.modDrive d f).picks = v.picks := rfl

@[simp] theorem Vol.tests_modDrive (v : Vol) (d : DriveNo) (f : Drive → Drive) :
    (v.modDrive d f).tests = v.tests := rfl


@[simp] theorem Vol.power_modPort (v : Vol) (k : Line) (f : Port → Port) :
    (v.modPort k f).power = v.power := rfl

@[simp] theorem Vol.resetHeld_modPort (v : Vol) (k : Line) (f : Port → Port) :
    (v.modPort k f).resetHeld = v.resetHeld := rfl

@[simp] theorem Vol.reqs_modPort (v : Vol) (k : Line) (f : Port → Port) :
    (v.modPort k f).reqs = v.reqs := rfl

@[simp] theorem Vol.pool_modPort (v : Vol) (k : Line) (f : Port → Port) :
    (v.modPort k f).pool = v.pool := rfl

@[simp] theorem Vol.drives_modPort (v : Vol) (k : Line) (f : Port → Port) :
    (v.modPort k f).drives = v.drives := rfl

@[simp] theorem Vol.retired_modPort (v : Vol) (k : Line) (f : Port → Port) :
    (v.modPort k f).retired = v.retired := rfl

@[simp] theorem Vol.stamp_modPort (v : Vol) (k : Line) (f : Port → Port) :
    (v.modPort k f).stamp = v.stamp := rfl

@[simp] theorem Vol.picks_modPort (v : Vol) (k : Line) (f : Port → Port) :
    (v.modPort k f).picks = v.picks := rfl

@[simp] theorem Vol.tests_modPort (v : Vol) (k : Line) (f : Port → Port) :
    (v.modPort k f).tests = v.tests := rfl


@[simp] theorem Vol.power_setReq (v : Vol) (r : ReqId) (q : Option Request) :
    (v.setReq r q).power = v.power := rfl

@[simp] theorem Vol.resetHeld_setReq (v : Vol) (r : ReqId) (q : Option Request) :
    (v.setReq r q).resetHeld = v.resetHeld := rfl

@[simp] theorem Vol.ports_setReq (v : Vol) (r : ReqId) (q : Option Request) :
    (v.setReq r q).ports = v.ports := rfl

@[simp] theorem Vol.pool_setReq (v : Vol) (r : ReqId) (q : Option Request) :
    (v.setReq r q).pool = v.pool := rfl

@[simp] theorem Vol.drives_setReq (v : Vol) (r : ReqId) (q : Option Request) :
    (v.setReq r q).drives = v.drives := rfl

@[simp] theorem Vol.retired_setReq (v : Vol) (r : ReqId) (q : Option Request) :
    (v.setReq r q).retired = v.retired := rfl

@[simp] theorem Vol.stamp_setReq (v : Vol) (r : ReqId) (q : Option Request) :
    (v.setReq r q).stamp = v.stamp := rfl

@[simp] theorem Vol.picks_setReq (v : Vol) (r : ReqId) (q : Option Request) :
    (v.setReq r q).picks = v.picks := rfl

@[simp] theorem Vol.tests_setReq (v : Vol) (r : ReqId) (q : Option Request) :
    (v.setReq r q).tests = v.tests := rfl


@[simp] theorem Vol.power_modReq (v : Vol) (r : ReqId) (f : Request → Request) :
    (v.modReq r f).power = v.power := rfl

@[simp] theorem Vol.resetHeld_modReq (v : Vol) (r : ReqId) (f : Request → Request) :
    (v.modReq r f).resetHeld = v.resetHeld := rfl

@[simp] theorem Vol.ports_modReq (v : Vol) (r : ReqId) (f : Request → Request) :
    (v.modReq r f).ports = v.ports := rfl

@[simp] theorem Vol.pool_modReq (v : Vol) (r : ReqId) (f : Request → Request) :
    (v.modReq r f).pool = v.pool := rfl

@[simp] theorem Vol.drives_modReq (v : Vol) (r : ReqId) (f : Request → Request) :
    (v.modReq r f).drives = v.drives := rfl

@[simp] theorem Vol.retired_modReq (v : Vol) (r : ReqId) (f : Request → Request) :
    (v.modReq r f).retired = v.retired := rfl

@[simp] theorem Vol.stamp_modReq (v : Vol) (r : ReqId) (f : Request → Request) :
    (v.modReq r f).stamp = v.stamp := rfl

@[simp] theorem Vol.picks_modReq (v : Vol) (r : ReqId) (f : Request → Request) :
    (v.modReq r f).picks = v.picks := rfl

@[simp] theorem Vol.tests_modReq (v : Vol) (r : ReqId) (f : Request → Request) :
    (v.modReq r f).tests = v.tests := rfl


@[simp] theorem Vol.power_setBuf (v : Vol) (b : BufNo) (x : Buffer) :
    (v.setBuf b x).power = v.power := rfl

@[simp] theorem Vol.resetHeld_setBuf (v : Vol) (b : BufNo) (x : Buffer) :
    (v.setBuf b x).resetHeld = v.resetHeld := rfl

@[simp] theorem Vol.ports_setBuf (v : Vol) (b : BufNo) (x : Buffer) :
    (v.setBuf b x).ports = v.ports := rfl

@[simp] theorem Vol.reqs_setBuf (v : Vol) (b : BufNo) (x : Buffer) :
    (v.setBuf b x).reqs = v.reqs := rfl

@[simp] theorem Vol.drives_setBuf (v : Vol) (b : BufNo) (x : Buffer) :
    (v.setBuf b x).drives = v.drives := rfl

@[simp] theorem Vol.retired_setBuf (v : Vol) (b : BufNo) (x : Buffer) :
    (v.setBuf b x).retired = v.retired := rfl

@[simp] theorem Vol.stamp_setBuf (v : Vol) (b : BufNo) (x : Buffer) :
    (v.setBuf b x).stamp = v.stamp := rfl

@[simp] theorem Vol.picks_setBuf (v : Vol) (b : BufNo) (x : Buffer) :
    (v.setBuf b x).picks = v.picks := rfl

@[simp] theorem Vol.tests_setBuf (v : Vol) (b : BufNo) (x : Buffer) :
    (v.setBuf b x).tests = v.tests := rfl


@[simp] theorem Vol.power_setRecord (v : Vol) (k : RecNo) (x : Retired) :
    (v.setRecord k x).power = v.power := rfl

@[simp] theorem Vol.resetHeld_setRecord (v : Vol) (k : RecNo) (x : Retired) :
    (v.setRecord k x).resetHeld = v.resetHeld := rfl

@[simp] theorem Vol.ports_setRecord (v : Vol) (k : RecNo) (x : Retired) :
    (v.setRecord k x).ports = v.ports := rfl

@[simp] theorem Vol.reqs_setRecord (v : Vol) (k : RecNo) (x : Retired) :
    (v.setRecord k x).reqs = v.reqs := rfl

@[simp] theorem Vol.pool_setRecord (v : Vol) (k : RecNo) (x : Retired) :
    (v.setRecord k x).pool = v.pool := rfl

@[simp] theorem Vol.drives_setRecord (v : Vol) (k : RecNo) (x : Retired) :
    (v.setRecord k x).drives = v.drives := rfl

@[simp] theorem Vol.stamp_setRecord (v : Vol) (k : RecNo) (x : Retired) :
    (v.setRecord k x).stamp = v.stamp := rfl

@[simp] theorem Vol.picks_setRecord (v : Vol) (k : RecNo) (x : Retired) :
    (v.setRecord k x).picks = v.picks := rfl

@[simp] theorem Vol.tests_setRecord (v : Vol) (k : RecNo) (x : Retired) :
    (v.setRecord k x).tests = v.tests := rfl


@[simp] theorem Vol.power_nextStamp (v : Vol) :
    (v.nextStamp).power = v.power := rfl

@[simp] theorem Vol.resetHeld_nextStamp (v : Vol) :
    (v.nextStamp).resetHeld = v.resetHeld := rfl

@[simp] theorem Vol.ports_nextStamp (v : Vol) :
    (v.nextStamp).ports = v.ports := rfl

@[simp] theorem Vol.reqs_nextStamp (v : Vol) :
    (v.nextStamp).reqs = v.reqs := rfl

@[simp] theorem Vol.pool_nextStamp (v : Vol) :
    (v.nextStamp).pool = v.pool := rfl

@[simp] theorem Vol.drives_nextStamp (v : Vol) :
    (v.nextStamp).drives = v.drives := rfl

@[simp] theorem Vol.retired_nextStamp (v : Vol) :
    (v.nextStamp).retired = v.retired := rfl

@[simp] theorem Vol.picks_nextStamp (v : Vol) :
    (v.nextStamp).picks = v.picks := rfl

@[simp] theorem Vol.tests_nextStamp (v : Vol) :
    (v.nextStamp).tests = v.tests := rfl


@[simp] theorem Vol.power_modSeq (v : Vol) (d : DriveNo) (f : Sequencer → Sequencer) :
    (v.modSeq d f).power = v.power := rfl

@[simp] theorem Vol.resetHeld_modSeq (v : Vol) (d : DriveNo) (f : Sequencer → Sequencer) :
    (v.modSeq d f).resetHeld = v.resetHeld := rfl

@[simp] theorem Vol.ports_modSeq (v : Vol) (d : DriveNo) (f : Sequencer → Sequencer) :
    (v.modSeq d f).ports = v.ports := rfl

@[simp] theorem Vol.reqs_modSeq (v : Vol) (d : DriveNo) (f : Sequencer → Sequencer) :
    (v.modSeq d f).reqs = v.reqs := rfl

@[simp] theorem Vol.pool_modSeq (v : Vol) (d : DriveNo) (f : Sequencer → Sequencer) :
    (v.modSeq d f).pool = v.pool := rfl

@[simp] theorem Vol.retired_modSeq (v : Vol) (d : DriveNo) (f : Sequencer → Sequencer) :
    (v.modSeq d f).retired = v.retired := rfl

@[simp] theorem Vol.stamp_modSeq (v : Vol) (d : DriveNo) (f : Sequencer → Sequencer) :
    (v.modSeq d f).stamp = v.stamp := rfl

@[simp] theorem Vol.picks_modSeq (v : Vol) (d : DriveNo) (f : Sequencer → Sequencer) :
    (v.modSeq d f).picks = v.picks := rfl

@[simp] theorem Vol.tests_modSeq (v : Vol) (d : DriveNo) (f : Sequencer → Sequencer) :
    (v.modSeq d f).tests = v.tests := rfl


@[simp] theorem Vol.power_modSched (v : Vol) (d : DriveNo) (f : Scheduler → Scheduler) :
    (v.modSched d f).power = v.power := rfl

@[simp] theorem Vol.resetHeld_modSched (v : Vol) (d : DriveNo) (f : Scheduler → Scheduler) :
    (v.modSched d f).resetHeld = v.resetHeld := rfl

@[simp] theorem Vol.ports_modSched (v : Vol) (d : DriveNo) (f : Scheduler → Scheduler) :
    (v.modSched d f).ports = v.ports := rfl

@[simp] theorem Vol.reqs_modSched (v : Vol) (d : DriveNo) (f : Scheduler → Scheduler) :
    (v.modSched d f).reqs = v.reqs := rfl

@[simp] theorem Vol.pool_modSched (v : Vol) (d : DriveNo) (f : Scheduler → Scheduler) :
    (v.modSched d f).pool = v.pool := rfl

@[simp] theorem Vol.retired_modSched (v : Vol) (d : DriveNo) (f : Scheduler → Scheduler) :
    (v.modSched d f).retired = v.retired := rfl

@[simp] theorem Vol.stamp_modSched (v : Vol) (d : DriveNo) (f : Scheduler → Scheduler) :
    (v.modSched d f).stamp = v.stamp := rfl

@[simp] theorem Vol.picks_modSched (v : Vol) (d : DriveNo) (f : Scheduler → Scheduler) :
    (v.modSched d f).picks = v.picks := rfl

@[simp] theorem Vol.tests_modSched (v : Vol) (d : DriveNo) (f : Scheduler → Scheduler) :
    (v.modSched d f).tests = v.tests := rfl


@[simp] theorem Vol.power_modCat (v : Vol) (d : DriveNo) (f : Catalog → Catalog) :
    (v.modCat d f).power = v.power := rfl

@[simp] theorem Vol.resetHeld_modCat (v : Vol) (d : DriveNo) (f : Catalog → Catalog) :
    (v.modCat d f).resetHeld = v.resetHeld := rfl

@[simp] theorem Vol.ports_modCat (v : Vol) (d : DriveNo) (f : Catalog → Catalog) :
    (v.modCat d f).ports = v.ports := rfl

@[simp] theorem Vol.reqs_modCat (v : Vol) (d : DriveNo) (f : Catalog → Catalog) :
    (v.modCat d f).reqs = v.reqs := rfl

@[simp] theorem Vol.pool_modCat (v : Vol) (d : DriveNo) (f : Catalog → Catalog) :
    (v.modCat d f).pool = v.pool := rfl

@[simp] theorem Vol.retired_modCat (v : Vol) (d : DriveNo) (f : Catalog → Catalog) :
    (v.modCat d f).retired = v.retired := rfl

@[simp] theorem Vol.stamp_modCat (v : Vol) (d : DriveNo) (f : Catalog → Catalog) :
    (v.modCat d f).stamp = v.stamp := rfl

@[simp] theorem Vol.picks_modCat (v : Vol) (d : DriveNo) (f : Catalog → Catalog) :
    (v.modCat d f).picks = v.picks := rfl

@[simp] theorem Vol.tests_modCat (v : Vol) (d : DriveNo) (f : Catalog → Catalog) :
    (v.modCat d f).tests = v.tests := rfl


@[simp] theorem Vol.power_modMirror (v : Vol) (d : DriveNo) (f : Mirror → Mirror) :
    (v.modMirror d f).power = v.power := rfl

@[simp] theorem Vol.resetHeld_modMirror (v : Vol) (d : DriveNo) (f : Mirror → Mirror) :
    (v.modMirror d f).resetHeld = v.resetHeld := rfl

@[simp] theorem Vol.ports_modMirror (v : Vol) (d : DriveNo) (f : Mirror → Mirror) :
    (v.modMirror d f).ports = v.ports := rfl

@[simp] theorem Vol.reqs_modMirror (v : Vol) (d : DriveNo) (f : Mirror → Mirror) :
    (v.modMirror d f).reqs = v.reqs := rfl

@[simp] theorem Vol.pool_modMirror (v : Vol) (d : DriveNo) (f : Mirror → Mirror) :
    (v.modMirror d f).pool = v.pool := rfl

@[simp] theorem Vol.retired_modMirror (v : Vol) (d : DriveNo) (f : Mirror → Mirror) :
    (v.modMirror d f).retired = v.retired := rfl

@[simp] theorem Vol.stamp_modMirror (v : Vol) (d : DriveNo) (f : Mirror → Mirror) :
    (v.modMirror d f).stamp = v.stamp := rfl

@[simp] theorem Vol.picks_modMirror (v : Vol) (d : DriveNo) (f : Mirror → Mirror) :
    (v.modMirror d f).picks = v.picks := rfl

@[simp] theorem Vol.tests_modMirror (v : Vol) (d : DriveNo) (f : Mirror → Mirror) :
    (v.modMirror d f).tests = v.tests := rfl


@[simp] theorem Vol.power_modCable (v : Vol) (d : DriveNo) (f : Cable → Cable) :
    (v.modCable d f).power = v.power := rfl

@[simp] theorem Vol.resetHeld_modCable (v : Vol) (d : DriveNo) (f : Cable → Cable) :
    (v.modCable d f).resetHeld = v.resetHeld := rfl

@[simp] theorem Vol.ports_modCable (v : Vol) (d : DriveNo) (f : Cable → Cable) :
    (v.modCable d f).ports = v.ports := rfl

@[simp] theorem Vol.reqs_modCable (v : Vol) (d : DriveNo) (f : Cable → Cable) :
    (v.modCable d f).reqs = v.reqs := rfl

@[simp] theorem Vol.pool_modCable (v : Vol) (d : DriveNo) (f : Cable → Cable) :
    (v.modCable d f).pool = v.pool := rfl

@[simp] theorem Vol.retired_modCable (v : Vol) (d : DriveNo) (f : Cable → Cable) :
    (v.modCable d f).retired = v.retired := rfl

@[simp] theorem Vol.stamp_modCable (v : Vol) (d : DriveNo) (f : Cable → Cable) :
    (v.modCable d f).stamp = v.stamp := rfl

@[simp] theorem Vol.picks_modCable (v : Vol) (d : DriveNo) (f : Cable → Cable) :
    (v.modCable d f).picks = v.picks := rfl

@[simp] theorem Vol.tests_modCable (v : Vol) (d : DriveNo) (f : Cable → Cable) :
    (v.modCable d f).tests = v.tests := rfl


@[simp] theorem Vol.power_modDisk (v : Vol) (d : DriveNo) (f : Diskette → Diskette) :
    (v.modDisk d f).power = v.power := rfl

@[simp] theorem Vol.resetHeld_modDisk (v : Vol) (d : DriveNo) (f : Diskette → Diskette) :
    (v.modDisk d f).resetHeld = v.resetHeld := rfl

@[simp] theorem Vol.ports_modDisk (v : Vol) (d : DriveNo) (f : Diskette → Diskette) :
    (v.modDisk d f).ports = v.ports := rfl

@[simp] theorem Vol.reqs_modDisk (v : Vol) (d : DriveNo) (f : Diskette → Diskette) :
    (v.modDisk d f).reqs = v.reqs := rfl

@[simp] theorem Vol.pool_modDisk (v : Vol) (d : DriveNo) (f : Diskette → Diskette) :
    (v.modDisk d f).pool = v.pool := rfl

@[simp] theorem Vol.retired_modDisk (v : Vol) (d : DriveNo) (f : Diskette → Diskette) :
    (v.modDisk d f).retired = v.retired := rfl

@[simp] theorem Vol.stamp_modDisk (v : Vol) (d : DriveNo) (f : Diskette → Diskette) :
    (v.modDisk d f).stamp = v.stamp := rfl

@[simp] theorem Vol.picks_modDisk (v : Vol) (d : DriveNo) (f : Diskette → Diskette) :
    (v.modDisk d f).picks = v.picks := rfl

@[simp] theorem Vol.tests_modDisk (v : Vol) (d : DriveNo) (f : Diskette → Diskette) :
    (v.modDisk d f).tests = v.tests := rfl


/-! ## The part an update changes -/

@[simp] theorem Vol.drive_modDrive_self (v : Vol) (d : DriveNo) (f : Drive → Drive) :
    (v.modDrive d f).drive d = f (v.drive d) := by
  simp [Vol.drive, Vol.modDrive]

theorem Vol.drive_modDrive_ne (v : Vol) (d j : DriveNo) (f : Drive → Drive) (h : j ≠ d) :
    (v.modDrive d f).drive j = v.drive j := by
  have h' : (d : ℕ) ≠ j := fun e => h (Fin.ext e.symm)
  simp [Vol.drive, Vol.modDrive, Vector.getElem_set_ne, h']

@[simp] theorem Vol.drive_modSeq_self (v : Vol) (d : DriveNo) (f : Sequencer → Sequencer) :
    (v.modSeq d f).drive d = { v.drive d with seq := f (v.drive d).seq } := by
  simp [Vol.drive, Vol.modSeq, Vol.modDrive]

theorem Vol.drive_modSeq_ne (v : Vol) (d j : DriveNo) (f : Sequencer → Sequencer) (h : j ≠ d) :
    (v.modSeq d f).drive j = v.drive j := by
  have h' : (d : ℕ) ≠ j := fun e => h (Fin.ext e.symm)
  simp [Vol.drive, Vol.modSeq, Vol.modDrive, Vector.getElem_set_ne, h']

@[simp] theorem Vol.drive_modSched_self (v : Vol) (d : DriveNo) (f : Scheduler → Scheduler) :
    (v.modSched d f).drive d = { v.drive d with sched := f (v.drive d).sched } := by
  simp [Vol.drive, Vol.modSched, Vol.modDrive]

theorem Vol.drive_modSched_ne (v : Vol) (d j : DriveNo) (f : Scheduler → Scheduler) (h : j ≠ d) :
    (v.modSched d f).drive j = v.drive j := by
  have h' : (d : ℕ) ≠ j := fun e => h (Fin.ext e.symm)
  simp [Vol.drive, Vol.modSched, Vol.modDrive, Vector.getElem_set_ne, h']

@[simp] theorem Vol.drive_modCat_self (v : Vol) (d : DriveNo) (f : Catalog → Catalog) :
    (v.modCat d f).drive d = { v.drive d with cat := f (v.drive d).cat } := by
  simp [Vol.drive, Vol.modCat, Vol.modDrive]

theorem Vol.drive_modCat_ne (v : Vol) (d j : DriveNo) (f : Catalog → Catalog) (h : j ≠ d) :
    (v.modCat d f).drive j = v.drive j := by
  have h' : (d : ℕ) ≠ j := fun e => h (Fin.ext e.symm)
  simp [Vol.drive, Vol.modCat, Vol.modDrive, Vector.getElem_set_ne, h']

@[simp] theorem Vol.drive_modCable_self (v : Vol) (d : DriveNo) (f : Cable → Cable) :
    (v.modCable d f).drive d = { v.drive d with cable := f (v.drive d).cable } := by
  simp [Vol.drive, Vol.modCable, Vol.modDrive]

theorem Vol.drive_modCable_ne (v : Vol) (d j : DriveNo) (f : Cable → Cable) (h : j ≠ d) :
    (v.modCable d f).drive j = v.drive j := by
  have h' : (d : ℕ) ≠ j := fun e => h (Fin.ext e.symm)
  simp [Vol.drive, Vol.modCable, Vol.modDrive, Vector.getElem_set_ne, h']

@[simp] theorem Vol.port_modPort_self (v : Vol) (k : Line) (f : Port → Port) :
    (v.modPort k f).port k = f (v.port k) := by
  simp [Vol.port, Vol.modPort]

theorem Vol.port_modPort_ne (v : Vol) (k j : Line) (f : Port → Port) (h : j ≠ k) :
    (v.modPort k f).port j = v.port j := by
  have h' : (k : ℕ) ≠ j := fun e => h (Fin.ext e.symm)
  simp [Vol.port, Vol.modPort, Vector.getElem_set_ne, h']

@[simp] theorem Vol.req_setReq_self (v : Vol) (r : ReqId) (q : Option Request) :
    (v.setReq r q).req r = q := by
  simp [Vol.req, Vol.setReq]

theorem Vol.req_setReq_ne (v : Vol) (r j : ReqId) (q : Option Request) (h : j ≠ r) :
    (v.setReq r q).req j = v.req j := by
  have h' : (r : ℕ) ≠ j := fun e => h (Fin.ext e.symm)
  simp [Vol.req, Vol.setReq, Vector.getElem_set_ne, h']

@[simp] theorem Vol.req_modReq_self (v : Vol) (r : ReqId) (f : Request → Request) :
    (v.modReq r f).req r = (v.req r).map f := by
  simp [Vol.req, Vol.modReq, Vol.setReq, Vol.req]

theorem Vol.req_modReq_ne (v : Vol) (r j : ReqId) (f : Request → Request) (h : j ≠ r) :
    (v.modReq r f).req j = v.req j := by
  have h' : (r : ℕ) ≠ j := fun e => h (Fin.ext e.symm)
  simp [Vol.req, Vol.modReq, Vol.setReq, Vol.req, Vector.getElem_set_ne, h']

@[simp] theorem Vol.buf_setBuf_self (v : Vol) (b : BufNo) (x : Buffer) :
    (v.setBuf b x).buf b = x := by
  simp [Vol.buf, Vol.setBuf]

theorem Vol.buf_setBuf_ne (v : Vol) (b j : BufNo) (x : Buffer) (h : j ≠ b) :
    (v.setBuf b x).buf j = v.buf j := by
  have h' : (b : ℕ) ≠ j := fun e => h (Fin.ext e.symm)
  simp [Vol.buf, Vol.setBuf, Vector.getElem_set_ne, h']

@[simp] theorem Vol.record_setRecord_self (v : Vol) (k : RecNo) (x : Retired) :
    (v.setRecord k x).record k = x := by
  simp [Vol.record, Vol.setRecord]

theorem Vol.record_setRecord_ne (v : Vol) (k j : RecNo) (x : Retired) (h : j ≠ k) :
    (v.setRecord k x).record j = v.record j := by
  have h' : (k : ℕ) ≠ j := fun e => h (Fin.ext e.symm)
  simp [Vol.record, Vol.setRecord, Vector.getElem_set_ne, h']

/-! ## Reads of another part -/

@[simp] theorem Vol.drive_modPort (v : Vol) (k : Line) (f : Port → Port) (d : DriveNo) :
    (v.modPort k f).drive d = v.drive d := rfl

@[simp] theorem Vol.drive_setReq (v : Vol) (r : ReqId) (q : Option Request) (d : DriveNo) :
    (v.setReq r q).drive d = v.drive d := rfl

@[simp] theorem Vol.drive_modReq (v : Vol) (r : ReqId) (f : Request → Request) (d : DriveNo) :
    (v.modReq r f).drive d = v.drive d := rfl

@[simp] theorem Vol.drive_setBuf (v : Vol) (b : BufNo) (x : Buffer) (d : DriveNo) :
    (v.setBuf b x).drive d = v.drive d := rfl

@[simp] theorem Vol.drive_setRecord (v : Vol) (k : RecNo) (x : Retired) (d : DriveNo) :
    (v.setRecord k x).drive d = v.drive d := rfl

@[simp] theorem Vol.drive_nextStamp (v : Vol) (d : DriveNo) :
    (v.nextStamp).drive d = v.drive d := rfl

@[simp] theorem Vol.port_modDrive (v : Vol) (d : DriveNo) (f : Drive → Drive) (j : Line) :
    (v.modDrive d f).port j = v.port j := rfl

@[simp] theorem Vol.port_modSeq (v : Vol) (d : DriveNo) (f : Sequencer → Sequencer) (j : Line) :
    (v.modSeq d f).port j = v.port j := rfl

@[simp] theorem Vol.port_modSched (v : Vol) (d : DriveNo) (f : Scheduler → Scheduler) (j : Line) :
    (v.modSched d f).port j = v.port j := rfl

@[simp] theorem Vol.port_modCat (v : Vol) (d : DriveNo) (f : Catalog → Catalog) (j : Line) :
    (v.modCat d f).port j = v.port j := rfl

@[simp] theorem Vol.port_modMirror (v : Vol) (d : DriveNo) (f : Mirror → Mirror) (j : Line) :
    (v.modMirror d f).port j = v.port j := rfl

@[simp] theorem Vol.port_modCable (v : Vol) (d : DriveNo) (f : Cable → Cable) (j : Line) :
    (v.modCable d f).port j = v.port j := rfl

@[simp] theorem Vol.port_modDisk (v : Vol) (d : DriveNo) (f : Diskette → Diskette) (j : Line) :
    (v.modDisk d f).port j = v.port j := rfl

@[simp] theorem Vol.port_setReq (v : Vol) (r : ReqId) (q : Option Request) (j : Line) :
    (v.setReq r q).port j = v.port j := rfl

@[simp] theorem Vol.port_modReq (v : Vol) (r : ReqId) (f : Request → Request) (j : Line) :
    (v.modReq r f).port j = v.port j := rfl

@[simp] theorem Vol.port_setBuf (v : Vol) (b : BufNo) (x : Buffer) (j : Line) :
    (v.setBuf b x).port j = v.port j := rfl

@[simp] theorem Vol.port_setRecord (v : Vol) (k : RecNo) (x : Retired) (j : Line) :
    (v.setRecord k x).port j = v.port j := rfl

@[simp] theorem Vol.port_nextStamp (v : Vol) (j : Line) :
    (v.nextStamp).port j = v.port j := rfl

@[simp] theorem Vol.req_modDrive (v : Vol) (d : DriveNo) (f : Drive → Drive) (j : ReqId) :
    (v.modDrive d f).req j = v.req j := rfl

@[simp] theorem Vol.req_modSeq (v : Vol) (d : DriveNo) (f : Sequencer → Sequencer) (j : ReqId) :
    (v.modSeq d f).req j = v.req j := rfl

@[simp] theorem Vol.req_modSched (v : Vol) (d : DriveNo) (f : Scheduler → Scheduler) (j : ReqId) :
    (v.modSched d f).req j = v.req j := rfl

@[simp] theorem Vol.req_modCat (v : Vol) (d : DriveNo) (f : Catalog → Catalog) (j : ReqId) :
    (v.modCat d f).req j = v.req j := rfl

@[simp] theorem Vol.req_modMirror (v : Vol) (d : DriveNo) (f : Mirror → Mirror) (j : ReqId) :
    (v.modMirror d f).req j = v.req j := rfl

@[simp] theorem Vol.req_modCable (v : Vol) (d : DriveNo) (f : Cable → Cable) (j : ReqId) :
    (v.modCable d f).req j = v.req j := rfl

@[simp] theorem Vol.req_modDisk (v : Vol) (d : DriveNo) (f : Diskette → Diskette) (j : ReqId) :
    (v.modDisk d f).req j = v.req j := rfl

@[simp] theorem Vol.req_modPort (v : Vol) (k : Line) (f : Port → Port) (j : ReqId) :
    (v.modPort k f).req j = v.req j := rfl

@[simp] theorem Vol.req_setBuf (v : Vol) (b : BufNo) (x : Buffer) (j : ReqId) :
    (v.setBuf b x).req j = v.req j := rfl

@[simp] theorem Vol.req_setRecord (v : Vol) (k : RecNo) (x : Retired) (j : ReqId) :
    (v.setRecord k x).req j = v.req j := rfl

@[simp] theorem Vol.req_nextStamp (v : Vol) (j : ReqId) :
    (v.nextStamp).req j = v.req j := rfl

@[simp] theorem Vol.buf_modDrive (v : Vol) (d : DriveNo) (f : Drive → Drive) (j : BufNo) :
    (v.modDrive d f).buf j = v.buf j := rfl

@[simp] theorem Vol.buf_modSeq (v : Vol) (d : DriveNo) (f : Sequencer → Sequencer) (j : BufNo) :
    (v.modSeq d f).buf j = v.buf j := rfl

@[simp] theorem Vol.buf_modSched (v : Vol) (d : DriveNo) (f : Scheduler → Scheduler) (j : BufNo) :
    (v.modSched d f).buf j = v.buf j := rfl

@[simp] theorem Vol.buf_modCat (v : Vol) (d : DriveNo) (f : Catalog → Catalog) (j : BufNo) :
    (v.modCat d f).buf j = v.buf j := rfl

@[simp] theorem Vol.buf_modMirror (v : Vol) (d : DriveNo) (f : Mirror → Mirror) (j : BufNo) :
    (v.modMirror d f).buf j = v.buf j := rfl

@[simp] theorem Vol.buf_modCable (v : Vol) (d : DriveNo) (f : Cable → Cable) (j : BufNo) :
    (v.modCable d f).buf j = v.buf j := rfl

@[simp] theorem Vol.buf_modDisk (v : Vol) (d : DriveNo) (f : Diskette → Diskette) (j : BufNo) :
    (v.modDisk d f).buf j = v.buf j := rfl

@[simp] theorem Vol.buf_modPort (v : Vol) (k : Line) (f : Port → Port) (j : BufNo) :
    (v.modPort k f).buf j = v.buf j := rfl

@[simp] theorem Vol.buf_setReq (v : Vol) (r : ReqId) (q : Option Request) (j : BufNo) :
    (v.setReq r q).buf j = v.buf j := rfl

@[simp] theorem Vol.buf_modReq (v : Vol) (r : ReqId) (f : Request → Request) (j : BufNo) :
    (v.modReq r f).buf j = v.buf j := rfl

@[simp] theorem Vol.buf_setRecord (v : Vol) (k : RecNo) (x : Retired) (j : BufNo) :
    (v.setRecord k x).buf j = v.buf j := rfl

@[simp] theorem Vol.buf_nextStamp (v : Vol) (j : BufNo) :
    (v.nextStamp).buf j = v.buf j := rfl

@[simp] theorem Vol.record_modDrive (v : Vol) (d : DriveNo) (f : Drive → Drive) (j : RecNo) :
    (v.modDrive d f).record j = v.record j := rfl

@[simp] theorem Vol.record_modSeq (v : Vol) (d : DriveNo) (f : Sequencer → Sequencer) (j : RecNo) :
    (v.modSeq d f).record j = v.record j := rfl

@[simp] theorem Vol.record_modSched (v : Vol) (d : DriveNo) (f : Scheduler → Scheduler) (j : RecNo) :
    (v.modSched d f).record j = v.record j := rfl

@[simp] theorem Vol.record_modCat (v : Vol) (d : DriveNo) (f : Catalog → Catalog) (j : RecNo) :
    (v.modCat d f).record j = v.record j := rfl

@[simp] theorem Vol.record_modMirror (v : Vol) (d : DriveNo) (f : Mirror → Mirror) (j : RecNo) :
    (v.modMirror d f).record j = v.record j := rfl

@[simp] theorem Vol.record_modCable (v : Vol) (d : DriveNo) (f : Cable → Cable) (j : RecNo) :
    (v.modCable d f).record j = v.record j := rfl

@[simp] theorem Vol.record_modDisk (v : Vol) (d : DriveNo) (f : Diskette → Diskette) (j : RecNo) :
    (v.modDisk d f).record j = v.record j := rfl

@[simp] theorem Vol.record_modPort (v : Vol) (k : Line) (f : Port → Port) (j : RecNo) :
    (v.modPort k f).record j = v.record j := rfl

@[simp] theorem Vol.record_setReq (v : Vol) (r : ReqId) (q : Option Request) (j : RecNo) :
    (v.setReq r q).record j = v.record j := rfl

@[simp] theorem Vol.record_modReq (v : Vol) (r : ReqId) (f : Request → Request) (j : RecNo) :
    (v.modReq r f).record j = v.record j := rfl

@[simp] theorem Vol.record_setBuf (v : Vol) (b : BufNo) (x : Buffer) (j : RecNo) :
    (v.setBuf b x).record j = v.record j := rfl

@[simp] theorem Vol.record_nextStamp (v : Vol) (j : RecNo) :
    (v.nextStamp).record j = v.record j := rfl

/-! ## The whole state -/

@[simp] theorem State.pending_finish (s : State) (p : Battery × Vol) : (s.finish p).pending = s.pending := rfl

@[simp] theorem State.bat_finish (s : State) (p : Battery × Vol) : (s.finish p).bat = p.1 := rfl

theorem State.vol_finish (s : State) (p : Battery × Vol) :
    (s.finish p).vol = settle p.1 (noteEligible s.vol p.2) := rfl

end Sys2Proof.Machine
end

