-- ==== Sys2Proof/Laws/Exec.lean ====
section
/-! SUPPORT. Every command in one form: it acts or not, and where it acts the next state is the finish of its own
effects. The invariants below the step are proved through this form. -/

namespace Sys2Proof.Machine

/-- A command's own effects, before the follow-on work. -/
def ownEffect (i : Instr) (b : Battery) (v : Vol) : Battery × Vol :=
  match i with
  | .frameComplete k x => takeCompletion k x b v
  | .frameFault k c => takeFault k c b v
  | .frameGapExpiry k => (b, v.gapExpires b k)
  | .silenceTimerExpiry k => (b, v.silenceExpires k)
  | .lineBreak k => (b, v.takeBreakLine b k)
  | .frameSent k => takeSent k b v
  | .powerOn kept => powerOn kept b v
  | .resetHold => resetHold b v
  | .resetRelease => resetRelease b v
  | .secondEnd => secondEnd b v
  | .indexPulse d => (b, v.indexPulse b d)
  | .headUnload d => (b, v.headUnload b d)
  | .indexStall d => (b, v.indexStall b d)
  | .doorLineChange d closed m => (b, v.doorLine d closed m)
  | .doorOpening d => (b, v.doorOpens b d)
  | .doorClosing d => (b, v.doorCloses b d)
  | .stepDone d t => (b, v.stepDone b d t)
  | .settleDone d => (b, v.settleDone b d)
  | .headLoadDone d => (b, v.headLoadDone b d)
  | .headerFound d h => (b, v.headerFound d h)
  | .searchLimit d => (b, v.searchLimit b d)
  | .sectorBoundary d f => (b, v.sectorBoundary b d f)
  | .verifySectorEnd d f => (b, v.verifySectorEnd b d f)
  | .idleLimitExpiry r => (b, v.idleExpires r)
  | .formatUnitEnd d => (b, v.formatUnitDone b d)
  | .copyOpeningEnd d => (b, v.copyOpeningDone b d)
  | .copyCatalogUnitEnd d => (b, v.copyCatalogDone b d)
  | .copyLabelVerified d => (b, v.copyLabelDone b d)
  | .characterReceived k x => takeByte k x b v
  | .lineReturnToMark k => (b, v.returnsToMark k)
  | .mainPowerLoss => powerLoss b v
  | .angleUnitTick d p => (b, v.angleUnit d p)
  | i => takeCommand i b v

/-- The line of a command that is a whole frame. -/
def frameLineOf : Instr → Option Line
  | .fetch k .. => some k
  | .draw k .. => some k
  | .file k .. => some k
  | .text k .. => some k
  | .close k .. => some k
  | .release k .. => some k
  | .spike k .. => some k
  | .list k .. => some k
  | .cancel k .. => some k
  | .status k _ => some k
  | .time k _ => some k
  | .drive k .. => some k
  | .set k .. => some k
  | .get k .. => some k
  | .settime k .. => some k
  | .trim k .. => some k
  | .round k _ => some k
  | .edition k .. => some k
  | .breakHold k .. => some k
  | .format k .. => some k
  | .copy k .. => some k
  | .recal k .. => some k
  | .restart k _ => some k
  | _ => none

/-- A command that acts whether the blocks run or not. -/
def actsAlways : Instr → Bool
  | .powerOn _ => true
  | .resetHold => true
  | .resetRelease => true
  | .secondEnd => true
  | .doorLineChange .. => true
  | .mainPowerLoss => true
  | .angleUnitTick .. => true
  | _ => false

/-- A command acts in a state. -/
def State.acts (s : State) (i : Instr) : Bool :=
  actsAlways i || (s.vol.live && (match frameLineOf i with
    | some k => s.vol.passes s.bat k
    | none => true))

theorem exec_eq (i : Instr) (s : State) :
    exec i s = .next (if s.acts i then s.finish (ownEffect i s.bat s.vol) else s) := by
  cases i <;>
    simp only [exec, execFetch, execDraw, execFile, execText, execClose, execRelease, execSpike, execList, execCancel,
      execStatus, execTime, execDrive, execSet, execGet, execSettime, execTrim, execRound, execEdition, execBreakHold,
      execFormat, execCopy, execRecal, execRestart, execFrameComplete, execFrameFault, execFrameGapExpiry,
      execSilenceTimerExpiry, execLineBreak, execFrameSent, execCharacterReceived, execLineReturnToMark, execPowerOn,
      execResetHold, execResetRelease, execSecondEnd, execMainPowerLoss, execIndexPulse, execHeadUnload, execIndexStall,
      execDoorLineChange, execDoorOpening, execDoorClosing, execStepDone, execSettleDone, execHeadLoadDone,
      execHeaderFound, execSearchLimit, execSectorBoundary, execVerifySectorEnd, execIdleLimitExpiry,
      execFormatUnitEnd, execCopyOpeningEnd, execCopyCatalogUnitEnd, execCopyLabelVerified, execAngleUnitTick,
      State.onLine, State.whenLive, State.acts, actsAlways, frameLineOf, ownEffect, takeCommand,
      Bool.false_or, Bool.true_or, Bool.and_true, if_true] <;>
    split <;> rfl

end Sys2Proof.Machine
end

