-- ==== Sys2Proof/Laws/Follow.lean ====
section
/-! SUPPORT. What the follow-on work of a command can do outside: frames placed in stores that have room, and nothing
else. -/

namespace Sys2Proof.Machine

/-! ## Reading the outside -/

theorem Vol.outside_iff (v w : Vol) : w.outside = v.outside ↔
    w.power = v.power ∧ w.resetHeld = v.resetHeld ∧ (∀ d, (w.drive d).cable = (v.drive d).cable)
      ∧ ∀ k, (w.port k).face = (v.port k).face := by
  have hd : w.drives.map Drive.cable = v.drives.map Drive.cable ↔ ∀ d, (w.drive d).cable = (v.drive d).cable := by
    constructor
    · intro h d
      have := congrArg (fun x : Vector Cable 4 => x[d]) h
      simpa [Vol.drive] using this
    · intro h
      ext i hi
      simpa [Vol.drive] using h ⟨i, hi⟩
  have hp : w.ports.map Port.face = v.ports.map Port.face ↔ ∀ k, (w.port k).face = (v.port k).face := by
    constructor
    · intro h k
      have := congrArg (fun x : Vector PortFace 9 => x[k]) h
      simpa [Vol.port] using this
    · intro h
      ext i hi
      simpa [Vol.port] using h ⟨i, hi⟩
  simp only [Vol.outside, Outside.mk.injEq, hd, hp]

theorem Vol.live_of_outside {v w : Vol} (h : w.outside = v.outside) : w.live = v.live := by
  rw [Vol.outside_iff] at h
  simp only [Vol.live, h.1, h.2.1]

theorem Port.face_iff (p q : Port) : q.face = p.face ↔ q.inlet = p.inlet ∧ q.store = p.store := by
  cases p
  cases q
  simp only [Port.face, Port.inlet, PortFace.mk.injEq, Prod.mk.injEq]
  tauto

/-! ## Placed only -/

theorem Vol.placedOnly_of_outside {v w : Vol} (h : w.outside = v.outside) : v.placedOnly w := by
  rw [Vol.outside_iff] at h
  obtain ⟨h1, h2, h3, h4⟩ := h
  refine ⟨h1, h2, h3, fun k => ?_⟩
  have := (Port.face_iff _ _).mp (h4 k)
  exact ⟨this.1, [], by simp [this.2], .inl rfl⟩

theorem Vol.placedOnly_refl (v : Vol) : v.placedOnly v := Vol.placedOnly_of_outside rfl

theorem Vol.placedOnly_trans {u v w : Vol} (h : u.placedOnly v) (g : v.placedOnly w) : u.placedOnly w := by
  obtain ⟨h1, h2, h3, h4⟩ := h
  obtain ⟨g1, g2, g3, g4⟩ := g
  refine ⟨g1.trans h1, g2.trans h2, fun d => (g3 d).trans (h3 d), fun k => ?_⟩
  obtain ⟨a, fs, b, c⟩ := h4 k
  obtain ⟨a', fs', b', c'⟩ := g4 k
  refine ⟨a'.trans a, fs ++ fs', by rw [b', b, List.append_assoc], ?_⟩
  rcases c' with c' | c'
  · subst c'
    rcases c with c | c
    · exact .inl (by simp [c])
    · exact .inr (by rw [b', List.append_nil]; exact c)
  · exact .inr c'

theorem Vol.live_of_placedOnly {v w : Vol} (h : v.placedOnly w) : w.live = v.live := by
  simp only [Vol.live, h.1, h.2.1]

/-! ## The placing operations -/

theorem Vol.port_modPort (v : Vol) (k j : Line) (f : Port → Port) :
    (v.modPort k f).port j = if k = j then f (v.port j) else v.port j := by
  simp only [Vol.port, Vol.modPort, Fin.getElem_fin, Vector.getElem_set, Fin.ext_iff]
  split
  · next h => simp only [h]
  · rfl

theorem Vol.placedOnly_place {v : Vol} {k : Line} (body : List Byte) (m : Mark) (h : v.hasRoom k = true) :
    v.placedOnly (v.place k body m) := by
  refine ⟨rfl, rfl, fun _ => rfl, fun j => ?_⟩
  unfold Vol.place
  rw [Vol.port_modPort]
  split
  · next e =>
    subst e
    refine ⟨rfl, [⟨body, m⟩], rfl, .inr ?_⟩
    simp only [Vol.hasRoom, decide_eq_true_eq] at h
    simp only [List.length_append, List.length_cons, List.length_nil]
    omega
  · exact ⟨rfl, [], by simp, .inl rfl⟩

theorem Vol.hasRoom_of_outside {v w : Vol} (h : w.outside = v.outside) (k : Line) : w.hasRoom k = v.hasRoom k := by
  rw [Vol.outside_iff] at h
  have := (Port.face_iff _ _).mp (h.2.2.2 k)
  simp only [Vol.hasRoom, this.2]

theorem Vol.placedOnly_place_after {v w : Vol} {k : Line} (body : List Byte) (m : Mark) (h : v.hasRoom k = true)
    (o : w.outside = v.outside) : v.placedOnly (w.place k body m) :=
  Vol.placedOnly_trans (Vol.placedOnly_of_outside o)
    (Vol.placedOnly_place body m ((Vol.hasRoom_of_outside o k).trans h))

theorem Vol.placedOnly_then {v w u : Vol} (h : v.placedOnly w) (o : u.outside = w.outside) : v.placedOnly u :=
  Vol.placedOnly_trans h (Vol.placedOnly_of_outside o)

theorem Vol.placedOnly_placeListing {v : Vol} {k : Line} (w : Waiting) (tag : Byte) (rs : List (List Byte)) (n : Nat)
    (h : v.hasRoom k = true) : v.placedOnly (v.placeListing k w tag rs n) := by
  unfold Vol.placeListing
  split
  · exact Vol.placedOnly_place_after _ _ h (by simp)
  · exact Vol.placedOnly_place_after _ _ h (Vol.outside_modPort _ _ _ (fun _ => rfl))

theorem Vol.placedOnly_placeReply {v : Vol} {k : Line} (w : Waiting) (src : Option ReqId)
    (h : v.hasRoom k = true) : v.placedOnly (v.placeReply k w src) := by
  unfold Vol.placeReply
  split
  · exact Vol.placedOnly_place_after _ _ h (by simp)
  · exact Vol.placedOnly_placeListing _ _ _ _ h
  · dsimp only
    next r body _ =>
      have h1 := Vol.placedOnly_place body w.mark h
      split
      · exact Vol.placedOnly_then h1 (Vol.outside_setReq ..)
      · exact Vol.placedOnly_then h1 (Vol.outside_modReq ..)
  · exact Vol.placedOnly_of_outside (by simp)

theorem Vol.placedOnly_placeFirst {v w : Vol} {k : Line} (e : v.placeFirst k = some w) : v.placedOnly w := by
  unfold Vol.placeFirst at e
  split at e
  · next h =>
    split at e
    · cases e
      exact Vol.placedOnly_placeReply _ _ h
    · split at e
      · cases e
        exact Vol.placedOnly_then (Vol.placedOnly_place _ _ h) (Vol.outside_modNotice ..)
      · cases e
  · cases e

theorem Vol.placedOnly_placeNext {v w : Vol} (e : v.placeNext = some w) : v.placedOnly w := by
  unfold Vol.placeNext at e
  obtain ⟨k, _, h⟩ := List.exists_of_findSome?_eq_some e
  exact Vol.placedOnly_placeFirst h

theorem Vol.placedOnly_placeText {v : Vol} {k : Line} (r : ReqId) (h : v.hasRoom k = true) :
    v.placedOnly (v.placeText k r) := by
  unfold Vol.placeText
  split
  · exact Vol.placedOnly_refl v
  · split
    · exact Vol.placedOnly_refl v
    · dsimp only
      next q _ _ x _ _ =>
        have h1 := Vol.placedOnly_place ([0x81#8, q.tag]
          ++ slice (v.buf x).data (q.delivered % Config.sectorBytes) q.textCount) .plain h
        split <;> split <;> exact Vol.placedOnly_then h1 (by simp)

/-! ## The follow-on work -/

theorem Vol.textClaims_room {v : Vol} {k : Line} {r : ReqId} (h : Claim.text k r ∈ v.textClaims) :
    v.hasRoom k = true := by
  unfold Vol.textClaims at h
  rw [List.mem_flatMap] at h
  obtain ⟨j, _, hj⟩ := h
  split at hj
  · next hr =>
    split at hj
    · cases hj
    · rw [List.mem_singleton] at hj
      cases hj
      exact hr
  · cases hj

theorem Vol.claims_room {v : Vol} {k : Line} {r : ReqId} (h : Claim.text k r ∈ v.claims) : v.hasRoom k = true := by
  unfold Vol.claims at h
  simp only [List.mem_append, List.mem_map, reduceCtorEq, and_false, exists_false, false_or] at h
  exact Vol.textClaims_room h

theorem Vol.placedOnly_meet {v : Vol} (b : Battery) (c : Claim) (h : ∀ k r, c = .text k r → v.hasRoom k = true) :
    v.placedOnly (v.meet b c) := by
  cases c with
  | test d a => exact Vol.placedOnly_of_outside (by simp [Vol.meet])
  | select d => exact Vol.placedOnly_of_outside (by simp [Vol.meet])
  | write r => exact Vol.placedOnly_of_outside (by simp [Vol.meet])
  | text k r => exact Vol.placedOnly_placeText r (h k r rfl)

theorem Vol.placedOnly_meetOne {v w : Vol} {b : Battery} (e : v.meetOne b = some w) : v.placedOnly w := by
  unfold Vol.meetOne at e
  have hc : ∀ c ∈ v.claims, ∀ k r, c = Claim.text k r → v.hasRoom k = true :=
    fun c hm k r hk => Vol.claims_room (hk ▸ hm)
  generalize v.claims = cs at e hc
  split at e
  · cases e
  · cases e
    exact Vol.placedOnly_meet b _ (hc _ (by simp))
  · next c c' cs =>
    cases e
    refine Vol.placedOnly_trans (v := { v with picks := v.picks + 1 }) (Vol.placedOnly_of_outside rfl) ?_
    refine Vol.placedOnly_meet b _ (fun k r hk => ?_)
    show v.hasRoom k = true
    refine hc _ ?_ k r hk
    rw [List.getD_eq_getElem?_getD]
    rw [List.getElem?_eq_getElem (Nat.mod_lt _ (by simp))]
    exact List.getElem_mem _

theorem orElse_some_iff {α : Type} (a : Option α) (f : Unit → Option α) (x : α) :
    a.orElse f = some x ↔ a = some x ∨ (a = none ∧ f () = some x) := by
  cases a <;> simp [Option.orElse]

theorem Vol.placedOnly_followOn {v w : Vol} {b : Battery} (e : v.followOn b = some w) : v.placedOnly w := by
  unfold Vol.followOn at e
  simp only [orElse_some_iff] at e
  rcases e with e | ⟨_, e | ⟨_, e | ⟨_, e | ⟨_, e⟩⟩⟩⟩
  · unfold Vol.dropTest at e
    rw [Option.map_eq_some_iff] at e
    obtain ⟨t, _, rfl⟩ := e
    exact Vol.placedOnly_of_outside rfl
  · unfold Vol.beginNext at e
    rw [Option.map_eq_some_iff] at e
    obtain ⟨d, _, rfl⟩ := e
    exact Vol.placedOnly_of_outside (by simp)
  · exact Vol.placedOnly_placeNext e
  · unfold Vol.idleNext at e
    rw [Option.map_eq_some_iff] at e
    obtain ⟨d, _, rfl⟩ := e
    exact Vol.placedOnly_of_outside (by simp)
  · exact Vol.placedOnly_meetOne e

theorem Vol.placedOnly_settleLoop (b : Battery) (n : Nat) (v : Vol) : v.placedOnly (settleLoop b n v) := by
  induction n generalizing v with
  | zero => exact Vol.placedOnly_refl v
  | succ n ih =>
    unfold settleLoop
    split
    · exact Vol.placedOnly_refl v
    · next w e =>
      exact Vol.placedOnly_trans (Vol.placedOnly_followOn e)
        (Vol.placedOnly_trans (Vol.placedOnly_of_outside rfl) (ih _))

theorem Vol.placedOnly_settle (b : Battery) (v : Vol) : v.placedOnly (settle b v) := by
  unfold settle
  split
  · exact Vol.placedOnly_settleLoop b _ v
  · exact Vol.placedOnly_refl v

theorem State.placedOnly_finish (s : State) (p : Battery × Vol) : p.2.placedOnly (s.finish p).vol :=
  Vol.placedOnly_trans (Vol.placedOnly_of_outside rfl) (Vol.placedOnly_settle p.1 _)

end Sys2Proof.Machine
end

