-- ==== Sys2Proof/Laws/Live.lean ====
section
/-! SUPPORT. Whether the blocks run is changed by the power and RESET events alone. -/

set_option linter.unusedTactic false
set_option linter.unreachableTactic false

namespace Sys2Proof.Machine

theorem Vol.live_eq (v : Vol) : v.live = (v.outside.power && !v.outside.resetHeld) := rfl

@[simp] theorem Vol.live_modPort (v : Vol) (k : Line) (f : Port → Port) : (v.modPort k f).live = v.live := rfl

@[simp] theorem Vol.live_modCable (v : Vol) (d : DriveNo) (f : Cable → Cable) : (v.modCable d f).live = v.live := rfl

@[simp] theorem Vol.live_modDisk (v : Vol) (d : DriveNo) (f : Diskette → Diskette) : (v.modDisk d f).live = v.live := rfl

@[simp] theorem Vol.live_modDrive (v : Vol) (d : DriveNo) (f : Drive → Drive) : (v.modDrive d f).live = v.live := rfl

@[simp] theorem Vol.live_modSeq (v : Vol) (d : DriveNo) (f : Sequencer → Sequencer) : (v.modSeq d f).live = v.live := rfl

@[simp] theorem Vol.live_assemble (k : Line) (a : Assembler) (g t : Bool) (v : Vol) :
    (v.assemble k a g t).live = v.live := rfl

theorem Vol.live_foldl {α : Type} (f : Vol → α → Vol) (h : ∀ v x, (f v x).live = v.live) (xs : List α) (v : Vol) :
    (xs.foldl f v).live = v.live := by
  induction xs generalizing v with
  | nil => rfl
  | cons x xs ih => rw [List.foldl_cons, ih, h]

@[simp] theorem Vol.live_spoil (d : DriveNo) (v : Vol) : (v.spoil d).live = v.live := by
  unfold Vol.spoil Vol.spoilUnit
  repeat' (first | rfl | (dsimp only; done) | split | dsimp only)

@[simp] theorem Vol.live_sectorCompleted (b : Battery) (d : DriveNo) (o : Order) (v : Vol) :
    (v.sectorCompleted b d o).live = v.live := Vol.live_of_outside (by simp)

@[simp] theorem Vol.live_attemptFailed (b : Battery) (d : DriveNo) (o : Order) (x y : Bool) (v : Vol) :
    (v.attemptFailed b d o x y).live = v.live := Vol.live_of_outside (by simp)

@[simp] theorem Vol.live_orderEnd (b : Battery) (d : DriveNo) (oc : OutcomeCode) (v : Vol) :
    (v.orderEnd b d oc).live = v.live := Vol.live_of_outside (by simp)

@[simp] theorem Vol.live_verifyRound (b : Battery) (d : DriveNo) (o : Order) (w : VerifyWork) (v : Vol) :
    (v.verifyRound b d o w).live = v.live := Vol.live_of_outside (by simp)

@[simp] theorem Vol.live_suspectCut (d : DriveNo) (o : Order) (w : VerifyWork) (v : Vol) :
    (v.suspectCut d o w).live = v.live := Vol.live_of_outside (by simp)

@[simp] theorem Vol.live_setPhase (v : Vol) (d : DriveNo) (p : Phase) : (v.setPhase d p).live = v.live := rfl

@[simp] theorem Vol.live_fillBuf (v : Vol) (x : BufNo) (bs : List Byte) : (v.fillBuf x bs).live = v.live := rfl

@[simp] theorem Vol.live_readBad (o : Order) (f : FieldRead) (v : Vol) : (v.readBad o f).live = v.live :=
  Vol.live_of_outside (by simp)

@[simp] theorem Vol.live_orderTransferEnd (b : Battery) (d : DriveNo) (o : Order) (f : FieldRead) (v : Vol) :
    (v.orderTransferEnd b d o f).live = v.live := by
  unfold Vol.orderTransferEnd
  repeat' (first | (simp; done) | split)

@[simp] theorem Vol.live_verifyEnd (b : Battery) (d : DriveNo) (o : Order) (w : VerifyWork) (f : FieldRead) (v : Vol) :
    (v.verifyEnd b d o w f).live = v.live := by
  unfold Vol.verifyEnd
  repeat' (first | (simp; done) | split | dsimp only)

@[simp] theorem Vol.live_unitSectorDone (b : Battery) (d : DriveNo) (u : UnitWork) (x : Bool) (v : Vol) :
    (v.unitSectorDone b d u x).live = v.live := Vol.live_of_outside (by simp)

@[simp] theorem Vol.live_unitWrite (d : DriveNo) (u : UnitWork) (x : Bool) (n : Nat) (v : Vol) :
    (v.unitWrite d u x n).live = v.live := by
  unfold Vol.unitWrite
  repeat' (first | (simp; done) | split | dsimp only)

@[simp] theorem Vol.live_unitWriteEnd (b : Battery) (d : DriveNo) (u : UnitWork) (x : Bool) (v : Vol) :
    (v.unitWriteEnd b d u x).live = v.live := by
  unfold Vol.unitWriteEnd
  repeat' (first | (simp; done) | split | dsimp only)

@[simp] theorem Vol.live_unitVerifyEnd (b : Battery) (d : DriveNo) (u : UnitWork) (x : Bool) (f : FieldRead) (v : Vol) :
    (v.unitVerifyEnd b d u x f).live = v.live := by
  unfold Vol.unitVerifyEnd Vol.labelFails
  repeat' (first | (simp; done) | split | dsimp only)

@[simp] theorem Vol.live_loadRead (b : Battery) (d : DriveNo) (l : LoadWork) (f : FieldRead) (v : Vol) :
    (v.loadRead b d l f).live = v.live := Vol.live_of_outside (by simp)

@[simp] theorem Vol.live_invalidateEnd (b : Battery) (d : DriveNo) (u : UnitWork) (v : Vol) :
    (v.invalidateEnd b d u).live = v.live := Vol.live_of_outside (by simp)

@[simp] theorem Vol.live_transferEnd (b : Battery) (d : DriveNo) (f : FieldRead) (v : Vol) :
    (v.transferEnd b d f).live = v.live := by
  unfold Vol.transferEnd
  repeat' (first | (simp; done) | split)

@[simp] theorem Vol.live_sectorBoundary (b : Battery) (d : DriveNo) (f : FieldRead) (v : Vol) :
    (v.sectorBoundary b d f).live = v.live := by
  unfold Vol.sectorBoundary Vol.passWriteEnd
  repeat' (first | (simp; done) | split)

@[simp] theorem Vol.live_verifySectorEnd (b : Battery) (d : DriveNo) (f : FieldRead) (v : Vol) :
    (v.verifySectorEnd b d f).live = v.live := by
  unfold Vol.verifySectorEnd
  repeat' (first | (simp; done) | split)

@[simp] theorem Vol.live_discard (b : Battery) (d : DriveNo) (m : MountState) (oc : OutcomeCode) (v : Vol) :
    (v.discard b d m oc).live = v.live := by
  unfold Vol.discard
  dsimp only
  generalize v.drive d = x
  rw [Vol.live_of_outside (Vol.outside_driveChange _ _)]
  rw [Vol.live_foldl (fun w r => Vol.discardRequest b d x oc r w) (fun w r => Vol.live_of_outside (Vol.outside_discardRequest b d x oc r w))]
  rw [Vol.modSched, Vol.live_modDrive, Vol.live_modSeq, Vol.live_of_outside (Vol.outside_discardMirror _ _), Vol.live_spoil]

@[simp] theorem Vol.live_go (b : Battery) (d : DriveNo) (v : Vol) : (v.go b d).live = v.live := rfl

@[simp] theorem Vol.live_recalStops (b : Battery) (d : DriveNo) (v : Vol) : (v.recalStops b d).live = v.live :=
  Vol.live_of_outside (Vol.outside_recalStops ..)

@[simp] theorem Vol.live_stepDone (b : Battery) (d : DriveNo) (t : Bool) (v : Vol) :
    (v.stepDone b d t).live = v.live := by
  unfold Vol.stepDone
  repeat' (first | (simp; done) | split | dsimp only)

@[simp] theorem Vol.live_indexStall (b : Battery) (d : DriveNo) (v : Vol) : (v.indexStall b d).live = v.live := by
  unfold Vol.indexStall
  split <;> simp

@[simp] theorem Vol.live_doorOpens (b : Battery) (d : DriveNo) (v : Vol) : (v.doorOpens b d).live = v.live := by
  unfold Vol.doorOpens
  split <;> simp

@[simp] theorem Vol.live_angleUnit (d : DriveNo) (p : Bool) (v : Vol) : (v.angleUnit d p).live = v.live := by
  unfold Vol.angleUnit
  split
  · rw [Vol.live_of_outside (Vol.outside_angleTick ..)]
    rfl
  · rfl

theorem Vol.live_cleared (v : Vol) (q : Vector (Option Request) 18) (p : Vector Buffer 40) (t : Vector Retired 8)
    (l : List (DriveNo × Nat)) : ({ v with reqs := q, pool := p, retired := t, tests := l } : Vol).live = v.live := rfl

@[simp] theorem Vol.live_resetBlocks (b : Battery) (v : Vol) : (v.resetBlocks b).live = v.live := by
  unfold Vol.resetBlocks
  dsimp only
  rw [Vol.live_cleared,
    Vol.live_foldl (fun (w : Vol) d => w.modDrive d (fun x => Drive.afterReset x.cable)) (fun _ _ => rfl),
    Vol.live_foldl (fun (w : Vol) k => w.modPort k (fun _ => Port.afterReset (b.rate k))) (fun _ _ => rfl),
    Vol.live_foldl (fun (w : Vol) d => w.spoil d) (fun w d => Vol.live_spoil d w)]

/-! ## The inbound side -/

@[simp] theorem Vol.live_frameFault (b : Battery) (k : Line) (v : Vol) : (v.frameFault b k).live = v.live :=
  Vol.live_of_outside (by simp)

theorem takeBody_live (k : Line) (body : List Byte) (b : Battery) (v : Vol) :
    (takeBody k body b v).2.live = v.live := Vol.live_of_outside (by simp)

theorem frameEnds_live (k : Line) (hi lo : Byte) (kept : List Byte) (x y : Byte) (b : Battery) (v : Vol) :
    (frameEnds k hi lo kept x y b v).2.live = v.live := by
  unfold frameEnds
  dsimp only
  split
  · split
    · rw [takeBody_live]
      rfl
    · rfl
  · simp

@[simp] theorem Vol.live_lengthEnds (b : Battery) (k : Line) (hi lo : Byte) (v : Vol) :
    (v.lengthEnds b k hi lo).live = v.live := by
  unfold Vol.lengthEnds
  split <;> simp

@[simp] theorem Vol.live_bodyByte (k : Line) (hi lo : Byte) (kept : List Byte) (x : Byte) (v : Vol) :
    (v.bodyByte k hi lo kept x).live = v.live := by
  unfold Vol.bodyByte
  dsimp only
  split <;> simp

theorem takeByte_live (k : Line) (x : Byte) (b : Battery) (v : Vol) : (takeByte k x b v).2.live = v.live := by
  unfold takeByte
  repeat' (first | (simp; done) | exact frameEnds_live .. | split)

theorem takeCompletion_live (k : Line) (x : Byte) (b : Battery) (v : Vol) :
    (takeCompletion k x b v).2.live = v.live := by
  unfold takeCompletion
  repeat' (first | (simp; done) | exact frameEnds_live .. | split)

@[simp] theorem Vol.live_framingFault (b : Battery) (k : Line) (v : Vol) : (v.framingFault b k).live = v.live := by
  unfold Vol.framingFault
  split <;> simp

theorem takeFault_live (k : Line) (c : FrameFaultCause) (b : Battery) (v : Vol) :
    (takeFault k c b v).2.live = v.live := by
  unfold takeFault
  repeat' (first | (simp; done) | exact frameEnds_live .. | split | dsimp only)

theorem takeSent_live (k : Line) (b : Battery) (v : Vol) : (takeSent k b v).2.live = v.live := by
  unfold takeSent
  split
  · rfl
  · unfold Mark.act
    split
    · rfl
    · exact Vol.live_resetBlocks ..
    · rfl

@[simp] theorem Vol.live_lineReset (b : Battery) (k : Line) (v : Vol) : (v.lineReset b k).live = v.live := by
  unfold Vol.lineReset
  dsimp only
  rw [Vol.live_foldl _ (fun v x => Vol.live_of_outside (Vol.outside_lineResetRequest ..)),
    Vol.live_foldl _ (fun v m => by unfold Vol.discardMark; split <;> rfl),
    Vol.live_of_outside (Vol.outside_dropLine ..)]
  rfl

@[simp] theorem Vol.live_takeBreakLine (b : Battery) (k : Line) (v : Vol) : (v.takeBreakLine b k).live = v.live := by
  unfold Vol.takeBreakLine
  split <;> simp

/-! ## Every command -/

/-- The power and RESET events. -/
def changesLive : Instr → Bool
  | .powerOn _ => true
  | .resetHold => true
  | .resetRelease => true
  | .mainPowerLoss => true
  | _ => false

theorem minuteTick_live (b : Battery) (v : Vol) : (minuteTick b v).2.live = v.live := Vol.live_of_outside (by simp)

theorem secondEnd_live (b : Battery) (v : Vol) : (secondEnd b v).2.live = v.live := by
  unfold secondEnd
  dsimp only
  split
  · exact minuteTick_live ..
  · rfl

theorem takeCommand_live (i : Instr) (b : Battery) (v : Vol) : (takeCommand i b v).2.live = v.live :=
  Vol.live_of_outside (by simp)

theorem ownEffect_live (i : Instr) (b : Battery) (v : Vol) (h : changesLive i = false) :
    (ownEffect i b v).2.live = v.live := by
  cases i
  case frameComplete => exact takeCompletion_live ..
  case frameFault => exact takeFault_live ..
  case frameGapExpiry => show (Vol.gapExpires ..).live = _; unfold Vol.gapExpires; split <;> simp
  case silenceTimerExpiry => show (Vol.silenceExpires ..).live = _; unfold Vol.silenceExpires; split <;> rfl
  case lineBreak => exact Vol.live_takeBreakLine ..
  case frameSent => exact takeSent_live ..
  case powerOn => exact Bool.noConfusion h
  case resetHold => exact Bool.noConfusion h
  case resetRelease => exact Bool.noConfusion h
  case mainPowerLoss => exact Bool.noConfusion h
  case secondEnd => exact secondEnd_live ..
  case indexPulse => exact Vol.live_of_outside (Vol.outside_indexPulse ..)
  case headUnload => exact Vol.live_of_outside (Vol.outside_headUnload ..)
  case indexStall => exact Vol.live_indexStall ..
  case doorLineChange => rfl
  case doorOpening => exact Vol.live_doorOpens ..
  case doorClosing => exact Vol.live_of_outside (Vol.outside_doorCloses ..)
  case stepDone => exact Vol.live_stepDone ..
  case settleDone => exact Vol.live_of_outside (Vol.outside_settleDone ..)
  case headLoadDone => exact Vol.live_of_outside (Vol.outside_headLoadDone ..)
  case headerFound => exact Vol.live_of_outside (Vol.outside_headerFound ..)
  case searchLimit => exact Vol.live_of_outside (Vol.outside_searchLimit ..)
  case sectorBoundary => exact Vol.live_sectorBoundary ..
  case verifySectorEnd => exact Vol.live_verifySectorEnd ..
  case idleLimitExpiry => exact Vol.live_of_outside (Vol.outside_idleExpires ..)
  case formatUnitEnd => exact Vol.live_of_outside (Vol.outside_formatUnitDone ..)
  case copyOpeningEnd => exact Vol.live_of_outside (Vol.outside_copyOpeningDone ..)
  case copyCatalogUnitEnd => exact Vol.live_of_outside (Vol.outside_copyCatalogDone ..)
  case copyLabelVerified => exact Vol.live_of_outside (Vol.outside_copyLabelDone ..)
  case characterReceived => exact takeByte_live ..
  case lineReturnToMark => rfl
  case angleUnitTick => exact Vol.live_angleUnit ..
  all_goals exact takeCommand_live ..

end Sys2Proof.Machine
end

