-- ==== Sys2Proof/Laws/Battery.lean ====
section
/-! SUPPORT. The battery domain under every operation that reaches it: the clock's fields stay a date and time, the
editions and settings stay in their ranges, and every other command leaves it as it was. -/

set_option linter.unusedSimpArgs false

namespace Sys2Proof.Machine

/-! ## The commands that reach the battery domain -/

/-- A command that may change the battery domain: SET, the clock's and the editions' commands, the end of a second, the
power and RESET events, a sent frame (RESTART), and the rows that carry any frame of a line. -/
def reachesBattery : Instr → Bool
  | .set .. => true
  | .settime .. => true
  | .trim .. => true
  | .round .. => true
  | .edition .. => true
  | .frameComplete .. => true
  | .frameFault .. => true
  | .characterReceived .. => true
  | .frameSent _ => true
  | .powerOn _ => true
  | .resetRelease => true
  | .secondEnd => true
  | _ => false

@[simp] theorem onlySupervisor_fst (k : Line) (tag : Byte) (b : Battery) (v : Vol) (go : Battery × Vol)
    (h : go.1 = b) : (onlySupervisor k tag b v go).1 = b := by
  unfold onlySupervisor
  split
  · exact h
  · rfl

theorem takeGet_fst (k : Line) (tag item : Byte) (b : Battery) (v : Vol) : (takeGet k tag item b v).1 = b := by
  unfold takeGet
  repeat' (first | rfl | (apply onlySupervisor_fst; rfl) | split)

theorem takeBreak_fst (k : Line) (tag d : Byte) (g : List Byte) (b : Battery) (v : Vol) :
    (takeBreak k tag d g b v).1 = b := by
  unfold takeBreak
  repeat' (first | rfl | (apply onlySupervisor_fst; rfl) | split)

theorem takeFormat_fst (k : Line) (tag d : Byte) (g : List Byte) (b : Battery) (v : Vol) :
    (takeFormat k tag d g b v).1 = b := by
  unfold takeFormat
  repeat' (first | rfl | (apply onlySupervisor_fst; rfl) | split)

theorem takeCopy_fst (k : Line) (tag c d : Byte) (b : Battery) (v : Vol) : (takeCopy k tag c d b v).1 = b := by
  unfold takeCopy
  repeat' (first | rfl | (apply onlySupervisor_fst; rfl) | split)

theorem takeRecal_fst (k : Line) (tag d : Byte) (b : Battery) (v : Vol) : (takeRecal k tag d b v).1 = b := by
  unfold takeRecal
  repeat' (first | rfl | (apply onlySupervisor_fst; rfl) | split)

theorem takeRestart_fst (k : Line) (tag : Byte) (b : Battery) (v : Vol) : (takeRestart k tag b v).1 = b := by
  unfold takeRestart
  repeat' (first | rfl | (apply onlySupervisor_fst; rfl) | split)

theorem resetHold_fst (b : Battery) (v : Vol) : (resetHold b v).1 = b := by
  unfold resetHold
  split <;> rfl

theorem powerLoss_fst (b : Battery) (v : Vol) : (powerLoss b v).1 = b := by
  unfold powerLoss
  split <;> rfl

theorem ownEffect_bat (i : Instr) (b : Battery) (v : Vol) (h : reachesBattery i = false) :
    (ownEffect i b v).1 = b := by
  cases i <;> first
    | exact Bool.noConfusion h
    | exact takeGet_fst ..
    | exact takeBreak_fst ..
    | exact takeFormat_fst ..
    | exact takeCopy_fst ..
    | exact takeRecal_fst ..
    | exact takeRestart_fst ..
    | exact resetHold_fst ..
    | exact powerLoss_fst ..
    | rfl

/-! ## The clock -/

theorem monthDays_le (yy mm : Nat) : monthDays yy mm ≤ 31 := by
  unfold monthDays
  repeat' split
  all_goals omega

theorem monthDays_ge (yy mm : Nat) : 28 ≤ monthDays yy mm := by
  unfold monthDays
  repeat' split
  all_goals omega

theorem Clock.validDate_iff (c : Clock) : c.validDate = true ↔
    c.yy ≤ 99 ∧ 1 ≤ c.mm ∧ c.mm ≤ 12 ∧ 1 ≤ c.dd ∧ c.dd ≤ monthDays c.yy c.mm ∧ c.hh ≤ 23 ∧ c.mi ≤ 59 ∧ c.ss ≤ 59 := by
  simp [Clock.validDate, and_assoc]

theorem Clock.ok_iff (c : Clock) : c.ok = true ↔
    c.validDate = true ∧ c.prescaler < c.secondLength ∧ 30721 ≤ c.secondLength ∧ c.secondLength ≤ 34816
      ∧ -2048 ≤ c.trim ∧ c.trim ≤ 2047 := by
  simp [Clock.ok, and_assoc]

theorem Clock.ok_carryMinute {c : Clock} (h : c.ok = true) : c.carryMinute.ok = true := by
  have h1 := monthDays_ge
  simp only [Clock.ok_iff, Clock.validDate_iff] at h ⊢
  obtain ⟨⟨a1, a2, a3, a4, a5, a6, a7, a8⟩, a9, a10, a11, a12, a13⟩ := h
  have h2 := h1 0 1
  have h3 := h1 (c.yy + 1) 1
  have h4 := h1 c.yy (c.mm + 1)
  simp only [Clock.carryMinute, Clock.carryHour, Clock.carryDay, Clock.carryMonth, Clock.carryYear,
    Clock.trimmedLength]
  repeat' split
  all_goals dsimp only
  all_goals omega

theorem Clock.ok_endSecond {c : Clock} (h : c.ok = true) : c.endSecond.ok = true := by
  unfold Clock.endSecond
  split
  · exact Clock.ok_carryMinute h
  · simp only [Clock.ok_iff, Clock.validDate_iff] at h ⊢
    omega

theorem Clock.ok_rounded {c : Clock} (h : c.ok = true) : c.rounded.ok = true := by
  unfold Clock.rounded
  split
  · simp only [Clock.ok_iff, Clock.validDate_iff] at h ⊢
    omega
  · exact Clock.ok_carryMinute h

theorem Clock.ok_ofBytes {c t : Clock} {yy mm dd hh mi ss : Byte} (h : c.ok = true)
    (e : c.ofBytes yy mm dd hh mi ss = some t) : t.ok = true ∧ t.valid = true := by
  unfold Clock.ofBytes at e
  split at e
  · dsimp only at e
    split at e
    · next v =>
      cases e
      simp only [Clock.ok_iff] at h ⊢
      refine ⟨⟨v, ?_⟩, trivial⟩
      omega
    · cases e
  · cases e

theorem clampTrim_range (n : Int) : -2048 ≤ clampTrim n ∧ clampTrim n ≤ 2047 := by
  unfold clampTrim
  repeat' split
  all_goals omega

/-! ## The editions -/

theorem Edition.span_pos {e : Edition} (h1 : e.opens < 1440) (h2 : e.closes < 1440) (h3 : e.opens ≠ e.closes) :
    1 ≤ e.span ∧ e.span ≤ 1439 := by
  unfold Edition.span
  omega

theorem Edition.ok_iff (e : Edition) : e.ok = true ↔
    e.opens < 1440 ∧ e.closes < 1440 ∧ e.opens ≠ e.closes ∧ e.lead ≤ 59 ∧ e.lead < e.span
      ∧ (e.enabled = true ∨ e.state = .opened) := by
  simp [Edition.ok, and_assoc]

theorem Edition.ok_recompute {e : Edition} (m : Nat) (h : e.ok = true) : (e.recompute m).ok = true := by
  simp only [Edition.ok_iff] at h ⊢
  obtain ⟨h1, h2, h3, h4, h5, h6⟩ := h
  refine ⟨h1, h2, h3, h4, h5, ?_⟩
  unfold Edition.recompute
  cases e.enabled <;> simp

theorem Edition.ok_stored {on : Bool} {o c l m : Nat} (h1 : o < 1440) (h2 : c < 1440) (h3 : o ≠ c) (h4 : l ≤ 59) :
    (Edition.stored on o c l m).ok = true := by
  refine Edition.ok_recompute m ?_
  have := Edition.span_pos (e := { enabled := on, opens := o, closes := c, lead := l, state := .opened }) h1 h2 h3
  simp only [Edition.ok_iff]
  refine ⟨h1, h2, h3, ?_, ?_, .inr trivial⟩
  · omega
  · simp only [Edition.span] at this ⊢
    omega

theorem Edition.recompute_recompute (e : Edition) (m : Nat) : (e.recompute m).recompute m = e.recompute m := by
  unfold Edition.recompute Edition.arcState Edition.span
  cases e.enabled <;> simp

theorem Edition.recompute_state (e : Edition) (m : Nat) (st : EditionState) :
    ({ e with state := st } : Edition).recompute m = e.recompute m := rfl

theorem mem_allEditions (i : Fin 8) : i ∈ allEditions := by
  revert i
  decide

@[simp] theorem Battery.clock_setEdition (b : Battery) (i : Fin 8) (e : Edition) :
    (b.setEdition i e).clock = b.clock := rfl

@[simp] theorem Battery.settings_setEdition (b : Battery) (i : Fin 8) (e : Edition) :
    (b.setEdition i e).settings = b.settings := rfl

theorem Battery.editions_setEdition (b : Battery) (i j : Fin 8) (e : Edition) :
    (b.setEdition i e).editions[j] = if i = j then e else b.editions[j] := by
  simp only [Battery.setEdition, Fin.getElem_fin, Vector.getElem_set, Fin.ext_iff]

theorem recomputeFold (l : List (Fin 8)) (b : Battery) (m : Nat) :
    (l.foldl (fun w i => w.setEdition i ((w.editions[i]).recompute m)) b).clock = b.clock
      ∧ (l.foldl (fun w i => w.setEdition i ((w.editions[i]).recompute m)) b).settings = b.settings
      ∧ ∀ j : Fin 8, (l.foldl (fun w i => w.setEdition i ((w.editions[i]).recompute m)) b).editions[j]
          = if j ∈ l then (b.editions[j]).recompute m else b.editions[j] := by
  induction l generalizing b with
  | nil => simp
  | cons x l ih =>
    obtain ⟨h1, h2, h3⟩ := ih (b.setEdition x ((b.editions[x]).recompute m))
    refine ⟨h1, h2, fun j => ?_⟩
    simp only [List.foldl_cons]
    rw [h3 j, Battery.editions_setEdition]
    by_cases e : x = j
    · subst e
      simp [Edition.recompute_recompute]
    · have e' : ¬ j = x := fun h => e h.symm
      simp [e, e']

@[simp] theorem Battery.clock_recomputeAll (b : Battery) : b.recomputeAll.clock = b.clock :=
  (recomputeFold allEditions b b.clock.minute).1

@[simp] theorem Battery.settings_recomputeAll (b : Battery) : b.recomputeAll.settings = b.settings :=
  (recomputeFold allEditions b b.clock.minute).2.1

theorem Battery.editions_recomputeAll (b : Battery) (j : Fin 8) :
    b.recomputeAll.editions[j] = (b.editions[j]).recompute b.clock.minute := by
  have := (recomputeFold allEditions b b.clock.minute).2.2 j
  rw [if_pos (mem_allEditions j)] at this
  exact this

/-- What R167 makes of an entry at a minute. -/
def Edition.evaluated (e : Edition) (m : Nat) : Edition := if e.enabled then { e with state := e.arcState m } else e

theorem Edition.evaluated_evaluated (e : Edition) (m : Nat) : (e.evaluated m).evaluated m = e.evaluated m := by
  cases e with
  | mk on o c l st => cases on <;> rfl

theorem Edition.evaluated_eq {e : Edition} (m : Nat) (h : e.ok = true) : e.evaluated m = e.recompute m := by
  rw [Edition.ok_iff] at h
  cases e
  rename_i on o c l st
  cases on <;> simp_all [Edition.evaluated, Edition.recompute]

theorem Battery.evaluate_eq (b : Battery) (i : Fin 8) :
    b.evaluate i = b.setEdition i ((b.editions[i]).evaluated b.clock.minute) := by
  unfold Battery.evaluate Edition.evaluated
  dsimp only
  split
  · rfl
  · simp [Battery.setEdition]

theorem evaluateFold (l : List (Fin 8)) (b : Battery) :
    (l.foldl Battery.evaluate b).clock = b.clock ∧ (l.foldl Battery.evaluate b).settings = b.settings
      ∧ ∀ j : Fin 8, (l.foldl Battery.evaluate b).editions[j]
          = if j ∈ l then (b.editions[j]).evaluated b.clock.minute else b.editions[j] := by
  induction l generalizing b with
  | nil => simp
  | cons x l ih =>
    obtain ⟨h1, h2, h3⟩ := ih (b.evaluate x)
    rw [Battery.evaluate_eq] at h1 h2 h3
    simp only [List.foldl_cons, Battery.evaluate_eq]
    refine ⟨h1, h2, fun j => ?_⟩
    rw [h3 j, Battery.editions_setEdition, Battery.clock_setEdition]
    by_cases e : x = j
    · subst e
      simp [Edition.evaluated_evaluated]
    · have e' : ¬ j = x := fun h => e h.symm
      simp [e, e']

@[simp] theorem Battery.clock_minuteEvent (b : Battery) : b.minuteEvent.clock = b.clock := by
  unfold Battery.minuteEvent
  split
  · exact (evaluateFold allEditions b).1
  · rfl

@[simp] theorem Battery.settings_minuteEvent (b : Battery) : b.minuteEvent.settings = b.settings := by
  unfold Battery.minuteEvent
  split
  · exact (evaluateFold allEditions b).2.1
  · rfl

theorem Battery.editions_minuteEvent (b : Battery) (j : Fin 8) :
    b.minuteEvent.editions[j]
      = if b.clock.valid then (b.editions[j]).evaluated b.clock.minute else b.editions[j] := by
  unfold Battery.minuteEvent
  split
  · rw [(evaluateFold allEditions b).2.2 j, if_pos (mem_allEditions j)]
  · rfl

/-! ## The battery domain in its ranges, and the editions current -/

theorem Battery.ok_recomputeAll {b : Battery} (h : b.ok) : b.recomputeAll.ok := by
  obtain ⟨h1, h2, h3, h4, h5⟩ := h
  refine ⟨by simpa using h1, fun i => ?_, by simpa using h3, by simpa using h4, by simpa using h5⟩
  rw [Battery.editions_recomputeAll]
  exact Edition.ok_recompute _ (h2 i)

theorem Battery.ok_minuteEvent {b : Battery} (h : b.ok) : b.minuteEvent.ok := by
  obtain ⟨h1, h2, h3, h4, h5⟩ := h
  refine ⟨by simpa using h1, fun i => ?_, by simpa using h3, by simpa using h4, by simpa using h5⟩
  rw [Battery.editions_minuteEvent]
  split
  · rw [Edition.evaluated_eq _ (h2 i)]
    exact Edition.ok_recompute _ (h2 i)
  · exact h2 i

/-- The editions are current at the clock's minute, where the clock is valid. -/
def Battery.current (b : Battery) : Prop :=
  b.clock.valid = true → ∀ i : Fin 8, b.editions[i] = (b.editions[i]).recompute b.clock.minute

theorem Battery.current_recomputeAll (b : Battery) : b.recomputeAll.current := by
  intro _ i
  rw [Battery.editions_recomputeAll, Battery.clock_recomputeAll, Edition.recompute_recompute]

theorem Battery.current_minuteEvent {b : Battery} (h : b.ok) : b.minuteEvent.current := by
  intro v i
  rw [Battery.clock_minuteEvent] at v
  rw [Battery.editions_minuteEvent, if_pos v, Battery.clock_minuteEvent, Edition.evaluated_eq _ (h.2.1 i),
    Edition.recompute_recompute]

theorem Battery.ok_setClock {b : Battery} {c : Clock} (h : b.ok) (hc : c.ok = true) :
    ({ b with clock := c } : Battery).ok := ⟨hc, h.2⟩

theorem Battery.ok_setEdition {b : Battery} {i : Fin 8} {e : Edition} (h : b.ok) (he : e.ok = true) :
    (b.setEdition i e).ok := by
  refine ⟨h.1, fun j => ?_, h.2.2⟩
  rw [Battery.editions_setEdition]
  split
  · exact he
  · exact h.2.1 j

theorem LineSettings.ok_store {t : LineSettings} (h : t.ok = true) (f : Fin 5) (x : Nat)
    (hx : x ≤ ([1, 3, 15, 15, 4] : List Nat).getD f.val 0) : (t.store f x).ok = true := by
  simp only [LineSettings.ok, Bool.and_eq_true, decide_eq_true_eq] at h ⊢
  fin_cases f <;> simp_all [LineSettings.store]

theorem DriveSettings.ok_store {t : DriveSettings} (h : t.ok = true) (f : Fin 6) (x : Nat)
    (hx : x ≤ ([7, 30, 60, 15, 2, 1] : List Nat).getD f.val 0) : (t.store f x).ok = true := by
  simp only [DriveSettings.ok, Bool.and_eq_true, decide_eq_true_eq] at h ⊢
  fin_cases f <;> simp_all [DriveSettings.store]

theorem Battery.ok_storeItem {b : Battery} (h : b.ok) (i : Item) (x : Nat) : (b.storeItem i x).ok := by
  obtain ⟨h1, h2, h3, h4, h5⟩ := h
  cases i with
  | desk k f =>
    refine ⟨h1, h2, fun j => ?_, h4, h5⟩
    simp only [Battery.storeItem, Settings.store, Fin.getElem_fin, Vector.getElem_set]
    split
    · exact LineSettings.ok_store (h3 k) f _ (Nat.min_le_right _ _)
    · exact h3 j
  | cabinet d f =>
    refine ⟨h1, h2, h3, fun j => ?_, h5⟩
    simp only [Battery.storeItem, Settings.store, Fin.getElem_fin, Vector.getElem_set]
    split
    · exact DriveSettings.ok_store (h4 d) f _ (Nat.min_le_right _ _)
    · exact h4 j
  | supervisorRate => exact ⟨h1, h2, h3, h4, Nat.min_le_right _ _⟩
  | trim => exact ⟨h1, h2, h3, h4, h5⟩

/-! ## The battery domain under every command -/

/-- What the battery domain keeps, together with whether the blocks run. -/
def Battery.kept (live : Bool) (b : Battery) : Prop := b.ok ∧ (live = true → b.current)

theorem minute_endSecond {c : Clock} (h : c.ss ≠ 59) : c.endSecond.minute = c.minute ∧ c.endSecond.valid = c.valid := by
  unfold Clock.endSecond
  rw [if_neg h]
  exact ⟨rfl, rfl⟩

theorem Battery.current_setClock {b : Battery} {c : Clock} (h : b.current) (h1 : c.minute = b.clock.minute)
    (h2 : c.valid = b.clock.valid) : ({ b with clock := c } : Battery).current := by
  intro hv i
  have := h (h2 ▸ hv) i
  show b.editions[i] = (b.editions[i]).recompute c.minute
  rw [h1]
  exact this

theorem Battery.kept_minuteTick {b : Battery} (live : Bool) (v : Vol) (h : b.ok) :
    (minuteTick b v).1.kept live := ⟨Battery.ok_minuteEvent h, fun _ => Battery.current_minuteEvent h⟩

theorem Battery.kept_secondEnd {b : Battery} {v : Vol} (h : b.kept v.live) : (secondEnd b v).1.kept v.live := by
  unfold secondEnd
  dsimp only
  have h1 := Battery.ok_setClock h.1 (Clock.ok_endSecond h.1.1)
  split
  · exact Battery.kept_minuteTick _ _ h1
  · next hc =>
    refine ⟨h1, fun hl => ?_⟩
    have : b.clock.ss ≠ 59 := by
      intro e
      simp [e, hl] at hc
    exact Battery.current_setClock (h.2 hl) (minute_endSecond this).1 (minute_endSecond this).2

theorem Battery.kept_takeSet (k : Line) (tag item : Byte) (x : Word16) {b : Battery} (v : Vol) {l : Bool}
    (h : b.kept l) : (takeSet k tag item x b v).1.kept l := by
  unfold takeSet onlySupervisor
  split
  · exact h
  · split
    · exact h
    · split
      · exact ⟨Battery.ok_storeItem h.1 _ _, h.2⟩
      · exact h

theorem Battery.kept_takeSettime (k : Line) (tag yy mm dd hh mi ss : Byte) {b : Battery} (v : Vol) {l : Bool}
    (h : b.kept l) : (takeSettime k tag yy mm dd hh mi ss b v).1.kept l := by
  unfold takeSettime onlySupervisor
  split
  · exact h
  · next e =>
    split
    · exact h
    · split
      · exact ⟨Battery.ok_recomputeAll (Battery.ok_setClock h.1 (Clock.ok_ofBytes h.1.1 e).1),
          fun _ => Battery.current_recomputeAll _⟩
      · exact h

theorem Battery.kept_takeTrim (k : Line) (tag : Byte) (x : Word16) {b : Battery} (v : Vol) {l : Bool}
    (h : b.kept l) : (takeTrim k tag x b v).1.kept l := by
  unfold takeTrim onlySupervisor
  split
  · exact h
  · split
    · refine ⟨Battery.ok_setClock h.1 ?_, fun hl => Battery.current_setClock (h.2 hl) rfl rfl⟩
      have h1 := h.1.1
      have h2 := clampTrim_range (signed16 x)
      rw [Clock.ok_iff] at h1 ⊢
      exact ⟨h1.1, h1.2.1, h1.2.2.1, h1.2.2.2.1, h2⟩
    · exact h

theorem Battery.kept_takeRound (k : Line) (tag : Byte) {b : Battery} (v : Vol) {l : Bool}
    (h : b.kept l) : (takeRound k tag b v).1.kept l := by
  unfold takeRound onlySupervisor
  split
  · exact h
  · split
    · dsimp only
      have h1 := Battery.ok_setClock h.1 (Clock.ok_rounded h.1.1)
      split
      · next hs =>
        refine ⟨h1, fun hl => Battery.current_setClock (h.2 hl) ?_ ?_⟩ <;> (unfold Clock.rounded; rw [if_pos hs]; try rfl)
      · exact Battery.kept_minuteTick _ _ h1
    · exact h

theorem parseTime_lt {hh mm : Byte} {n : Nat} (h : parseTime hh mm = some n) : n < 1440 := by
  unfold parseTime at h
  split at h
  · split at h
    · cases h
      omega
    · cases h
  · cases h

theorem Battery.kept_takeEdition (k : Line) (tag n en oh om ch cm ld : Byte) {b : Battery} (v : Vol) {l : Bool}
    (h : b.kept l) : (takeEdition k tag n en oh om ch cm ld b v).1.kept l := by
  unfold takeEdition onlySupervisor
  split
  · exact h
  · next i on o c q e =>
    split
    · exact h
    · split
      · dsimp only
        unfold parseEditionCommand at e
        split at e
        · next h1 h2 h3 =>
          split at e
          · split at e
            · next hq =>
              cases e
              refine ⟨Battery.ok_setEdition h.1 (Edition.ok_stored (parseTime_lt h2) (parseTime_lt h3) hq.1 hq.2), ?_⟩
              intro hl hv j
              rw [Battery.editions_setEdition]
              split
              · unfold Edition.stored
                exact (Edition.recompute_recompute _ _).symm
              · exact h.2 hl hv j
            · cases e
          · cases e
        · cases e
      · exact h

theorem Battery.kept_takeCommand (i : Instr) {b : Battery} (v : Vol) {l : Bool} (h : b.kept l) :
    (takeCommand i b v).1.kept l := by
  by_cases hr : reachesBattery i = false
  · cases i
    case get => show (takeGet ..).1.kept l; rw [takeGet_fst]; exact h
    case breakHold => show (takeBreak ..).1.kept l; rw [takeBreak_fst]; exact h
    case format => show (takeFormat ..).1.kept l; rw [takeFormat_fst]; exact h
    case copy => show (takeCopy ..).1.kept l; rw [takeCopy_fst]; exact h
    case recal => show (takeRecal ..).1.kept l; rw [takeRecal_fst]; exact h
    case restart => show (takeRestart ..).1.kept l; rw [takeRestart_fst]; exact h
    all_goals first
      | exact Bool.noConfusion hr
      | exact h
  · cases i
    case set => exact Battery.kept_takeSet _ _ _ _ _ h
    case settime => exact Battery.kept_takeSettime _ _ _ _ _ _ _ _ _ h
    case trim => exact Battery.kept_takeTrim _ _ _ _ h
    case round => exact Battery.kept_takeRound _ _ _ h
    case edition => exact Battery.kept_takeEdition _ _ _ _ _ _ _ _ _ _ h
    all_goals first
      | exact absurd rfl hr
      | exact h

theorem Battery.kept_takeBody (k : Line) (body : List Byte) {b : Battery} (v : Vol) {l : Bool} (h : b.kept l) :
    (takeBody k body b v).1.kept l := by
  unfold takeBody
  split
  · exact Battery.kept_takeCommand _ _ h
  · exact h

theorem Battery.kept_frameEnds (k : Line) (hi lo : Byte) (kept : List Byte) (x y : Byte) {b : Battery} (v : Vol)
    {l : Bool} (h : b.kept l) : (frameEnds k hi lo kept x y b v).1.kept l := by
  unfold frameEnds
  dsimp only
  repeat' (first | with_reducible exact h | split | with_reducible exact Battery.kept_takeBody _ _ _ h)

theorem Battery.kept_takeCompletion (k : Line) (x : Byte) {b : Battery} (v : Vol) {l : Bool} (h : b.kept l) :
    (takeCompletion k x b v).1.kept l := by
  unfold takeCompletion
  repeat' (first | with_reducible exact h | with_reducible exact Battery.kept_frameEnds _ _ _ _ _ _ _ h | split)

theorem Battery.kept_takeFault (k : Line) (c : FrameFaultCause) {b : Battery} (v : Vol) {l : Bool} (h : b.kept l) :
    (takeFault k c b v).1.kept l := by
  unfold takeFault
  repeat' (first | with_reducible exact h | with_reducible exact Battery.kept_frameEnds _ _ _ _ _ _ _ h | split)

theorem Battery.kept_takeByte (k : Line) (x : Byte) {b : Battery} (v : Vol) {l : Bool} (h : b.kept l) :
    (takeByte k x b v).1.kept l := by
  unfold takeByte
  repeat' (first | with_reducible exact h | with_reducible exact Battery.kept_frameEnds _ _ _ _ _ _ _ h | split)

theorem Battery.ok_default : Battery.default.ok := by
  refine ⟨by decide, by decide, by decide, by decide, by decide⟩

theorem Battery.kept_default (l : Bool) : Battery.default.kept l :=
  ⟨Battery.ok_default, fun _ hv => absurd hv (by decide)⟩

theorem Battery.kept_ownEffect (i : Instr) {b : Battery} {v : Vol} (h : b.kept v.live) :
    (ownEffect i b v).1.kept (ownEffect i b v).2.live := by
  by_cases hc : changesLive i = false
  · rw [ownEffect_live i b v hc]
    by_cases hr : reachesBattery i = false
    · rw [ownEffect_bat i b v hr]
      exact h
    · cases i
      case frameComplete =>
        exact Battery.kept_takeCompletion _ _ _ h
      case frameFault =>
        exact Battery.kept_takeFault _ _ _ h
      case characterReceived =>
        exact Battery.kept_takeByte _ _ _ h
      case frameSent =>
        show (takeSent ..).1.kept _
        unfold takeSent
        split
        · exact h
        · unfold Mark.act
          split
          · exact h
          · exact ⟨Battery.ok_recomputeAll h.1, fun _ => Battery.current_recomputeAll _⟩
          · exact h
      case secondEnd => exact Battery.kept_secondEnd h
      case set => exact Battery.kept_takeCommand _ _ h
      case settime => exact Battery.kept_takeCommand _ _ h
      case trim => exact Battery.kept_takeCommand _ _ h
      case round => exact Battery.kept_takeCommand _ _ h
      case edition => exact Battery.kept_takeCommand _ _ h
      all_goals first
        | exact Bool.noConfusion hc
        | exact absurd rfl hr
  · cases i
    case powerOn kept =>
      show (powerOn kept b v).1.kept (powerOn kept b v).2.live
      unfold powerOn
      split
      · exact h
      · dsimp only
        split
        · exact ⟨Battery.ok_recomputeAll h.1, fun _ => Battery.current_recomputeAll _⟩
        · exact Battery.kept_default _
    case resetHold =>
      show (resetHold b v).1.kept (resetHold b v).2.live
      unfold resetHold
      split
      · exact h
      · refine ⟨h.1, fun hl => ?_⟩
        rw [Vol.live_resetBlocks] at hl
        simp [Vol.live] at hl
    case resetRelease =>
      show (resetRelease b v).1.kept (resetRelease b v).2.live
      unfold resetRelease
      split
      · dsimp only
        split
        · exact ⟨Battery.ok_recomputeAll h.1, fun _ => Battery.current_recomputeAll _⟩
        · next hp =>
          refine ⟨h.1, fun hl => ?_⟩
          simp [Vol.live, hp] at hl
      · exact h
    case mainPowerLoss =>
      show (powerLoss b v).1.kept (powerLoss b v).2.live
      unfold powerLoss
      split
      · refine ⟨h.1, fun hl => ?_⟩
        rw [Vol.live_resetBlocks] at hl
        simp [Vol.live] at hl
      · exact h
    all_goals exact absurd rfl hc

theorem Battery.ok_ownEffect (i : Instr) {b : Battery} {v : Vol} (h : b.ok) : (ownEffect i b v).1.ok := by
  have hk : b.kept false := ⟨h, fun e => Bool.noConfusion e⟩
  by_cases hl : v.live = true
  · by_cases hr : reachesBattery i = false
    · rw [ownEffect_bat i b v hr]; exact h
    · cases i
      case characterReceived => exact (Battery.kept_takeByte _ _ _ hk).1
      case frameComplete => exact (Battery.kept_takeCompletion _ _ _ hk).1
      case frameFault => exact (Battery.kept_takeFault _ _ _ hk).1
      case frameSent =>
        show (takeSent ..).1.ok
        unfold takeSent
        split
        · exact h
        · unfold Mark.act
          split
          · exact h
          · exact Battery.ok_recomputeAll h
          · exact h
      case secondEnd =>
        show (secondEnd ..).1.ok
        unfold secondEnd
        dsimp only
        have hb := Battery.ok_setClock h (Clock.ok_endSecond h.1)
        split
        · exact Battery.ok_minuteEvent hb
        · exact hb
      case powerOn =>
        show (powerOn ..).1.ok
        unfold powerOn; split
        · exact h
        · dsimp only; split
          · exact Battery.ok_recomputeAll h
          · exact Battery.ok_default
      case resetRelease =>
        show (resetRelease ..).1.ok
        unfold resetRelease; split
        · dsimp only; split
          · exact Battery.ok_recomputeAll h
          · exact h
        · exact h
      case set => exact (Battery.kept_takeCommand _ _ hk).1
      case settime => exact (Battery.kept_takeCommand _ _ hk).1
      case trim => exact (Battery.kept_takeCommand _ _ hk).1
      case round => exact (Battery.kept_takeCommand _ _ hk).1
      case edition => exact (Battery.kept_takeCommand _ _ hk).1
      all_goals exact absurd rfl hr
  · have : v.live = false := by simpa using hl
    exact (Battery.kept_ownEffect i (v := v) (by rw [this]; exact hk)).1

end Sys2Proof.Machine
end

