-- ==== Sys2Proof/Laws/Disks.lean ====
section
/-! SUPPORT. What a command can store on a diskette: at most the sector its drive is in the middle of writing, and a
diskette in its canonical form stays in it. -/

set_option linter.unusedTactic false
set_option linter.unreachableTactic false

namespace Sys2Proof.Machine

theorem agreeBut_refl (p : Option (Nat × Nat × Nat)) (m : Diskette) : agreeBut p m m :=
  ⟨rfl, fun _ _ _ _ _ => rfl⟩

theorem agreeBut_trans {p : Option (Nat × Nat × Nat)} {l m n : Diskette} (h : agreeBut p l m) (g : agreeBut p m n) :
    agreeBut p l n :=
  ⟨g.1.trans h.1, fun c x k a e => (g.2 c x k a e).trans (h.2 c x k a e)⟩

theorem agreeBut_put (m : Diskette) (c h k : Nat) (x : Sector) : agreeBut (some (c, h, k)) m (m.put c h k x) := by
  refine ⟨?_, fun c' h' k' a e => Diskette.sector_put_ne a (fun e' => e (by rw [e']))⟩
  unfold Diskette.put
  split <;> rfl

/-- What a store of one sector does to a diskette. -/
def storesAt (p : Option (Nat × Nat × Nat)) (f : Diskette → Diskette) : Prop :=
  ∀ m, agreeBut p m (f m) ∧ (m.wf = true → (f m).wf = true)

theorem storesAt_writeData (c h k : Nat) (bs : List Byte) : storesAt (some (c, h, k)) (fun m => m.writeData c h k bs) :=
  fun m => ⟨agreeBut_put m c h k _, fun w => Diskette.writeData_wf w c h k bs⟩

theorem storesAt_spoilData (c h k : Nat) : storesAt (some (c, h, k)) (fun m => m.spoilData c h k) :=
  fun m => ⟨agreeBut_put m c h k _, fun w => Diskette.spoilData_wf w c h k⟩

theorem storesAt_format (c h k : Nat) : storesAt (some (c, h, k)) (fun m => m.format c h k) :=
  fun m => ⟨agreeBut_put m c h k _, fun w => Diskette.format_wf w c h k⟩

theorem storesAt_spoilFormat (c h k : Nat) (x : BitVec 2) :
    storesAt (some (c, h, k)) (fun m => m.spoilFormat c h k x) := by
  refine fun m => ⟨?_, fun w => Diskette.spoilFormat_wf w c h k x⟩
  unfold Diskette.spoilFormat
  repeat' split
  all_goals exact agreeBut_put ..

/-! ## From machine to machine -/

/-- From one machine to another no diskette changed but in the sector named for its drive, and those in their canonical
form stay in it. -/
def disksFrom (p : DriveNo → Option (Nat × Nat × Nat)) (v w : Vol) : Prop :=
  ∀ d, agreeBut (p d) (v.drive d).cable.disk (w.drive d).cable.disk
    ∧ ((v.drive d).cable.disk.wf = true → (w.drive d).cable.disk.wf = true)

/-- The sectors being written. -/
def Vol.writing (v : Vol) (d : DriveNo) : Option (Nat × Nat × Nat) := (v.drive d).writing

theorem disksFrom_cables {p : DriveNo → Option (Nat × Nat × Nat)} {v w : Vol}
    (h : ∀ d, (w.drive d).cable.disk = (v.drive d).cable.disk) : disksFrom p v w := by
  intro d
  rw [h d]
  exact ⟨agreeBut_refl .., id⟩

theorem disksFrom_outside {p : DriveNo → Option (Nat × Nat × Nat)} {v w : Vol} (h : w.outside = v.outside) :
    disksFrom p v w :=
  disksFrom_cables (fun d => by rw [((Vol.outside_iff _ _).mp h).2.2.1 d])

theorem disksFrom_placedOnly {p : DriveNo → Option (Nat × Nat × Nat)} {v w : Vol} (h : v.placedOnly w) :
    disksFrom p v w :=
  disksFrom_cables (fun d => by rw [h.2.2.1 d])

theorem disksFrom_trans {p : DriveNo → Option (Nat × Nat × Nat)} {u v w : Vol} (h : disksFrom p u v)
    (g : disksFrom p v w) : disksFrom p u w :=
  fun d => ⟨agreeBut_trans (h d).1 (g d).1, fun x => (g d).2 ((h d).2 x)⟩

theorem disksFrom_then {p : DriveNo → Option (Nat × Nat × Nat)} {u v w : Vol} (h : disksFrom p u v)
    (g : w.outside = v.outside) : disksFrom p u w := disksFrom_trans h (disksFrom_outside g)

theorem disksFrom_modDisk {p : DriveNo → Option (Nat × Nat × Nat)} (v : Vol) (d : DriveNo) {f : Diskette → Diskette}
    (h : storesAt (p d) f) : disksFrom p v (v.modDisk d f) := by
  intro j
  unfold Vol.modDisk
  by_cases e : j = d
  · subst e
    rw [Vol.drive_modCable_self]
    exact h _
  · rw [Vol.drive_modCable_ne _ _ _ _ e]
    exact ⟨agreeBut_refl .., id⟩

/-! ## The events of the drives -/

theorem disksFrom_spoilUnit {p : DriveNo → Option (Nat × Nat × Nat)} (d : DriveNo) (u : UnitWork) (n : Nat) (v : Vol)
    (h : p d = some (u.kind.place.1, u.kind.place.2, n)) : disksFrom p v (v.spoilUnit d u n) := by
  unfold Vol.spoilUnit
  dsimp only
  split
  · refine disksFrom_trans (v := { v with picks := v.picks + 1 }) (disksFrom_outside rfl) (disksFrom_modDisk _ d ?_)
    rw [h]
    exact storesAt_spoilFormat _ _ _ _
  · refine disksFrom_modDisk _ d ?_
    rw [h]
    exact storesAt_spoilData _ _ _

theorem disksFrom_spoil {p : DriveNo → Option (Nat × Nat × Nat)} (d : DriveNo) (v : Vol)
    (h : p d = (v.drive d).writing) : disksFrom p v (v.spoil d) := by
  have hr : disksFrom p v v := disksFrom_outside rfl
  unfold Vol.spoil
  unfold Drive.writing at h
  dsimp only
  split
  · next hj hp =>
    rw [hp, hj] at h
    dsimp only at h
    split
    · next o ho =>
      rw [ho] at h
      dsimp only at h
      split
      · next hw =>
        rw [if_pos hw] at h
        refine disksFrom_modDisk _ d ?_
        rw [h]
        exact storesAt_spoilData _ _ _
      · exact hr
    · exact hr
  · next hj w hp =>
    rw [hp] at h
    dsimp only at h
    split
    · next o n rest ho ht =>
      rw [ho, ht] at h
      dsimp only at h
      split
      · next hw =>
        rw [if_pos hw] at h
        refine disksFrom_modDisk _ d ?_
        rw [h]
        exact storesAt_spoilData _ _ _
      · exact hr
    · exact hr
  · next u hj hp =>
    rw [hp, hj] at h
    exact disksFrom_spoilUnit d u 0 v h
  · next u hj hp =>
    rw [hp, hj] at h
    dsimp only at h
    split
    · next n rest ht =>
      rw [ht] at h
      exact disksFrom_spoilUnit d u n v h
    · exact hr
  · exact hr

theorem disksFrom_discard {p : DriveNo → Option (Nat × Nat × Nat)} (b : Battery) (d : DriveNo) (m : MountState)
    (oc : OutcomeCode) (v : Vol) (h : p d = (v.drive d).writing) : disksFrom p v (v.discard b d m oc) := by
  unfold Vol.discard
  dsimp only
  generalize hx : v.drive d = x
  refine disksFrom_then (disksFrom_spoil d v h) ?_
  rw [Vol.outside_driveChange,
    Vol.outside_foldl (fun w r => Vol.discardRequest b d x oc r w) (fun w r => Vol.outside_discardRequest b d x oc r w),
    Vol.outside_modSched, Vol.outside_modSeq, Vol.outside_discardMirror]

theorem disksFrom_indexStall (b : Battery) (d : DriveNo) (v : Vol) : disksFrom v.writing v (v.indexStall b d) := by
  unfold Vol.indexStall
  split
  · exact disksFrom_discard b d _ _ v rfl
  · exact disksFrom_outside rfl

theorem disksFrom_doorOpens (b : Battery) (d : DriveNo) (v : Vol) : disksFrom v.writing v (v.doorOpens b d) := by
  unfold Vol.doorOpens
  split
  · exact disksFrom_discard b d _ _ v rfl
  · exact disksFrom_outside rfl

theorem disksFrom_stepDone (b : Battery) (d : DriveNo) (t : Bool) (v : Vol) :
    disksFrom v.writing v (v.stepDone b d t) := by
  unfold Vol.stepDone
  split
  · exact disksFrom_outside rfl
  · next m hm =>
    have h1 : disksFrom v.writing v ((v.modCable d (fun c => { c with track0 := t })).modSeq d (Sequencer.stepped m)) := by
      refine disksFrom_cables (fun j => ?_)
      by_cases e : j = d
      · subst e
        rw [Vol.drive_modSeq_self, Vol.drive_modCable_self]
      · rw [Vol.drive_modSeq_ne _ _ _ _ e, Vol.drive_modCable_ne _ _ _ _ e]
    dsimp only
    split
    · exact disksFrom_then h1 (Vol.outside_recalStops ..)
    split
    · refine disksFrom_trans h1 (disksFrom_discard b d _ _ _ ?_)
      rw [Vol.drive_modSeq_self, Vol.drive_modCable_self]
      rfl
    · exact disksFrom_then h1 (Vol.outside_go ..)

theorem disksFrom_orderTransferEnd {p : DriveNo → Option (Nat × Nat × Nat)} (b : Battery) (d : DriveNo) (o : Order)
    (f : FieldRead) (v : Vol) (h : o.pass = .write → p d = some (o.cyl, o.side, o.sector)) :
    disksFrom p v (v.orderTransferEnd b d o f) := by
  unfold Vol.orderTransferEnd
  split
  · next hw =>
    refine disksFrom_then (disksFrom_modDisk v d ?_) (Vol.outside_sectorCompleted ..)
    rw [h hw]
    exact storesAt_writeData _ _ _ _
  · exact disksFrom_outside (by repeat' (first | (simp; done) | split))

theorem disksFrom_verifyEnd {p : DriveNo → Option (Nat × Nat × Nat)} (b : Battery) (d : DriveNo) (o : Order)
    (w : VerifyWork) (f : FieldRead) (v : Vol)
    (h : ∀ n rest, w.todo = n :: rest → (w.rewrite && w.found) = true → p d = some (o.cyl, o.side, n)) :
    disksFrom p v (v.verifyEnd b d o w f) := by
  unfold Vol.verifyEnd
  split
  · exact disksFrom_outside (by simp)
  · next n rest ht =>
    dsimp only
    have h1 : disksFrom p v (if (w.rewrite && w.found) = true then
        v.modDisk d (fun m => m.writeData o.cyl o.side n (v.sectorData o n)) else v) := by
      split
      · next hw =>
        refine disksFrom_modDisk v d ?_
        rw [h n rest ht hw]
        exact storesAt_writeData _ _ _ _
      · exact disksFrom_outside rfl
    refine disksFrom_then h1 ?_
    repeat' (first | (simp; done) | split)

theorem disksFrom_unitWriteEnd {p : DriveNo → Option (Nat × Nat × Nat)} (b : Battery) (d : DriveNo) (u : UnitWork)
    (found : Bool) (v : Vol) (hf : u.kind.onTrack = true → found = true)
    (h : found = true → p d = u.todo.head?.map (fun n => (u.kind.place.1, u.kind.place.2, n))) :
    disksFrom p v (v.unitWriteEnd b d u found) := by
  unfold Vol.unitWriteEnd
  split
  · exact disksFrom_outside rfl
  · next n rest ht =>
    rw [ht] at h
    refine disksFrom_then ?_ (Vol.outside_unitSectorDone ..)
    unfold Vol.unitWrite
    dsimp only
    split
    · next k hk =>
      refine disksFrom_modDisk v d ?_
      rw [h (hf (by rw [hk]; rfl))]
      exact storesAt_format _ _ _
    · split
      · next hw =>
        refine disksFrom_modDisk v d ?_
        rw [h hw]
        exact storesAt_writeData _ _ _ _
      · exact disksFrom_outside rfl

theorem disksFrom_unitVerifyEnd {p : DriveNo → Option (Nat × Nat × Nat)} (b : Battery) (d : DriveNo) (u : UnitWork)
    (found : Bool) (f : FieldRead) (v : Vol)
    (h : u.kind = .label → p d = u.todo.head?.map (fun n => (u.kind.place.1, u.kind.place.2, n))) :
    disksFrom p v (v.unitVerifyEnd b d u found f) := by
  unfold Vol.unitVerifyEnd
  split
  · exact disksFrom_outside rfl
  · next n rest ht =>
    rw [ht] at h
    refine disksFrom_then ?_ (Vol.outside_unitSectorDone ..)
    unfold Vol.labelFails
    split
    · next hl =>
      refine disksFrom_modDisk v d ?_
      rw [h hl.1]
      exact storesAt_spoilData _ _ _
    · exact disksFrom_outside rfl

theorem disksFrom_sectorBoundary (b : Battery) (d : DriveNo) (f : FieldRead) (v : Vol) :
    disksFrom v.writing v (v.sectorBoundary b d f) := by
  have hw : v.writing d = (v.drive d).writing := rfl
  unfold Drive.writing at hw
  unfold Vol.sectorBoundary
  split
  · next hp =>
    rw [hp] at hw
    unfold Vol.transferEnd
    split
    · exact disksFrom_outside rfl
    · next hj =>
      rw [hj] at hw
      split
      · exact disksFrom_outside rfl
      · next o ho =>
        refine disksFrom_orderTransferEnd b d o f v (fun e => ?_)
        rw [hw, ho]
        exact if_pos e
    · exact disksFrom_outside (by simp)
    · next u hj =>
      rw [hj] at hw
      refine disksFrom_then (disksFrom_modDisk v d ?_) (Vol.outside_invalidateEnd ..)
      rw [hw]
      exact storesAt_writeData _ _ _ _
  · next found hp =>
    unfold Vol.passWriteEnd
    split
    · exact disksFrom_outside rfl
    · next u hu =>
      have hj : (v.drive d).seq.job = .unit u := by
        unfold Sequencer.unit? at hu
        split at hu <;> first | (cases hu; assumption) | cases hu
      split
      · exact disksFrom_outside rfl
      · next hn =>
        refine disksFrom_unitWriteEnd b d u found v (fun e => ?_) (fun e => ?_)
        · simpa [e] using hn
        · rw [hw, hp, hj, e]
          rfl
  · exact disksFrom_outside rfl

theorem disksFrom_verifySectorEnd (b : Battery) (d : DriveNo) (f : FieldRead) (v : Vol) :
    disksFrom v.writing v (v.verifySectorEnd b d f) := by
  have hw : v.writing d = (v.drive d).writing := rfl
  unfold Drive.writing at hw
  unfold Vol.verifySectorEnd
  split
  · next w hp =>
    rw [hp] at hw
    dsimp only at hw
    split
    · exact disksFrom_outside rfl
    · next o ho =>
      refine disksFrom_verifyEnd b d o w f v (fun n rest e g => ?_)
      rw [hw, ho, e]
      exact if_pos g
  · next found hp =>
    split
    · exact disksFrom_outside rfl
    · next u hu =>
      have hj : (v.drive d).seq.job = .unit u := by
        unfold Sequencer.unit? at hu
        split at hu <;> first | (cases hu; assumption) | cases hu
      refine disksFrom_unitVerifyEnd b d u found f v (fun e => ?_)
      rw [hw, hp, hj]
      simp [e]
  · exact disksFrom_outside rfl

/-! ## A write cut off -/

/-- R16: a sector cut off in its FORMAT write is torn, whatever the free value. -/
theorem tornSector_spoilFormat (m : Diskette) (c h n : Nat) (how : BitVec 2) (hw : m.wf = true) (a : addressOk c h n = true) :
    tornSector c h n (m.sector c h n) ((m.spoilFormat c h n how).sector c h n) := by
  unfold Diskette.spoilFormat tornSector
  repeat' split
  all_goals rw [Diskette.sector_put_self a hw]
  all_goals simp

@[simp] theorem Vol.disk_modDisk (v : Vol) (d : DriveNo) (f : Diskette → Diskette) :
    ((v.modDisk d f).drive d).cable.disk = f (v.drive d).cable.disk := by
  unfold Vol.modDisk; rw [Vol.drive_modCable_self]

/-- What cutting a drive's work off leaves of its diskette. -/
theorem Vol.cutOff_spoil (d : DriveNo) (v : Vol) : (v.drive d).cutOff ((v.spoil d).drive d).cable.disk := by
  have ha := (disksFrom_spoil (p := fun j => (v.drive j).writing) d v rfl d).1
  refine ⟨ha, fun found hp => ?_, fun hw => ⟨fun o hj ho => ⟨fun hp hps => ?_, fun w n rest hp ht hr hf => ?_⟩,
    fun u hj => ⟨fun hp hk => ?_, fun n rest hp ht => ⟨fun hk => ?_, fun hk => ?_⟩⟩⟩⟩
  · have : v.spoil d = v := by unfold Vol.spoil; dsimp only; rw [hp]; cases (v.drive d).seq.job <;> rfl
    rw [this]
  · intro a
    have : v.spoil d = v.modDisk d (fun m => m.spoilData o.cyl o.side o.sector) := by
      unfold Vol.spoil; dsimp only; rw [hp, hj]; simp [ho, hps]
    rw [this, Vol.disk_modDisk]; exact Diskette.sector_put_self a hw
  · intro a
    have : v.spoil d = v.modDisk d (fun m => m.spoilData o.cyl o.side n) := by
      unfold Vol.spoil; dsimp only; rw [hp, hj]; simp [ho, ht, hr, hf]
    rw [this, Vol.disk_modDisk]; exact Diskette.sector_put_self a hw
  · intro a
    have : v.spoil d = v.modDisk d (fun m => m.spoilData 0 0 0) := by
      unfold Vol.spoil; dsimp only; rw [hp, hj]; simp [Vol.spoilUnit, hk, UnitKind.onTrack, UnitKind.place]
    rw [this, Vol.disk_modDisk]; exact Diskette.sector_put_self a hw
  · intro a
    have : v.spoil d = v.modDisk d (fun m => m.spoilData u.kind.place.1 u.kind.place.2 n) := by
      unfold Vol.spoil; dsimp only; rw [hp, hj]; simp [ht, Vol.spoilUnit, hk]
    rw [this, Vol.disk_modDisk]; exact Diskette.sector_put_self a hw
  · intro a
    have : v.spoil d = ({ v with picks := v.picks + 1 } : Vol).modDisk d
      (fun m => m.spoilFormat u.kind.place.1 u.kind.place.2 n (Config.formatCutOff v.picks)) := by
      unfold Vol.spoil; dsimp only; rw [hp, hj]; simp [ht, Vol.spoilUnit, hk]
    rw [this, Vol.disk_modDisk]
    exact tornSector_spoilFormat _ _ _ _ _ hw a

/-! ## The general reset -/

theorem Vol.drive_spoil_ne (d j : DriveNo) (v : Vol) (h : j ≠ d) : (v.spoil d).drive j = v.drive j := by
  have hd : ∀ f (w : Vol), (w.modDisk d f).drive j = w.drive j := fun f w => Vol.drive_modCable_ne _ _ _ _ h
  unfold Vol.spoil Vol.spoilUnit
  repeat' (first | rfl | (rw [hd]; done) | (rw [hd]; rfl) | split | dsimp only)

theorem disksFrom_spoils (l : List DriveNo) (hl : l.Nodup) (v w : Vol) (h : disksFrom v.writing v w)
    (g : ∀ d ∈ l, w.drive d = v.drive d) : disksFrom v.writing v (l.foldl (fun w d => w.spoil d) w) := by
  induction l generalizing w with
  | nil => exact h
  | cons x l ih =>
    rw [List.nodup_cons] at hl
    refine ih hl.2 (w.spoil x) (disksFrom_trans h (disksFrom_spoil x w ?_)) (fun d hd => ?_)
    · rw [g x (by simp)]
      rfl
    · rw [Vol.drive_spoil_ne x d w (fun e => hl.1 (e ▸ hd))]
      exact g d (List.mem_cons_of_mem _ hd)

theorem disksFrom_resetBlocks (b : Battery) (v : Vol) : disksFrom v.writing v (v.resetBlocks b) := by
  unfold Vol.resetBlocks
  dsimp only
  have h1 := disksFrom_spoils allDrives (by decide) v v (disksFrom_outside rfl) (fun _ _ => rfl)
  revert h1
  generalize allDrives.foldl (fun (w : Vol) d => w.spoil d) v = w
  intro h1
  refine disksFrom_trans h1 ?_
  have h2 : ∀ (l : List Line) (w : Vol) d,
      (l.foldl (fun (w : Vol) k => w.modPort k (fun _ => Port.afterReset (b.rate k))) w).drive d = w.drive d := by
    intro l
    induction l with
    | nil => exact fun _ _ => rfl
    | cons x l ih => exact fun w d => (ih _ d).trans rfl
  have h3 : ∀ (l : List DriveNo) (w : Vol) d,
      ((l.foldl (fun (w : Vol) d => w.modDrive d (fun x => Drive.afterReset x.cable)) w).drive d).cable
        = (w.drive d).cable := by
    intro l
    induction l with
    | nil => exact fun _ _ => rfl
    | cons x l ih =>
      intro w d
      refine (ih _ d).trans ?_
      by_cases e : d = x
      · subst e
        rw [Vol.drive_modDrive_self]
        rfl
      · rw [Vol.drive_modDrive_ne _ _ _ _ e]
  have h4 : ∀ (w : Vol) q p t l d, (({ w with reqs := q, pool := p, retired := t, tests := l } : Vol).drive d)
      = w.drive d := fun _ _ _ _ _ _ => rfl
  refine disksFrom_cables (fun d => ?_)
  rw [h4, h3, h2]

theorem disksFrom_resetAfter (b : Battery) (v w : Vol) (h : ∀ d, w.drive d = v.drive d) :
    disksFrom v.writing v (w.resetBlocks b) := by
  have hw : w.writing = v.writing := funext (fun d => by unfold Vol.writing; rw [h d])
  have h1 := disksFrom_resetBlocks b w
  rw [hw] at h1
  exact disksFrom_trans (disksFrom_cables (fun d => by rw [h d])) h1

theorem disksFrom_act (m : Mark) (b : Battery) (v w : Vol) (h : ∀ d, w.drive d = v.drive d) :
    disksFrom v.writing v (m.act b w).2 := by
  unfold Mark.act
  split
  · exact disksFrom_cables (fun d => by rw [h d])
  · exact disksFrom_resetAfter b v w h
  · exact disksFrom_cables (fun d => by rw [Vol.drive_modPort, h d])

theorem disksFrom_takeSent (k : Line) (b : Battery) (v : Vol) : disksFrom v.writing v (takeSent k b v).2 := by
  unfold takeSent
  split
  · exact disksFrom_outside rfl
  · exact disksFrom_act _ b v _ (fun d => Vol.drive_modPort v k _ d)

/-! ## Every command -/

/-- The commands that may store on a diskette, or put one in: the end of a sector, the events that cut a write off, a
sent frame, and the door. -/
def reachesDisk : Instr → Bool
  | .sectorBoundary .. => true
  | .verifySectorEnd .. => true
  | .indexStall _ => true
  | .doorOpening _ => true
  | .stepDone .. => true
  | .frameSent _ => true
  | .powerOn _ => true
  | .resetHold => true
  | .mainPowerLoss => true
  | .doorLineChange .. => true
  | _ => false

theorem disksFrom_powerOn (kept : Bool) (b : Battery) (v : Vol) : disksFrom v.writing v (powerOn kept b v).2 := by
  unfold powerOn
  split
  · exact disksFrom_outside rfl
  · dsimp only
    split
    · exact disksFrom_resetAfter b v _ (fun _ => rfl)
    · exact disksFrom_trans (disksFrom_resetAfter Battery.default v { v with power := true } (fun _ => rfl))
        (disksFrom_cables (fun d => by rw [Vol.drive_modPort]))

theorem disksFrom_resetHold (b : Battery) (v : Vol) : disksFrom v.writing v (resetHold b v).2 := by
  unfold resetHold
  split
  · exact disksFrom_outside rfl
  · exact disksFrom_resetAfter b v _ (fun _ => rfl)

theorem disksFrom_powerLoss (b : Battery) (v : Vol) : disksFrom v.writing v (powerLoss b v).2 := by
  unfold powerLoss
  split
  · exact disksFrom_resetAfter b v _ (fun _ => rfl)
  · exact disksFrom_outside rfl

/-! ## The lines -/

/-- The cables as they were. -/
def cablesKept (v w : Vol) : Prop := ∀ d, (w.drive d).cable = (v.drive d).cable

theorem cablesKept_outside {v w : Vol} (h : w.outside = v.outside) : cablesKept v w :=
  fun d => ((Vol.outside_iff _ _).mp h).2.2.1 d

theorem cablesKept_trans {u v w : Vol} (h : cablesKept u v) (g : cablesKept v w) : cablesKept u w :=
  fun d => (g d).trans (h d)

theorem cablesKept_assemble (k : Line) (a : Assembler) (g t : Bool) (v : Vol) : cablesKept v (v.assemble k a g t) :=
  fun _ => rfl

theorem cablesKept_frameEnds (k : Line) (hi lo : Byte) (kept : List Byte) (x y : Byte) (b : Battery) (v : Vol) :
    cablesKept v (frameEnds k hi lo kept x y b v).2 := by
  unfold frameEnds
  dsimp only
  split
  · split
    · exact cablesKept_trans (cablesKept_assemble _ _ _ _ _) (cablesKept_outside (Vol.outside_takeBody ..))
    · exact cablesKept_assemble _ _ _ _ _
  · exact cablesKept_trans (cablesKept_assemble _ _ _ _ _) (cablesKept_outside (Vol.outside_frameFault ..))

theorem cablesKept_lengthEnds (b : Battery) (k : Line) (hi lo : Byte) (v : Vol) :
    cablesKept v (v.lengthEnds b k hi lo) := by
  unfold Vol.lengthEnds
  split
  · exact cablesKept_assemble _ _ _ _ _
  · exact cablesKept_trans (cablesKept_assemble _ _ _ _ _) (cablesKept_outside (Vol.outside_frameFault ..))

theorem cablesKept_bodyByte (k : Line) (hi lo : Byte) (kept : List Byte) (x : Byte) (v : Vol) :
    cablesKept v (v.bodyByte k hi lo kept x) := by
  unfold Vol.bodyByte
  dsimp only
  split <;> exact cablesKept_assemble _ _ _ _ _

theorem cablesKept_takeByte (k : Line) (x : Byte) (b : Battery) (v : Vol) : cablesKept v (takeByte k x b v).2 := by
  unfold takeByte
  split
  · exact fun _ => rfl
  · split
    · split <;> exact fun _ => rfl
    · exact fun _ => rfl
    · exact cablesKept_lengthEnds _ _ _ _ _
    · exact cablesKept_bodyByte _ _ _ _ _ _
    · exact fun _ => rfl
    · exact cablesKept_frameEnds _ _ _ _ _ _ _ _
    · exact fun _ => rfl

theorem cablesKept_takeCompletion (k : Line) (x : Byte) (b : Battery) (v : Vol) :
    cablesKept v (takeCompletion k x b v).2 := by
  unfold takeCompletion
  split
  · exact fun _ => rfl
  · split
    · split
      · exact cablesKept_frameEnds _ _ _ _ _ _ _ _
      · exact fun _ => rfl
    · exact fun _ => rfl

theorem cablesKept_framingFault (b : Battery) (k : Line) (v : Vol) : cablesKept v (v.framingFault b k) := by
  unfold Vol.framingFault
  split
  · exact fun _ => rfl
  · exact fun _ => rfl
  · exact cablesKept_trans (cablesKept_assemble _ _ _ _ _) (cablesKept_outside (Vol.outside_frameFault ..))

theorem cablesKept_takeFault (k : Line) (c : FrameFaultCause) (b : Battery) (v : Vol) :
    cablesKept v (takeFault k c b v).2 := by
  unfold takeFault
  split
  · exact fun _ => rfl
  · split
    · dsimp only
      split
      · exact fun _ => rfl
      · exact cablesKept_lengthEnds _ _ _ _ _
    · split
      · exact fun _ => rfl
      · exact cablesKept_frameEnds _ _ _ _ _ _ _ _
    · exact cablesKept_framingFault _ _ _
    · exact fun _ => rfl

theorem cablesKept_takeBreakLine (b : Battery) (k : Line) (v : Vol) : cablesKept v (v.takeBreakLine b k) := by
  unfold Vol.takeBreakLine
  split
  · unfold Vol.lineReset
    dsimp only
    generalize (v.port k).marks = ms
    have h1 : ∀ (l : List Mark) (w : Vol), cablesKept w (l.foldl (Vol.discardMark b) w) := by
      intro l
      induction l with
      | nil => exact fun _ _ => rfl
      | cons x l ih =>
        refine fun w => cablesKept_trans (v := w.discardMark b x) ?_ (ih _)
        unfold Vol.discardMark
        split <;> exact fun _ => rfl
    refine cablesKept_trans (v := (v.modPort k Port.lineReset).dropLine k) ?_
      (cablesKept_trans (h1 ms _) (cablesKept_outside
        (Vol.outside_foldl (fun w r => Vol.lineResetRequest b r w)
          (fun w r => Vol.outside_lineResetRequest b r w) _ _)))
    exact cablesKept_trans (v := v.modPort k Port.lineReset) (fun _ => rfl)
      (cablesKept_outside (Vol.outside_dropLine ..))
  · exact fun _ => rfl

theorem cablesKept_gapExpires (b : Battery) (k : Line) (v : Vol) : cablesKept v (v.gapExpires b k) := by
  unfold Vol.gapExpires
  split
  · exact cablesKept_trans (cablesKept_assemble _ _ _ _ _) (cablesKept_outside (Vol.outside_frameFault ..))
  · exact fun _ => rfl

theorem cablesKept_silenceExpires (k : Line) (v : Vol) : cablesKept v (v.silenceExpires k) := by
  unfold Vol.silenceExpires
  split <;> exact fun _ => rfl

/-! ## All of them -/

/-- The diskettes as they were. -/
def disksKept (v w : Vol) : Prop := ∀ d, (w.drive d).cable.disk = (v.drive d).cable.disk

theorem disksKept_cables {v w : Vol} (h : cablesKept v w) : disksKept v w := fun d => by rw [h d]

theorem disksKept_outside {v w : Vol} (h : w.outside = v.outside) : disksKept v w :=
  disksKept_cables (cablesKept_outside h)

theorem disksKept_resetRelease (b : Battery) (v : Vol) : disksKept v (resetRelease b v).2 := by
  unfold resetRelease
  split <;> exact fun _ => rfl

theorem disksKept_secondEnd (b : Battery) (v : Vol) : disksKept v (secondEnd b v).2 := by
  unfold secondEnd
  dsimp only
  split
  · exact disksKept_outside (Vol.outside_minuteTick ..)
  · exact fun _ => rfl

theorem disksKept_angleUnit (d : DriveNo) (p : Bool) (v : Vol) : disksKept v (v.angleUnit d p) := by
  have h : disksKept v (v.sense d p) := by
    intro j
    unfold Vol.sense
    by_cases e : j = d
    · subst e
      rw [Vol.drive_modCable_self]
    · rw [Vol.drive_modCable_ne _ _ _ _ e]
  unfold Vol.angleUnit
  split
  · exact fun j => (disksKept_outside (Vol.outside_angleTick ..) j).trans (h j)
  · exact h

theorem disksKept_ownEffect (i : Instr) (b : Battery) (v : Vol) (h : reachesDisk i = false) :
    disksKept v (ownEffect i b v).2 := by
  cases i
  case frameComplete => exact disksKept_cables (cablesKept_takeCompletion _ _ _ _)
  case frameFault => exact disksKept_cables (cablesKept_takeFault _ _ _ _)
  case frameGapExpiry => exact disksKept_cables (cablesKept_gapExpires _ _ _)
  case silenceTimerExpiry => exact disksKept_cables (cablesKept_silenceExpires _ _)
  case lineBreak => exact disksKept_cables (cablesKept_takeBreakLine _ _ _)
  case frameSent => exact Bool.noConfusion h
  case powerOn => exact Bool.noConfusion h
  case resetHold => exact Bool.noConfusion h
  case mainPowerLoss => exact Bool.noConfusion h
  case indexStall => exact Bool.noConfusion h
  case doorLineChange => exact Bool.noConfusion h
  case doorOpening => exact Bool.noConfusion h
  case stepDone => exact Bool.noConfusion h
  case sectorBoundary => exact Bool.noConfusion h
  case verifySectorEnd => exact Bool.noConfusion h
  case resetRelease => exact disksKept_resetRelease _ _
  case secondEnd => exact disksKept_secondEnd _ _
  case indexPulse => exact disksKept_outside (Vol.outside_indexPulse ..)
  case headUnload => exact disksKept_outside (Vol.outside_headUnload ..)
  case doorClosing => exact disksKept_outside (Vol.outside_doorCloses ..)
  case settleDone => exact disksKept_outside (Vol.outside_settleDone ..)
  case headLoadDone => exact disksKept_outside (Vol.outside_headLoadDone ..)
  case headerFound => exact disksKept_outside (Vol.outside_headerFound ..)
  case searchLimit => exact disksKept_outside (Vol.outside_searchLimit ..)
  case idleLimitExpiry => exact disksKept_outside (Vol.outside_idleExpires ..)
  case formatUnitEnd => exact disksKept_outside (Vol.outside_formatUnitDone ..)
  case copyOpeningEnd => exact disksKept_outside (Vol.outside_copyOpeningDone ..)
  case copyCatalogUnitEnd => exact disksKept_outside (Vol.outside_copyCatalogDone ..)
  case copyLabelVerified => exact disksKept_outside (Vol.outside_copyLabelDone ..)
  case characterReceived => exact disksKept_cables (cablesKept_takeByte _ _ _ _)
  case lineReturnToMark => exact fun _ => rfl
  case angleUnitTick => exact disksKept_angleUnit _ _ _
  all_goals exact disksKept_outside (Vol.outside_takeCommand ..)

/-- A command that puts a diskette in a drive. -/
def insertsDisk : Instr → Bool
  | .doorLineChange _ _ (some _) => true
  | _ => false

theorem disksFrom_doorLine (d : DriveNo) (c : Bool) (v : Vol) : disksKept v (v.doorLine d c none) := by
  intro j
  unfold Vol.doorLine
  by_cases e : j = d
  · subst e
    rw [Vol.drive_modCable_self]
    unfold Cable.doorLine
    dsimp only
    split <;> rfl
  · rw [Vol.drive_modCable_ne _ _ _ _ e]

theorem disksFrom_ownEffect (i : Instr) (b : Battery) (v : Vol) (h : insertsDisk i = false) :
    disksFrom v.writing v (ownEffect i b v).2 := by
  by_cases hr : reachesDisk i = false
  · exact disksFrom_cables (disksKept_ownEffect i b v hr)
  · cases i
    case frameSent => exact disksFrom_takeSent _ _ _
    case powerOn => exact disksFrom_powerOn _ _ _
    case resetHold => exact disksFrom_resetHold _ _
    case mainPowerLoss => exact disksFrom_powerLoss _ _
    case indexStall => exact disksFrom_indexStall _ _ _
    case doorLineChange d c m =>
      cases m with
      | none => exact disksFrom_cables (disksFrom_doorLine _ _ _)
      | some m => exact Bool.noConfusion h
    case doorOpening => exact disksFrom_doorOpens _ _ _
    case stepDone => exact disksFrom_stepDone _ _ _ _
    case sectorBoundary => exact disksFrom_sectorBoundary _ _ _ _
    case verifySectorEnd => exact disksFrom_verifySectorEnd _ _ _ _
    all_goals exact absurd rfl hr

end Sys2Proof.Machine
end

