-- ==== Sys2Proof/Laws/Stores.lean ====
section
/-! SUPPORT. A command's own effects put no frame into an outbound store: a store stands, loses its oldest frame or is
emptied. -/

set_option linter.unusedTactic false
set_option linter.unreachableTactic false

namespace Sys2Proof.Machine

/-- No store holds more frames than before. -/
def storesFrom (v w : Vol) : Prop := ∀ k, (w.port k).store.length ≤ (v.port k).store.length

theorem storesFrom_ports {v w : Vol} (h : w.ports = v.ports) : storesFrom v w := by
  intro k
  unfold Vol.port
  rw [h]

theorem storesFrom_outside {v w : Vol} (h : w.outside = v.outside) : storesFrom v w :=
  fun k => by rw [((Port.face_iff _ _).mp (((Vol.outside_iff _ _).mp h).2.2.2 k)).2]

theorem storesFrom_refl (v : Vol) : storesFrom v v := fun _ => Nat.le_refl _

theorem storesFrom_trans {u v w : Vol} (h : storesFrom u v) (g : storesFrom v w) : storesFrom u w :=
  fun k => Nat.le_trans (g k) (h k)

theorem storesFrom_modPort (v : Vol) (k : Line) (f : Port → Port)
    (h : ∀ p, (f p).store.length ≤ p.store.length) : storesFrom v (v.modPort k f) := by
  intro j
  rw [Vol.port_modPort]
  split
  · exact h _
  · exact Nat.le_refl _

theorem storesFrom_modDisk (v : Vol) (d : DriveNo) (f : Diskette → Diskette) : storesFrom v (v.modDisk d f) :=
  storesFrom_ports rfl

theorem storesFrom_modCable (v : Vol) (d : DriveNo) (f : Cable → Cable) : storesFrom v (v.modCable d f) :=
  storesFrom_ports rfl

theorem storesFrom_assemble (k : Line) (a : Assembler) (g t : Bool) (v : Vol) : storesFrom v (v.assemble k a g t) :=
  storesFrom_modPort v k _ (fun _ => Nat.le_refl _)

/-! ## The drives -/

theorem Vol.ports_spoil (d : DriveNo) (v : Vol) : (v.spoil d).ports = v.ports := by
  unfold Vol.spoil Vol.spoilUnit
  repeat' (first | rfl | split | dsimp only)

theorem storesFrom_discard (b : Battery) (d : DriveNo) (m : MountState) (oc : OutcomeCode) (v : Vol) :
    storesFrom v (v.discard b d m oc) := by
  unfold Vol.discard
  dsimp only
  generalize v.drive d = x
  refine storesFrom_trans (storesFrom_ports (Vol.ports_spoil d v)) (storesFrom_outside ?_)
  rw [Vol.outside_driveChange,
    Vol.outside_foldl (fun w r => Vol.discardRequest b d x oc r w) (fun w r => Vol.outside_discardRequest b d x oc r w),
    Vol.outside_modSched, Vol.outside_modSeq, Vol.outside_discardMirror]

theorem storesFrom_stepDone (b : Battery) (d : DriveNo) (t : Bool) (v : Vol) : storesFrom v (v.stepDone b d t) := by
  unfold Vol.stepDone
  split
  · exact storesFrom_refl v
  · dsimp only
    split
    · exact storesFrom_trans (v := (v.modCable d (fun c => { c with track0 := t })).modSeq d _)
        (storesFrom_ports rfl) (storesFrom_outside (Vol.outside_recalStops ..))
    split
    · exact storesFrom_trans (v := (v.modCable d (fun c => { c with track0 := t })).modSeq d _)
        (storesFrom_ports rfl) (storesFrom_discard _ _ _ _ _)
    · exact storesFrom_trans (v := (v.modCable d (fun c => { c with track0 := t })).modSeq d _)
        (storesFrom_ports rfl) (storesFrom_outside (Vol.outside_go ..))

theorem storesFrom_sectorBoundary (b : Battery) (d : DriveNo) (f : FieldRead) (v : Vol) :
    storesFrom v (v.sectorBoundary b d f) := by
  unfold Vol.sectorBoundary
  split
  · unfold Vol.transferEnd
    split
    · exact storesFrom_refl v
    · split
      · exact storesFrom_refl v
      · unfold Vol.orderTransferEnd
        split
        · exact storesFrom_trans (storesFrom_modDisk v _ _) (storesFrom_outside (Vol.outside_sectorCompleted ..))
        · exact storesFrom_outside (by repeat' (first | (simp; done) | split))
    · exact storesFrom_outside (Vol.outside_loadRead ..)
    · exact storesFrom_trans (storesFrom_modDisk v _ _) (storesFrom_outside (Vol.outside_invalidateEnd ..))
  · unfold Vol.passWriteEnd
    split
    · exact storesFrom_refl v
    · split
      · exact storesFrom_refl v
      · unfold Vol.unitWriteEnd
        split
        · exact storesFrom_refl v
        · refine storesFrom_trans (storesFrom_ports ?_) (storesFrom_outside (Vol.outside_unitSectorDone ..))
          unfold Vol.unitWrite
          repeat' (first | rfl | split | dsimp only)
  · exact storesFrom_refl v

theorem storesFrom_verifyEnd (b : Battery) (d : DriveNo) (o : Order) (w : VerifyWork) (f : FieldRead) (v : Vol) :
    storesFrom v (v.verifyEnd b d o w f) := by
  unfold Vol.verifyEnd
  split
  · exact storesFrom_outside (by simp)
  · next n rest _ =>
    dsimp only
    have hp : storesFrom v (if (w.rewrite && w.found) = true then
        v.modDisk d (fun m => m.writeData o.cyl o.side n (v.sectorData o n)) else v) := by
      split
      · exact storesFrom_modDisk _ _ _
      · exact storesFrom_refl v
    refine storesFrom_trans hp (storesFrom_outside ?_)
    repeat' (first | (simp; done) | split)

theorem storesFrom_verifySectorEnd (b : Battery) (d : DriveNo) (f : FieldRead) (v : Vol) :
    storesFrom v (v.verifySectorEnd b d f) := by
  unfold Vol.verifySectorEnd
  split
  · split
    · exact storesFrom_refl v
    · exact storesFrom_verifyEnd _ _ _ _ _ _
  · split
    · exact storesFrom_refl v
    · unfold Vol.unitVerifyEnd
      split
      · exact storesFrom_refl v
      · refine storesFrom_trans (storesFrom_ports ?_) (storesFrom_outside (Vol.outside_unitSectorDone ..))
        unfold Vol.labelFails
        split <;> rfl
  · exact storesFrom_refl v

/-! ## Resets -/

theorem mem_allLines (k : Line) : k ∈ allLines := by
  revert k
  decide

theorem Vol.store_resetBlocks (b : Battery) (v : Vol) (k : Line) : ((v.resetBlocks b).port k).store = [] := by
  unfold Vol.resetBlocks
  dsimp only
  generalize allDrives.foldl (fun (w : Vol) d => w.spoil d) v = w
  have h1 : ∀ (l : List DriveNo) (w : Vol),
      ((l.foldl (fun (w : Vol) d => w.modDrive d (fun x => Drive.afterReset x.cable)) w).port k) = w.port k := by
    intro l
    induction l with
    | nil => exact fun _ => rfl
    | cons x l ih => exact fun w => (ih _).trans rfl
  have h2 : ∀ (l : List Line) (w : Vol), (w.port k).store = [] ∨ k ∈ l →
      ((l.foldl (fun (w : Vol) k => w.modPort k (fun _ => Port.afterReset (b.rate k))) w).port k).store = [] := by
    intro l
    induction l with
    | nil => exact fun w h => h.resolve_right (by simp)
    | cons x l ih =>
      intro w h
      refine ih _ ?_
      rw [Vol.port_modPort]
      by_cases e : x = k
      · rw [if_pos e]
        exact .inl rfl
      · rw [if_neg e]
        rcases h with h | h
        · exact .inl h
        · rcases List.mem_cons.mp h with h | h
          · exact absurd h.symm e
          · exact .inr h
  have h4 : ∀ (w : Vol) q p t l, (({ w with reqs := q, pool := p, retired := t, tests := l } : Vol).port k)
      = w.port k := fun _ _ _ _ _ => rfl
  rw [h4, h1]
  exact h2 _ _ (.inr (mem_allLines k))

theorem storesFrom_resetBlocks (b : Battery) (u v : Vol) : storesFrom u (v.resetBlocks b) := by
  intro k
  rw [Vol.store_resetBlocks]
  exact Nat.zero_le _

/-! ## The lines -/

theorem storesFrom_takeRate (v : Vol) (k : Line) (n : Nat) : storesFrom v (v.modPort k (Port.takeRate n)) := by
  refine storesFrom_modPort v k _ (fun p => ?_)
  unfold Port.takeRate
  split
  · exact Nat.le_refl _
  · dsimp only
    split <;> exact Nat.le_refl _

theorem storesFrom_act (m : Mark) (b : Battery) (v : Vol) : storesFrom v (m.act b v).2 := by
  unfold Mark.act
  split
  · exact storesFrom_refl v
  · exact storesFrom_resetBlocks b v v
  · exact storesFrom_takeRate v _ _

theorem storesFrom_takeSent (k : Line) (b : Battery) (v : Vol) : storesFrom v (takeSent k b v).2 := by
  unfold takeSent
  split
  · exact storesFrom_refl v
  · next f rest h =>
    refine storesFrom_trans (v := v.modPort k (fun p => { p with store := rest })) (fun j => ?_) (storesFrom_act _ _ _)
    rw [Vol.port_modPort]
    split
    · next e =>
      subst e
      rw [h]
      exact Nat.le_succ _
    · exact Nat.le_refl _

theorem storesFrom_takeBreakLine (b : Battery) (k : Line) (v : Vol) : storesFrom v (v.takeBreakLine b k) := by
  unfold Vol.takeBreakLine
  split
  · unfold Vol.lineReset
    dsimp only
    generalize (v.port k).marks = ms
    have h1 : ∀ (l : List Mark) (w : Vol), storesFrom w (l.foldl (Vol.discardMark b) w) := by
      intro l
      induction l with
      | nil => exact fun w => storesFrom_refl w
      | cons x l ih =>
        refine fun w => storesFrom_trans (v := w.discardMark b x) ?_ (ih _)
        unfold Vol.discardMark
        split
        · exact storesFrom_refl w
        · exact storesFrom_refl w
        · exact storesFrom_takeRate w _ _
    refine storesFrom_trans (v := v.modPort k Port.lineReset) (storesFrom_modPort v k _ (fun _ => Nat.zero_le _)) ?_
    refine storesFrom_trans (v := (v.modPort k Port.lineReset).dropLine k)
      (storesFrom_outside (Vol.outside_dropLine ..))
      (storesFrom_trans (h1 ms _) (storesFrom_outside
        (Vol.outside_foldl (fun w r => Vol.lineResetRequest b r w)
          (fun w r => Vol.outside_lineResetRequest b r w) _ _)))
  · exact storesFrom_refl v

theorem storesFrom_frameFault (b : Battery) (k : Line) (a : Assembler) (g t : Bool) (v : Vol) :
    storesFrom v ((v.assemble k a g t).frameFault b k) :=
  storesFrom_trans (storesFrom_assemble k a g t v) (storesFrom_outside (Vol.outside_frameFault ..))

theorem storesFrom_frameEnds (k : Line) (hi lo : Byte) (kept : List Byte) (x y : Byte) (b : Battery) (v : Vol) :
    storesFrom v (frameEnds k hi lo kept x y b v).2 := by
  unfold frameEnds
  dsimp only
  split
  · split
    · exact storesFrom_trans (storesFrom_assemble _ _ _ _ _) (storesFrom_outside (Vol.outside_takeBody ..))
    · exact storesFrom_assemble _ _ _ _ _
  · exact storesFrom_frameFault _ _ _ _ _ _

theorem storesFrom_lengthEnds (b : Battery) (k : Line) (hi lo : Byte) (v : Vol) :
    storesFrom v (v.lengthEnds b k hi lo) := by
  unfold Vol.lengthEnds
  split
  · exact storesFrom_assemble _ _ _ _ _
  · exact storesFrom_frameFault _ _ _ _ _ _

theorem storesFrom_takeByte (k : Line) (x : Byte) (b : Battery) (v : Vol) : storesFrom v (takeByte k x b v).2 := by
  unfold takeByte
  split
  · exact storesFrom_refl v
  · split
    · split
      · exact storesFrom_assemble _ _ _ _ _
      · exact storesFrom_refl v
    · exact storesFrom_assemble _ _ _ _ _
    · exact storesFrom_lengthEnds _ _ _ _ _
    · unfold Vol.bodyByte
      dsimp only
      split <;> exact storesFrom_assemble _ _ _ _ _
    · exact storesFrom_assemble _ _ _ _ _
    · exact storesFrom_frameEnds _ _ _ _ _ _ _ _
    · exact storesFrom_assemble _ _ _ _ _

theorem storesFrom_takeCompletion (k : Line) (x : Byte) (b : Battery) (v : Vol) :
    storesFrom v (takeCompletion k x b v).2 := by
  unfold takeCompletion
  split
  · exact storesFrom_refl v
  · split
    · split
      · exact storesFrom_frameEnds _ _ _ _ _ _ _ _
      · exact storesFrom_refl v
    · exact storesFrom_refl v

theorem storesFrom_takeFault (k : Line) (c : FrameFaultCause) (b : Battery) (v : Vol) :
    storesFrom v (takeFault k c b v).2 := by
  unfold takeFault
  split
  · exact storesFrom_refl v
  · split
    · dsimp only
      split
      · exact storesFrom_refl v
      · exact storesFrom_lengthEnds _ _ _ _ _
    · split
      · exact storesFrom_refl v
      · exact storesFrom_frameEnds _ _ _ _ _ _ _ _
    · unfold Vol.framingFault
      dsimp only
      split
      · exact storesFrom_refl v
      · exact storesFrom_assemble _ _ _ _ _
      · exact storesFrom_frameFault _ _ _ _ _ _
    · exact storesFrom_refl v

/-! ## All of them -/

theorem storesFrom_ownEffect (i : Instr) (b : Battery) (v : Vol) : storesFrom v (ownEffect i b v).2 := by
  cases i
  case frameComplete => exact storesFrom_takeCompletion _ _ _ _
  case frameFault => exact storesFrom_takeFault _ _ _ _
  case frameGapExpiry =>
    show storesFrom v (Vol.gapExpires ..)
    unfold Vol.gapExpires
    split
    · exact storesFrom_frameFault _ _ _ _ _ _
    · exact storesFrom_refl v
  case silenceTimerExpiry =>
    show storesFrom v (Vol.silenceExpires ..)
    unfold Vol.silenceExpires
    split
    · exact storesFrom_assemble _ _ _ _ _
    · exact storesFrom_refl v
  case lineBreak => exact storesFrom_takeBreakLine _ _ _
  case frameSent => exact storesFrom_takeSent _ _ _
  case powerOn =>
    show storesFrom v (powerOn ..).2
    unfold powerOn
    split
    · exact storesFrom_refl v
    · dsimp only
      split
      · exact storesFrom_resetBlocks _ _ _
      · exact storesFrom_trans (storesFrom_resetBlocks Battery.default v _)
          (storesFrom_modPort _ _ _ (fun _ => Nat.le_refl _))
  case resetHold =>
    show storesFrom v (resetHold ..).2
    unfold resetHold
    split
    · exact storesFrom_refl v
    · exact storesFrom_resetBlocks _ _ _
  case mainPowerLoss =>
    show storesFrom v (powerLoss ..).2
    unfold powerLoss
    split
    · exact storesFrom_resetBlocks _ _ _
    · exact storesFrom_refl v
  case resetRelease =>
    show storesFrom v (resetRelease ..).2
    unfold resetRelease
    split <;> exact storesFrom_ports rfl
  case secondEnd =>
    show storesFrom v (secondEnd ..).2
    unfold secondEnd
    dsimp only
    split
    · exact storesFrom_outside (Vol.outside_minuteTick ..)
    · exact storesFrom_refl v
  case indexPulse => exact storesFrom_outside (Vol.outside_indexPulse ..)
  case headUnload => exact storesFrom_outside (Vol.outside_headUnload ..)
  case indexStall =>
    show storesFrom v (Vol.indexStall ..)
    unfold Vol.indexStall
    split
    · exact storesFrom_discard _ _ _ _ _
    · exact storesFrom_refl v
  case doorLineChange => exact storesFrom_ports rfl
  case doorOpening =>
    show storesFrom v (Vol.doorOpens ..)
    unfold Vol.doorOpens
    split
    · exact storesFrom_discard _ _ _ _ _
    · exact storesFrom_refl v
  case doorClosing => exact storesFrom_outside (Vol.outside_doorCloses ..)
  case stepDone => exact storesFrom_stepDone _ _ _ _
  case settleDone => exact storesFrom_outside (Vol.outside_settleDone ..)
  case headLoadDone => exact storesFrom_outside (Vol.outside_headLoadDone ..)
  case headerFound => exact storesFrom_outside (Vol.outside_headerFound ..)
  case searchLimit => exact storesFrom_outside (Vol.outside_searchLimit ..)
  case sectorBoundary => exact storesFrom_sectorBoundary _ _ _ _
  case verifySectorEnd => exact storesFrom_verifySectorEnd _ _ _ _
  case idleLimitExpiry => exact storesFrom_outside (Vol.outside_idleExpires ..)
  case formatUnitEnd => exact storesFrom_outside (Vol.outside_formatUnitDone ..)
  case copyOpeningEnd => exact storesFrom_outside (Vol.outside_copyOpeningDone ..)
  case copyCatalogUnitEnd => exact storesFrom_outside (Vol.outside_copyCatalogDone ..)
  case copyLabelVerified => exact storesFrom_outside (Vol.outside_copyLabelDone ..)
  case characterReceived => exact storesFrom_takeByte _ _ _ _
  case lineReturnToMark => exact storesFrom_modPort _ _ _ (fun _ => Nat.le_refl _)
  case angleUnitTick =>
    show storesFrom v (Vol.angleUnit ..)
    unfold Vol.angleUnit
    split
    · exact storesFrom_trans (storesFrom_modCable v _ _) (storesFrom_outside (Vol.outside_angleTick ..))
    · exact storesFrom_modCable v _ _
  all_goals exact storesFrom_outside (Vol.outside_takeCommand ..)

end Sys2Proof.Machine
end

