-- ==== Sys2Proof/Laws/Rest.lean ====
section
/-! SUPPORT. What a general reset leaves in every block, and that the blocks stay at rest while they do not run. -/

namespace Sys2Proof.Machine

theorem Vol.drive_resetBlocks (b : Battery) (v : Vol) (d : DriveNo) :
    (v.resetBlocks b).drive d = Drive.afterReset ((v.resetBlocks b).drive d).cable := by
  unfold Vol.resetBlocks
  dsimp only
  generalize allLines.foldl (fun (w : Vol) k => w.modPort k (fun _ => Port.afterReset (b.rate k))) _ = w
  have h3 : ∀ (l : List DriveNo) (w : Vol), (w.drive d = Drive.afterReset (w.drive d).cable ∨ d ∈ l) →
      (l.foldl (fun (w : Vol) d => w.modDrive d (fun x => Drive.afterReset x.cable)) w).drive d
       = Drive.afterReset ((l.foldl (fun (w : Vol) d => w.modDrive d (fun x => Drive.afterReset x.cable)) w).drive d).cable := by
    intro l
    induction l with
    | nil => exact fun w h => h.resolve_right (by simp)
    | cons x l ih =>
      intro w h
      refine ih _ ?_
      by_cases e : d = x
      · subst e; left; rw [Vol.drive_modDrive_self]; rfl
      · rcases h with h | h
        · left; rw [Vol.drive_modDrive_ne _ _ _ _ e]; exact h
        · exact .inr ((List.mem_cons.mp h).resolve_left e)
  have hm : ∀ d : DriveNo, d ∈ allDrives := by decide
  exact h3 allDrives w (.inr (hm d))

theorem Vol.port_resetBlocks (b : Battery) (v : Vol) (k : Line) :
    (v.resetBlocks b).port k = Port.afterReset (b.rate k) := by
  unfold Vol.resetBlocks
  dsimp only
  generalize allDrives.foldl (fun (w : Vol) d => w.spoil d) v = w
  have h1 : ∀ (l : List DriveNo) (w : Vol),
      ((l.foldl (fun (w : Vol) d => w.modDrive d (fun x => Drive.afterReset x.cable)) w).port k) = w.port k := by
    intro l
    induction l with
    | nil => exact fun _ => rfl
    | cons x l ih => exact fun w => (ih _).trans rfl
  have h2 : ∀ (l : List Line) (w : Vol), w.port k = Port.afterReset (b.rate k) ∨ k ∈ l →
      ((l.foldl (fun (w : Vol) k => w.modPort k (fun _ => Port.afterReset (b.rate k))) w).port k) = Port.afterReset (b.rate k) := by
    intro l
    induction l with
    | nil => exact fun w h => h.resolve_right (by simp)
    | cons x l ih =>
      intro w h
      refine ih _ ?_
      rw [Vol.port_modPort]
      by_cases e : x = k
      · rw [if_pos e]
        subst e
        exact .inl rfl
      · rw [if_neg e]
        rcases h with h | h
        · exact .inl h
        · rcases List.mem_cons.mp h with h | h
          · exact absurd h.symm e
          · exact .inr h
  have h4 : ∀ (w : Vol) q p t l, (({ w with reqs := q, pool := p, retired := t, tests := l } : Vol).port k)
      = w.port k := fun _ _ _ _ _ => rfl
  rw [h4, h1]
  exact h2 _ _ (.inr (mem_allLines k))

theorem Vol.empty_resetBlocks (b : Battery) (v : Vol) :
    (∀ r, (v.resetBlocks b).req r = none) ∧ (∀ x, ((v.resetBlocks b).buf x).owner = none)
      ∧ (∀ k, (v.resetBlocks b).record k = .free) ∧ (v.resetBlocks b).tests = [] := by
  refine ⟨fun r => ?_, fun x => ?_, fun k => ?_, rfl⟩
  · simp [Vol.resetBlocks, Vol.req]
  · simp [Vol.resetBlocks, Vol.buf]
  · simp [Vol.resetBlocks, Vol.record]

theorem Vol.power_spoil (d : DriveNo) (v : Vol) : (v.spoil d).power = v.power ∧ (v.spoil d).resetHeld = v.resetHeld := by
  unfold Vol.spoil Vol.spoilUnit
  repeat' (first | exact ⟨rfl, rfl⟩ | split | dsimp only)

theorem Vol.power_resetBlocks (b : Battery) (v : Vol) :
    (v.resetBlocks b).power = v.power ∧ (v.resetBlocks b).resetHeld = v.resetHeld := by
  unfold Vol.resetBlocks
  dsimp only
  have h1 : ∀ (l : List DriveNo) (w : Vol),
      (l.foldl (fun (w : Vol) d => w.modDrive d (fun x => Drive.afterReset x.cable)) w).power = w.power ∧ (l.foldl (fun (w : Vol) d => w.modDrive d (fun x => Drive.afterReset x.cable)) w).resetHeld = w.resetHeld := by
    intro l; induction l with
    | nil => exact fun _ => ⟨rfl, rfl⟩
    | cons x l ih => exact fun w => ih _
  have h2 : ∀ (l : List Line) (w : Vol),
      (l.foldl (fun (w : Vol) k => w.modPort k (fun _ => Port.afterReset (b.rate k))) w).power = w.power ∧ (l.foldl (fun (w : Vol) k => w.modPort k (fun _ => Port.afterReset (b.rate k))) w).resetHeld = w.resetHeld := by
    intro l; induction l with
    | nil => exact fun _ => ⟨rfl, rfl⟩
    | cons x l ih => exact fun w => ih _
  have h3 : ∀ (l : List DriveNo) (w : Vol),
      (l.foldl (fun (w : Vol) d => w.spoil d) w).power = w.power ∧ (l.foldl (fun (w : Vol) d => w.spoil d) w).resetHeld = w.resetHeld := by
    intro l; induction l with
    | nil => exact fun _ => ⟨rfl, rfl⟩
    | cons x l ih => exact fun w => ⟨(ih _).1.trans (Vol.power_spoil x w).1, (ih _).2.trans (Vol.power_spoil x w).2⟩
  exact ⟨((h1 _ _).1.trans (h2 _ _).1).trans (h3 _ _).1, ((h1 _ _).2.trans (h2 _ _).2).trans (h3 _ _).2⟩

/-- The premise and conclusion of State.restsWhenStopped on a battery domain and the rest. -/
def restsIn (b : Battery) (v : Vol) : Prop := v.live = false →
    (∀ k, (v.port k).atRest b k)
      ∧ (∀ d, v.drive d = Drive.afterReset (v.drive d).cable)
      ∧ (∀ r, v.req r = none) ∧ (∀ x, (v.buf x).owner = none) ∧ (∀ k, v.record k = .free)
      ∧ v.tests = []

theorem restsIn_reset (b : Battery) (v : Vol) : restsIn b (v.resetBlocks b) := fun _ =>
  ⟨fun k => .inl (Vol.port_resetBlocks b v k), Vol.drive_resetBlocks b v, (Vol.empty_resetBlocks b v)⟩

theorem Battery.rate_congr {b c : Battery} (h : c.settings = b.settings) (k : Line) : c.rate k = b.rate k := by
  unfold Battery.rate Battery.desk; rw [h]

theorem restsIn_congr {b c : Battery} {v : Vol} (h : c.settings = b.settings) (g : restsIn b v) : restsIn c v := by
  intro hl
  obtain ⟨h1, h2⟩ := g hl
  refine ⟨fun k => ?_, h2⟩
  have := h1 k
  unfold Port.atRest at *
  rw [Battery.rate_congr h]; exact this

theorem restsIn_cable {b : Battery} {v : Vol} (d : DriveNo) (f : Cable → Cable) (g : restsIn b v) : restsIn b (v.modCable d f) := by
  intro hl
  obtain ⟨h1, h2, h3⟩ := g hl
  refine ⟨h1, fun j => ?_, h3⟩
  by_cases e : j = d
  · subst e; rw [Vol.drive_modCable_self]; show ({v.drive j with cable := f (v.drive j).cable} : Drive) = _; rw [h2 j]; rfl
  · rw [Vol.drive_modCable_ne _ _ _ _ e]; exact h2 j

theorem restsIn_own (i : Instr) (b : Battery) (v : Vol) (ha : v.live = true ∨ actsAlways i = true) (h : restsIn b v) :
    restsIn (ownEffect i b v).1 (ownEffect i b v).2 := by
  by_cases hc : changesLive i = false
  · by_cases hv : v.live = true
    · intro hl; rw [ownEffect_live i b v hc] at hl; rw [hv] at hl; cases hl
    · have hv' : v.live = false := by simpa using hv
      have ha' := ha.resolve_left hv
      cases i
      case secondEnd =>
        show restsIn (secondEnd b v).1 (secondEnd b v).2
        unfold secondEnd; rw [hv']; simp only [Bool.and_false, Bool.false_eq_true, if_false]
        exact restsIn_congr rfl h
      case doorLineChange d c m => exact restsIn_cable d _ h
      case angleUnitTick d p => 
        show restsIn b (Vol.angleUnit ..)
        unfold Vol.angleUnit; rw [hv', if_neg Bool.false_ne_true]; exact restsIn_cable d _ h
      all_goals first | exact Bool.noConfusion hc | exact Bool.noConfusion ha'
  · cases i
    case powerOn kept =>
      show restsIn (powerOn kept b v).1 (powerOn kept b v).2
      unfold powerOn
      split
      · exact h
      · dsimp only; split
        · dsimp only [generalReset]
          have := restsIn_reset b { v with power := true }
          generalize Vol.resetBlocks b _ = w at this ⊢
          exact restsIn_congr (Battery.settings_recomputeAll b) this
        · have h0 := restsIn_reset Battery.default { v with power := true }
          have hp := Vol.port_resetBlocks Battery.default { v with power := true } supervisorLine
          generalize Vol.resetBlocks Battery.default _ = w at h0 hp ⊢
          intro hl
          obtain ⟨h1, h2⟩ := h0 hl
          refine ⟨fun k => ?_, h2⟩
          rw [Vol.port_modPort]
          split
          · next e =>
            subst e; right
            rw [hp]
            exact ⟨rfl, rfl⟩
          · exact h1 k
    case resetHold =>
      show restsIn (resetHold b v).1 (resetHold b v).2
      unfold resetHold; split
      · exact h
      · exact restsIn_reset b _
    case mainPowerLoss =>
      show restsIn (powerLoss b v).1 (powerLoss b v).2
      unfold powerLoss; split
      · exact restsIn_reset b _
      · exact h
    case resetRelease =>
      show restsIn (resetRelease b v).1 (resetRelease b v).2
      unfold resetRelease; split
      · next hr =>
        dsimp only; split
        · next hp => intro hl; simp [Vol.live, hp] at hl
        · next hp => intro _; exact h (by simp [Vol.live, hr])
      · exact h
    all_goals exact absurd rfl hc

theorem restsIn_finish (s : State) (b : Battery) (v : Vol) (h : restsIn b v) : restsIn b (s.finish (b, v)).vol := by
  intro hl
  have hv : v.live = false := by
    rw [← hl]; exact (Vol.live_of_placedOnly (State.placedOnly_finish s (b, v))).symm
  obtain ⟨h1, h2, h3, h4, h5, h6⟩ := h hv
  have hs : (s.finish (b, v)).vol = noteEligible s.vol v := by
    show settle b (noteEligible s.vol v) = _
    unfold settle; rw [if_neg]; show ¬ v.live = true; rw [hv]; simp
  have : noteEligible s.vol v = v := by
    unfold noteEligible
    have : ∀ d, (v.drive d).sched.service.isSome = false := fun d => by rw [h2 d]; rfl
    have e : (allDrives.flatMap fun d => if (v.drive d).sched.service.isSome then (newlyEligible s.vol v d).map (fun a => (d, a)) else []) = [] := by
      simp [this]
    rw [e, List.append_nil]
  rw [hs, this]
  exact ⟨h1, h2, h3, h4, h5, h6⟩

theorem Vol.cable_spoil (d j : DriveNo) (v : Vol) :
    ((v.spoil d).drive j).cable.doorClosed = (v.drive j).cable.doorClosed ∧
    ((v.spoil d).drive j).cable.protect = (v.drive j).cable.protect ∧
    ((v.spoil d).drive j).cable.track0 = (v.drive j).cable.track0 := by
  by_cases e : j = d
  · subst e
    unfold Vol.spoil Vol.spoilUnit
    repeat' (first | exact ⟨rfl, rfl, rfl⟩ | (unfold Vol.modDisk; rw [Vol.drive_modCable_self]; exact ⟨rfl, rfl, rfl⟩) | split | dsimp only)
  · rw [Vol.drive_spoil_ne d j v e]; exact ⟨rfl, rfl, rfl⟩

theorem Vol.cable_resetBlocks (b : Battery) (v : Vol) (j : DriveNo) :
    ((v.resetBlocks b).drive j).cable.doorClosed = (v.drive j).cable.doorClosed ∧
    ((v.resetBlocks b).drive j).cable.protect = (v.drive j).cable.protect ∧
    ((v.resetBlocks b).drive j).cable.track0 = (v.drive j).cable.track0 := by
  unfold Vol.resetBlocks
  dsimp only
  have h2 : ∀ (l : List Line) (w : Vol) d,
      (l.foldl (fun (w : Vol) k => w.modPort k (fun _ => Port.afterReset (b.rate k))) w).drive d = w.drive d := by
    intro l
    induction l with
    | nil => exact fun _ _ => rfl
    | cons x l ih => exact fun w d => (ih _ d).trans rfl
  have h3 : ∀ (l : List DriveNo) (w : Vol) d,
      ((l.foldl (fun (w : Vol) d => w.modDrive d (fun x => Drive.afterReset x.cable)) w).drive d).cable
        = (w.drive d).cable := by
    intro l
    induction l with
    | nil => exact fun _ _ => rfl
    | cons x l ih =>
      intro w d
      refine (ih _ d).trans ?_
      by_cases e : d = x
      · subst e
        rw [Vol.drive_modDrive_self]
        rfl
      · rw [Vol.drive_modDrive_ne _ _ _ _ e]
  have h5 : ∀ (l : List DriveNo) (w : Vol), ((l.foldl (fun (w : Vol) d => w.spoil d) w).drive j).cable.doorClosed = (w.drive j).cable.doorClosed ∧
    ((l.foldl (fun (w : Vol) d => w.spoil d) w).drive j).cable.protect = (w.drive j).cable.protect ∧
    ((l.foldl (fun (w : Vol) d => w.spoil d) w).drive j).cable.track0 = (w.drive j).cable.track0 := by
    intro l
    induction l with
    | nil => exact fun _ => ⟨rfl, rfl, rfl⟩
    | cons x l ih =>
      intro w
      obtain ⟨a1, a2, a3⟩ := ih (w.spoil x)
      obtain ⟨c1, c2, c3⟩ := Vol.cable_spoil x j w
      exact ⟨a1.trans c1, a2.trans c2, a3.trans c3⟩
  have h4 : ∀ (w : Vol) q p t l d, (({ w with reqs := q, pool := p, retired := t, tests := l } : Vol).drive d)
      = w.drive d := fun _ _ _ _ _ _ => rfl
  rw [h4, h3, h2]
  exact h5 _ _

end Sys2Proof.Machine
end

