-- ==== Sys2Proof/Laws/Service.lean ====
section
/-! SUPPORT. What placing an order in service takes from the pool, and which header a search has found. -/

namespace Sys2Proof.Machine

@[simp] theorem Vol.ofFn_buf (v : Vol) : (Vector.ofFn fun x => v.buf x) = v.pool := by
  apply Vector.ext
  intro i hi
  rw [Vector.getElem_ofFn]
  rfl

/-- The buffers taken are the lowest-numbered free ones, as many as there are up to the number asked; nothing but
their owner changes. -/
theorem Vol.takeBufs_eq (r : ReqId) (n : Nat) (v : Vol) :
    let taken := ((List.finRange 40).filter (fun x => decide ((v.buf x).owner = none))).take n
    v.takeBufs r n = (taken, { v with pool := Vector.ofFn (fun x =>
      if x ∈ taken then { v.buf x with owner := some r } else v.buf x) }) := by
  induction n generalizing v with
  | zero =>
    intro taken
    have ht : taken = [] := rfl
    rw [ht]
    simp only [List.not_mem_nil, if_false, Vol.ofFn_buf]
    rfl
  | succ n ih =>
    intro taken
    unfold Vol.takeBufs Vol.takeBuf
    have he : (allBufs.find? fun b => (v.buf b).owner == none)
        = ((List.finRange 40).filter (fun x => decide ((v.buf x).owner = none))).head? := by
      rw [List.head?_filter]
      congr 1
      funext b
      cases (v.buf b).owner <;> rfl
    cases hf : (List.finRange 40).filter (fun x => decide ((v.buf x).owner = none)) with
    | nil =>
      rw [he, hf]
      have ht : taken = [] := by simp [taken, hf]
      simp only [List.head?_nil, ht, List.not_mem_nil, if_false, Vol.ofFn_buf]
    | cons x xs =>
      rw [he, hf]
      simp only [List.head?_cons]
      have hx : x ∈ (List.finRange 40).filter (fun x => decide ((v.buf x).owner = none)) := by rw [hf]; simp
      have hnd : (x :: xs).Nodup := by rw [← hf]; exact (List.nodup_finRange 40).filter _
      have hrest : (List.finRange 40).filter (fun y =>
          decide (((v.setBuf x { v.buf x with owner := some r }).buf y).owner = none)) = xs := by
        have : (fun y => decide (((v.setBuf x { v.buf x with owner := some r }).buf y).owner = none))
            = (fun y => decide (y ≠ x) && decide ((v.buf y).owner = none)) := by
          funext y
          by_cases e : y = x
          · subst e; simp
          · rw [Vol.buf_setBuf_ne _ _ _ _ e]; simp [e]
        rw [this, ← List.filter_filter, hf]
        simp only [List.filter_cons]
        simp
        rintro a ha rfl; exact (List.nodup_cons.mp hnd).1 ha
      rw [ih]
      have ht : taken = x :: xs.take n := by simp [taken, hf]
      rw [hrest]
      rw [ht]
      have hp : (fun y => if y ∈ xs.take n then { (v.setBuf x { v.buf x with owner := some r }).buf y with owner := some r }
          else (v.setBuf x { v.buf x with owner := some r }).buf y)
          = (fun y => if y ∈ x :: xs.take n then { v.buf y with owner := some r } else v.buf y) := by
        funext y
        by_cases e : y = x
        · subst e
          have hn : y ∉ xs.take n := fun h => (List.nodup_cons.mp hnd).1 (List.mem_of_mem_take h)
          rw [if_neg hn, if_pos (by simp), Vol.buf_setBuf_self]
        · rw [Vol.buf_setBuf_ne _ _ _ _ e]; simp [e]
      refine Prod.ext rfl ?_
      show ({ v.setBuf x { v.buf x with owner := some r } with pool := _ } : Vol) = _
      exact congrArg (fun g => ({ v with pool := Vector.ofFn g } : Vol)) hp

/-- R181: the buffers whose sector is not worked are filled with zeros; nothing else changes. -/
theorem Vol.zeroFill_eq (worked : List Nat) (bs : List BufNo) (k : Nat) (v : Vol) (hn : bs.Nodup) :
    v.zeroFill worked bs k = { v with pool := Vector.ofFn (fun x =>
      if x ∈ bs ∧ k + bs.idxOf x ∉ worked then { v.buf x with data := zeroSector } else v.buf x) } := by
  induction bs generalizing k v with
  | nil =>
    simp only [List.not_mem_nil, false_and, if_false, Vol.ofFn_buf]; rfl
  | cons y ys ih =>
    unfold Vol.zeroFill
    rw [ih _ _ (List.nodup_cons.mp hn).2]
    have hy := (List.nodup_cons.mp hn).1
    split
    · next hw =>
      refine congrArg (fun g => ({ v with pool := Vector.ofFn g } : Vol)) ?_
      funext x
      by_cases e : x = y
      · subst e; simp at hw; simp [hy, hw]
      · have : (y :: ys).idxOf x = ys.idxOf x + 1 := by rw [List.idxOf_cons_ne _ (Ne.symm e)]
        rw [this]; simp only [List.mem_cons, e, false_or]
        have : k + 1 + ys.idxOf x = k + (ys.idxOf x + 1) := by omega
        rw [this]
    · next hw =>
      show ({ v.setBuf y _ with pool := _ } : Vol) = _
      refine congrArg (fun g => ({ v with pool := Vector.ofFn g } : Vol)) ?_
      funext x
      by_cases e : x = y
      · subst e; simp at hw; simp [hy, hw, Vol.fillBuf]
      · have : (y :: ys).idxOf x = ys.idxOf x + 1 := by rw [List.idxOf_cons_ne _ (Ne.symm e)]
        rw [this]; simp only [List.mem_cons, e, false_or]
        have : k + 1 + ys.idxOf x = k + (ys.idxOf x + 1) := by omega
        rw [this]
        simp only [Vol.fillBuf, Vol.buf_setBuf_ne _ _ _ _ e]

/-- R181, R182: the sectors of an order's run that are worked. -/
theorem Order.mem_sectors (o : Order) (n : Nat) : n ∈ o.sectors ↔ o.first ≤ n ∧ n < o.first + o.count ∧ n ∉ o.skip := by
  unfold Order.sectors
  simp only [List.mem_filter, List.mem_map, List.mem_range]
  constructor
  · rintro ⟨⟨i, hi, rfl⟩, h⟩; simp at h; exact ⟨by omega, by omega, h⟩
  · rintro ⟨h1, h2, h3⟩; exact ⟨⟨n - o.first, by omega, by omega⟩, by simpa using h3⟩

/-- R6: the header sought is the good one of the sector's address with size code 3. -/
theorem classify_eq_sought (c side n : Nat) (h : HeaderRead) :
    classify c side n h = .sought ↔ (crc [h.cyl, h.side, h.sector, h.size] = h.check ∧ h.cyl.toNat = c
      ∧ h.side.toNat = side ∧ h.sector.toNat = n ∧ h.size.toNat = 3) := by
  unfold classify headerGood
  by_cases h1 : crc [h.cyl, h.side, h.sector, h.size] = h.check <;> by_cases h2 : h.cyl.toNat = c <;>
    by_cases h3 : h.side.toNat = side <;> by_cases h4 : h.sector.toNat = n <;>
    by_cases h5 : h.size.toNat = 3 <;> simp [h1, h2, h3, h4, h5]

end Sys2Proof.Machine
end

