-- ==== Sys2Proof/Laws/Stacks.lean ====
section
/-! SUPPORT. The stacks of R52 under every operation of the machine: their order and their depth are kept. -/

set_option linter.unusedSimpArgs false
set_option linter.unusedTactic false
set_option linter.unreachableTactic false

namespace Sys2Proof.Machine

theorem Scheduler.stackOk_of_sublist {s t : Scheduler} (h : s.stackOk)
    (h1 : List.Sublist ((t.stack ++ t.service.toList).map (fun o => o.cls.rank))
      ((s.stack ++ s.service.toList).map (fun o => o.cls.rank)))
    (h2 : t.depth ≤ s.depth) : t.stackOk := ⟨Nat.le_trans h2 h.1, h.2.sublist h1⟩

/-- Two schedulers whose stacks, orders in service and cursors agree. -/
theorem Scheduler.stackOk_of_eq {s t : Scheduler} (h : s.stackOk) (h1 : t.stack = s.stack)
    (h2 : t.service = s.service) (h3 : t.cursor = s.cursor) : t.stackOk := by
  unfold Scheduler.stackOk Scheduler.depth at h ⊢
  rw [h1, h2, h3]
  exact h

theorem Vol.stacksOk_scheds {v w : Vol} (h : v.stacksOk) (e : ∀ d, (w.drive d).sched = (v.drive d).sched) :
    w.stacksOk := fun d => by rw [e d]; exact h d

theorem Vol.stacksOk_drives {v w : Vol} (h : v.stacksOk) (e : w.drives = v.drives) : w.stacksOk := by
  refine Vol.stacksOk_scheds h (fun d => ?_)
  unfold Vol.drive
  rw [e]

theorem Vol.stacksOk_modDrive (v : Vol) (d : DriveNo) (f : Drive → Drive) (h : v.stacksOk)
    (hf : (f (v.drive d)).sched.stackOk) : (v.modDrive d f).stacksOk := by
  intro j
  by_cases e : j = d
  · subst e
    rw [Vol.drive_modDrive_self]
    exact hf
  · rw [Vol.drive_modDrive_ne _ _ _ _ e]
    exact h j

theorem Vol.stacksOk_modDrive_sched (v : Vol) (d : DriveNo) (f : Drive → Drive) (h : v.stacksOk)
    (hf : ∀ x, (f x).sched = x.sched) : (v.modDrive d f).stacksOk :=
  Vol.stacksOk_modDrive v d f h (by rw [hf]; exact h d)

theorem Vol.stacksOk_modSched (v : Vol) (d : DriveNo) (f : Scheduler → Scheduler) (h : v.stacksOk)
    (hf : (f (v.drive d).sched).stackOk) : (v.modSched d f).stacksOk := Vol.stacksOk_modDrive v d _ h hf

theorem Vol.stacksOk_foldl {α : Type} (f : Vol → α → Vol) (hf : ∀ v x, v.stacksOk → (f v x).stacksOk) (xs : List α)
    (v : Vol) (h : v.stacksOk) : (xs.foldl f v).stacksOk := by
  induction xs generalizing v with
  | nil => exact h
  | cons x xs ih => exact ih _ (hf v x h)

@[simp] theorem Vol.stacksOk_queue (v : Vol) (d : DriveNo) (f : Scheduler → List Order) (h : v.stacksOk) :
    (v.modSched d (fun s => { s with queue := f s })).stacksOk := Vol.stacksOk_modSched v d _ h (h d)

@[simp] theorem Vol.stacksOk_pending (v : Vol) (d : DriveNo) (x : Bool) (h : v.stacksOk) :
    (v.modSched d (fun s => { s with pending := x })).stacksOk := Vol.stacksOk_modSched v d _ h (h d)

@[simp] theorem Vol.stacksOk_tests (v : Vol) (ts : List (DriveNo × Nat)) (h : v.stacksOk) :
    ({ v with tests := ts } : Vol).stacksOk := h

@[simp] theorem Vol.stacksOk_picks (v : Vol) (n : Nat) (h : v.stacksOk) : ({ v with picks := n } : Vol).stacksOk := h

theorem Vol.stacksOk_takeBuf {v w : Vol} {r : ReqId} {x : BufNo} (e : v.takeBuf r = some (x, w)) (h : v.stacksOk) :
    w.stacksOk := by
  unfold Vol.takeBuf at e
  split at e
  · cases e
  · cases e
    exact h

@[simp] theorem Vol.stacksOk_takeBufs (v : Vol) (r : ReqId) (n : Nat) (h : v.stacksOk) :
    (v.takeBufs r n).2.stacksOk := by
  induction n generalizing v with
  | zero => exact h
  | succ n ih =>
    unfold Vol.takeBufs
    split
    · exact h
    · next e => exact ih _ (Vol.stacksOk_takeBuf e h)

theorem Drive.stackOk_leaveService {x : Drive} (h : x.sched.stackOk) : x.leaveService.sched.stackOk := by
  refine Scheduler.stackOk_of_sublist h ?_ (Nat.le_refl _)
  unfold Drive.leaveService
  simp

@[simp] theorem Vol.stacksOk_leaveService (v : Vol) (d : DriveNo) (h : v.stacksOk) :
    (v.modDrive d Drive.leaveService).stacksOk :=
  Vol.stacksOk_modDrive v d _ h (Drive.stackOk_leaveService (h d))

@[simp] theorem Vol.stacksOk_preemptEarly (v : Vol) (d : DriveNo) (h : v.stacksOk) :
    (v.modDrive d Drive.preemptEarly).stacksOk := by
  refine Vol.stacksOk_modDrive v d _ h ?_
  unfold Drive.preemptEarly
  split
  · exact h d
  · exact Scheduler.stackOk_of_eq (Drive.stackOk_leaveService (h d)) rfl rfl rfl

theorem Vol.stacksOk_push (v : Vol) (d : DriveNo) (h : v.stacksOk)
    (hd : (v.drive d).sched.depth < Config.stackSlots) : (v.modDrive d Drive.push).stacksOk := by
  refine Vol.stacksOk_modDrive v d _ h ?_
  unfold Drive.push
  split
  · exact h d
  · next o ho =>
    have := h d
    unfold Scheduler.stackOk at this ⊢
    refine ⟨?_, ?_⟩
    · have e : ({ (v.drive d).leaveService.sched with
          stack := (v.drive d).leaveService.sched.stack ++ [{ o with tries := Tries.fresh }] } : Scheduler).depth
          = (v.drive d).sched.depth + 1 := by
        unfold Scheduler.depth
        simp only [Drive.leaveService, List.length_append, List.length_cons, List.length_nil]
        exact Nat.add_right_comm _ _ _
      exact e ▸ hd
    · rw [ho] at this
      simpa [Drive.leaveService] using this.2

theorem Drive.stackOk_takeOut (r : ReqId) {x : Drive} (h : x.sched.stackOk) : (x.takeOut r).1.sched.stackOk := by
  have hf : ∀ p : Order → Bool, ({ x.sched with queue := x.sched.queue.filter p, stack := x.sched.stack.filter p }
      : Scheduler).stackOk := by
    intro p
    refine Scheduler.stackOk_of_sublist h ?_ ?_
    · exact ((List.filter_sublist).append (List.Sublist.refl _)).map _
    · unfold Scheduler.depth
      have := List.length_filter_le p x.sched.stack
      dsimp only
      omega
  unfold Drive.takeOut
  split
  · split
    · split
      · exact h
      · exact Drive.stackOk_leaveService h
    · exact hf _
  · exact hf _

@[simp] theorem Vol.stacksOk_takeOut (v : Vol) (r : ReqId) (d e : DriveNo) (h : v.stacksOk) :
    (v.takeOut r d e).1.stacksOk := by
  unfold Vol.takeOut
  dsimp only
  have h1 : (v.modDrive d (fun _ => ((v.drive d).takeOut r).1)).stacksOk :=
    Vol.stacksOk_modDrive v d _ h (Drive.stackOk_takeOut r (h d))
  split
  · exact h1
  · exact Vol.stacksOk_modDrive _ e _ h1 (Drive.stackOk_takeOut r (h1 e))

@[simp] theorem Vol.stacksOk_onlySupervisor (k : Line) (tag : Byte) (b : Battery) (v : Vol) (go : Battery × Vol)
    (h : v.stacksOk) (hg : go.2.stacksOk) : (onlySupervisor k tag b v go).2.stacksOk := by
  unfold onlySupervisor
  split
  · exact hg
  · exact h

@[simp] theorem Vol.stacksOk_modSeq (v : Vol) (d : DriveNo) (f : Sequencer → Sequencer) (hs : v.stacksOk) : (Vol.modSeq v d f).stacksOk := Vol.stacksOk_modDrive_sched v d _ hs (fun _ => rfl)

@[simp] theorem Vol.stacksOk_modCat (v : Vol) (d : DriveNo) (f : Catalog → Catalog) (hs : v.stacksOk) : (Vol.modCat v d f).stacksOk := Vol.stacksOk_modDrive_sched v d _ hs (fun _ => rfl)

@[simp] theorem Vol.stacksOk_modMirror (v : Vol) (d : DriveNo) (f : Mirror → Mirror) (hs : v.stacksOk) : (Vol.modMirror v d f).stacksOk := Vol.stacksOk_modDrive_sched v d _ hs (fun _ => rfl)

@[simp] theorem Vol.stacksOk_modCable (v : Vol) (d : DriveNo) (f : Cable → Cable) (hs : v.stacksOk) : (Vol.modCable v d f).stacksOk := Vol.stacksOk_modDrive_sched v d _ hs (fun _ => rfl)

@[simp] theorem Vol.stacksOk_modDisk (v : Vol) (d : DriveNo) (f : Diskette → Diskette) (hs : v.stacksOk) : (Vol.modDisk v d f).stacksOk := by
  unfold Vol.modDisk
  try dsimp only
  repeat' (first | (simp (maxDischargeDepth := 40) [hs, apply_ite Vol.stacksOk]; done) | split)

@[simp] theorem Vol.stacksOk_modPort (v : Vol) (k : Line) (f : Port → Port) (hs : v.stacksOk) : (Vol.modPort v k f).stacksOk := Vol.stacksOk_drives hs rfl

@[simp] theorem Vol.stacksOk_setReq (v : Vol) (r : ReqId) (q : Option Request) (hs : v.stacksOk) : (Vol.setReq v r q).stacksOk := Vol.stacksOk_drives hs rfl

@[simp] theorem Vol.stacksOk_modReq (v : Vol) (r : ReqId) (f : Request → Request) (hs : v.stacksOk) : (Vol.modReq v r f).stacksOk := Vol.stacksOk_drives hs rfl

@[simp] theorem Vol.stacksOk_nextStamp (v : Vol) (hs : v.stacksOk) : (Vol.nextStamp v).stacksOk := Vol.stacksOk_drives hs rfl

@[simp] theorem Vol.stacksOk_setBuf (v : Vol) (b : BufNo) (x : Buffer) (hs : v.stacksOk) : (Vol.setBuf v b x).stacksOk := Vol.stacksOk_drives hs rfl

@[simp] theorem Vol.stacksOk_returnBuf (v : Vol) (b : BufNo) (hs : v.stacksOk) : (Vol.returnBuf v b).stacksOk := Vol.stacksOk_drives hs rfl

@[simp] theorem Vol.stacksOk_returnBufs (v : Vol) (bs : List BufNo) (hs : v.stacksOk) : (Vol.returnBufs v bs).stacksOk := Vol.stacksOk_foldl _ (fun w x hw => by simp (maxDischargeDepth := 40) [hw]) _ _ hs

@[simp] theorem Vol.stacksOk_returnAll (v : Vol) (r : ReqId) (hs : v.stacksOk) : (Vol.returnAll v r).stacksOk := by
  unfold Vol.returnAll
  try dsimp only
  repeat' (first | (simp (maxDischargeDepth := 40) [hs, apply_ite Vol.stacksOk]; done) | split)

@[simp] theorem Vol.stacksOk_fillBuf (v : Vol) (b : BufNo) (bs : List Byte) (hs : v.stacksOk) : (Vol.fillBuf v b bs).stacksOk := Vol.stacksOk_drives hs rfl

@[simp] theorem Vol.stacksOk_writeBuf (v : Vol) (b : BufNo) (start : Nat) (bs : List Byte) (hs : v.stacksOk) : (Vol.writeBuf v b start bs).stacksOk := Vol.stacksOk_drives hs rfl

@[simp] theorem Vol.stacksOk_addReply (v : Vol) (k : Line) (body : ReplyBody) (direct : Bool) (mark : Mark) (hs : v.stacksOk) : (Vol.addReply v k body direct mark).stacksOk := Vol.stacksOk_drives hs rfl

@[simp] theorem Vol.stacksOk_answer (v : Vol) (k : Line) (tag : Byte) (oc : OutcomeCode) (data : List Byte) (hs : v.stacksOk) : (Vol.answer v k tag oc data).stacksOk := by
  unfold Vol.answer
  try dsimp only
  repeat' (first | (simp (maxDischargeDepth := 40) [hs, apply_ite Vol.stacksOk]; done) | split)

@[simp] theorem Vol.stacksOk_addReqReply (v : Vol) (r : ReqId) (body : List Byte) (direct final : Bool) (hs : v.stacksOk) : (Vol.addReqReply v r body direct final).stacksOk := by
  unfold Vol.addReqReply
  try dsimp only
  repeat' (first | (simp (maxDischargeDepth := 40) [hs, apply_ite Vol.stacksOk]; done) | split)

@[simp] theorem Vol.stacksOk_reqAnswer (v : Vol) (r : ReqId) (oc : OutcomeCode) (data : List Byte) (direct final : Bool) (hs : v.stacksOk) : (Vol.reqAnswer v r oc data direct final).stacksOk := by
  unfold Vol.reqAnswer
  try dsimp only
  repeat' (first | (simp (maxDischargeDepth := 40) [hs, apply_ite Vol.stacksOk]; done) | split)

@[simp] theorem Vol.stacksOk_modNotice (v : Vol) (k : Line) (f : Notice → Notice) (hs : v.stacksOk) : (Vol.modNotice v k f).stacksOk := Vol.stacksOk_drives hs rfl

@[simp] theorem Vol.stacksOk_modNotices (v : Vol) (f : Notice → Notice) (hs : v.stacksOk) : (Vol.modNotices v f).stacksOk := Vol.stacksOk_foldl _ (fun w x hw => by simp (maxDischargeDepth := 40) [hw]) _ _ hs

@[simp] theorem Vol.stacksOk_driveChange (v : Vol) (d : DriveNo) (hs : v.stacksOk) : (Vol.driveChange v d).stacksOk := by
  unfold Vol.driveChange Vol.modNotices
  exact Vol.stacksOk_foldl _ (fun w x hw => by simp (maxDischargeDepth := 40) [hw]) _ _ hs

@[simp] theorem Vol.stacksOk_holdLost (v : Vol) (k : Line) (d : DriveNo) (hs : v.stacksOk) : (Vol.holdLost v k d).stacksOk := by
  unfold Vol.holdLost
  try dsimp only
  repeat' (first | (simp (maxDischargeDepth := 40) [hs, apply_ite Vol.stacksOk]; done) | split)

@[simp] theorem Vol.stacksOk_editionNotices (v : Vol) (warned closed : Byte) (hs : v.stacksOk) : (Vol.editionNotices v warned closed).stacksOk := by
  unfold Vol.editionNotices Vol.modNotices
  exact Vol.stacksOk_foldl _ (fun w x hw => by simp (maxDischargeDepth := 40) [hw]) _ _ hs

@[simp] theorem Vol.stacksOk_setMount (v : Vol) (d : DriveNo) (m : MountState) (hs : v.stacksOk) : (Vol.setMount v d m).stacksOk := by
  unfold Vol.setMount
  try dsimp only
  repeat' (first | (simp (maxDischargeDepth := 40) [hs, apply_ite Vol.stacksOk]; done) | split)

@[simp] theorem Vol.stacksOk_changeMount (v : Vol) (d : DriveNo) (m : MountState) (hs : v.stacksOk) : (Vol.changeMount v d m).stacksOk := by
  unfold Vol.changeMount
  try dsimp only
  repeat' (first | (simp (maxDischargeDepth := 40) [hs, apply_ite Vol.stacksOk]; done) | split)

@[simp] theorem Vol.stacksOk_modEntry (v : Vol) (d : DriveNo) (i : Nat) (f : Entry → Entry) (hs : v.stacksOk) : (Vol.modEntry v d i f).stacksOk := by
  unfold Vol.modEntry
  try dsimp only
  repeat' (first | (simp (maxDischargeDepth := 40) [hs, apply_ite Vol.stacksOk]; done) | split)

@[simp] theorem Vol.stacksOk_addFree (v : Vol) (d : DriveNo) (xs : List Nat) (hs : v.stacksOk) : (Vol.addFree v d xs).stacksOk := by
  unfold Vol.addFree
  try dsimp only
  repeat' (first | (simp (maxDischargeDepth := 40) [hs, apply_ite Vol.stacksOk]; done) | split)

@[simp] theorem Vol.stacksOk_dropHold (v : Vol) (d : DriveNo) (i : Nat) (hs : v.stacksOk) : (Vol.dropHold v d i).stacksOk := by
  unfold Vol.dropHold
  try dsimp only
  repeat' (first | (simp (maxDischargeDepth := 40) [hs, apply_ite Vol.stacksOk]; done) | split)

@[simp] theorem Vol.stacksOk_setHold (v : Vol) (d : DriveNo) (i : Nat) (k : Line) (hs : v.stacksOk) : (Vol.setHold v d i k).stacksOk := by
  unfold Vol.setHold
  try dsimp only
  repeat' (first | (simp (maxDischargeDepth := 40) [hs, apply_ite Vol.stacksOk]; done) | split)

@[simp] theorem Vol.stacksOk_dropLine (v : Vol) (k : Line) (hs : v.stacksOk) : (Vol.dropLine v k).stacksOk := Vol.stacksOk_foldl _ (fun w x hw => by simp (maxDischargeDepth := 40) [hw]) _ _ hs

@[simp] theorem Vol.stacksOk_loseHolds (v : Vol) (d : DriveNo) (hs : v.stacksOk) : (Vol.loseHolds v d).stacksOk := Vol.stacksOk_foldl _ (fun w x hw => by split <;> simp (maxDischargeDepth := 40) [hw]) _ _ hs

@[simp] theorem Vol.stacksOk_setRecord (v : Vol) (k : RecNo) (x : Retired) (hs : v.stacksOk) : (Vol.setRecord v k x).stacksOk := Vol.stacksOk_drives hs rfl

@[simp] theorem Vol.stacksOk_freeRecordsOf (v : Vol) (d : DriveNo) (hs : v.stacksOk) : (Vol.freeRecordsOf v d).stacksOk := Vol.stacksOk_foldl _ (fun w x hw => by split <;> simp (maxDischargeDepth := 40) [hw]) _ _ hs

@[simp] theorem Vol.stacksOk_releaseVersion (v : Vol) (d : DriveNo) (x : VersionRef) (hs : v.stacksOk) : (Vol.releaseVersion v d x).stacksOk := by
  unfold Vol.releaseVersion
  try dsimp only
  repeat' (first | (simp (maxDischargeDepth := 40) [hs, apply_ite Vol.stacksOk]; done) | split)

@[simp] theorem Vol.stacksOk_releaseReader (v : Vol) (r : ReqId) (hs : v.stacksOk) : (Vol.releaseReader v r).stacksOk := by
  unfold Vol.releaseReader
  try dsimp only
  repeat' (first | (simp (maxDischargeDepth := 40) [hs, apply_ite Vol.stacksOk]; done) | split)

@[simp] theorem Vol.stacksOk_moveReaders (v : Vol) (d : DriveNo) (i : Nat) (k : RecNo) (hs : v.stacksOk) : (Vol.moveReaders v d i k).stacksOk := Vol.stacksOk_foldl _ (fun w x hw => by simp (maxDischargeDepth := 40) [hw]) _ _ hs

@[simp] theorem Vol.stacksOk_go (b : Battery) (d : DriveNo) (v : Vol) (hs : v.stacksOk) : (Vol.go b d v).stacksOk := by
  refine Vol.stacksOk_modDrive_sched v d _ hs (fun x => ?_)
  unfold Drive.go
  split <;> rfl

@[simp] theorem Vol.stacksOk_startLoading (b : Battery) (d : DriveNo) (v : Vol) (hs : v.stacksOk) : (Vol.startLoading b d v).stacksOk := by
  refine Vol.stacksOk_modDrive_sched v d _ hs (fun x => ?_)
  unfold Drive.startLoading Drive.go
  split <;> rfl

@[simp] theorem Vol.stacksOk_makeOrder (b : Battery) (r : ReqId) (d : DriveNo) (kind : OrderKind) (p : OrderPlace) (v : Vol) (hs : v.stacksOk) : (Vol.makeOrder b r d kind p v).stacksOk := by
  unfold Vol.makeOrder
  split
  · exact hs
  · next q _ =>
    have h1 : ∀ o : Order, (v.modSched d (fun s => { s with queue := s.queue ++ [o], nextArrival := s.nextArrival + 1 })).stacksOk :=
      fun _ => Vol.stacksOk_modSched v d _ hs (hs d)
    dsimp only
    split
    · exact h1 _
    · exact h1 _

@[simp] theorem Vol.stacksOk_dropDraw (r : ReqId) (q : Request) (oc : OutcomeCode) (v : Vol) (hs : v.stacksOk) : (Vol.dropDraw r q oc v).stacksOk := by
  unfold Vol.dropDraw
  try dsimp only
  repeat' (first | (simp (maxDischargeDepth := 40) [hs, apply_ite Vol.stacksOk]; done) | split)

@[simp] theorem Vol.stacksOk_dropFiling (r : ReqId) (q : Request) (v : Vol) (hs : v.stacksOk) : (Vol.dropFiling r q v).stacksOk := by
  unfold Vol.dropFiling
  try dsimp only
  repeat' (first | (simp (maxDischargeDepth := 40) [hs, apply_ite Vol.stacksOk]; done) | split)

@[simp] theorem Vol.stacksOk_dropSpike (r : ReqId) (q : Request) (v : Vol) (hs : v.stacksOk) : (Vol.dropSpike r q v).stacksOk := by
  unfold Vol.dropSpike
  try dsimp only
  repeat' (first | (simp (maxDischargeDepth := 40) [hs, apply_ite Vol.stacksOk]; done) | split)

@[simp] theorem Vol.stacksOk_letGo (r : ReqId) (oc : OutcomeCode) (v : Vol) (hs : v.stacksOk) : (Vol.letGo r oc v).stacksOk := by
  unfold Vol.letGo
  try dsimp only
  repeat' (first | (simp (maxDischargeDepth := 40) [hs, apply_ite Vol.stacksOk]; done) | split)

@[simp] theorem Vol.stacksOk_finish (r : ReqId) (oc : OutcomeCode) (data : List Byte) (direct : Bool) (v : Vol) (hs : v.stacksOk) : (Vol.finish r oc data direct v).stacksOk := by
  unfold Vol.finish
  try dsimp only
  repeat' (first | (simp (maxDischargeDepth := 40) [hs, apply_ite Vol.stacksOk]; done) | split)

@[simp] theorem Vol.stacksOk_readNext (b : Battery) (r : ReqId) (v : Vol) (hs : v.stacksOk) : (Vol.readNext b r v).stacksOk := by
  unfold Vol.readNext
  try dsimp only
  repeat' (first | (simp (maxDischargeDepth := 40) [hs, apply_ite Vol.stacksOk]; done) | split)

@[simp] theorem Vol.stacksOk_becomeReader (b : Battery) (r : ReqId) (slot : Nat) (direct : Bool) (v : Vol) (hs : v.stacksOk) : (Vol.becomeReader b r slot direct v).stacksOk := by
  unfold Vol.becomeReader
  try dsimp only
  repeat' (first | (simp (maxDischargeDepth := 40) [hs, apply_ite Vol.stacksOk]; done) | split)

@[simp] theorem Vol.stacksOk_proceed (b : Battery) (r : ReqId) (v : Vol) (hs : v.stacksOk) : (Vol.proceed b r v).stacksOk := by
  unfold Vol.proceed
  try dsimp only
  repeat' (first | (simp (maxDischargeDepth := 40) [hs, apply_ite Vol.stacksOk]; done) | split)

@[simp] theorem Vol.stacksOk_wake (b : Battery) (d : DriveNo) (slot : Nat) (v : Vol) (hs : v.stacksOk) : (Vol.wake b d slot v).stacksOk := by
  unfold Vol.wake
  refine Vol.stacksOk_foldl _ (fun w r hw => ?_) _ _ hs
  split
  · exact hw
  · split <;> simp (maxDischargeDepth := 40) [hw]

@[simp] theorem Vol.stacksOk_modSession (v : Vol) (r : ReqId) (f : Session → Session) (hs : v.stacksOk) : (Vol.modSession v r f).stacksOk := Vol.stacksOk_drives hs rfl

@[simp] theorem Vol.stacksOk_formWrite (b : Battery) (r : ReqId) (direct : Bool) (v : Vol) (hs : v.stacksOk) : (Vol.formWrite b r direct v).stacksOk := by
  unfold Vol.formWrite
  try dsimp only
  repeat' (first | (simp (maxDischargeDepth := 40) [hs, apply_ite Vol.stacksOk]; done) | split)

theorem Vol.stacksOk_catalogBuffer {v w : Vol} {r : ReqId} {q : Request} {x : BufNo}
    (e : v.catalogBuffer r q = some (x, w)) (h : v.stacksOk) : w.stacksOk := by
  unfold Vol.catalogBuffer at e
  split at e
  · cases e
    exact h
  · exact Vol.stacksOk_takeBuf e h

@[simp] theorem Vol.stacksOk_enterWrite (b : Battery) (r : ReqId) (v : Vol) (hs : v.stacksOk) : (Vol.enterWrite b r v).stacksOk := by
  unfold Vol.enterWrite
  split
  · exact hs
  · split
    · next e =>
      have h' := Vol.stacksOk_catalogBuffer e hs
      dsimp only
      split <;> simp (maxDischargeDepth := 40) [h']
    · exact hs

@[simp] theorem Vol.stacksOk_writeDue (b : Battery) (r : ReqId) (v : Vol) (hs : v.stacksOk) : (Vol.writeDue b r v).stacksOk := by
  unfold Vol.writeDue
  try dsimp only
  repeat' (first | (simp (maxDischargeDepth := 40) [hs, apply_ite Vol.stacksOk]; done) | split)

@[simp] theorem Vol.stacksOk_takeForCommit (r : ReqId) (v : Vol) (hs : v.stacksOk) : (Vol.takeForCommit r v).stacksOk := by
  unfold Vol.takeForCommit
  split
  · exact hs
  · split
    · exact hs
    · next e => simp [Vol.stacksOk_takeBuf e hs]

@[simp] theorem Vol.stacksOk_commitDue (b : Battery) (r : ReqId) (v : Vol) (hs : v.stacksOk) : (Vol.commitDue b r v).stacksOk := by
  unfold Vol.commitDue
  simp [hs]

@[simp] theorem Vol.stacksOk_leaveEntry (d : DriveNo) (slot : Nat) (v : Vol) (hs : v.stacksOk) : (Vol.leaveEntry d slot v).stacksOk :=
  Vol.stacksOk_foldl _ (fun w r hw => by simp [hw]) _ _ hs

@[simp] theorem Vol.stacksOk_retireOld (d : DriveNo) (slot : Nat) (e : Entry) (w : CatWrite) (v : Vol) (hs : v.stacksOk) : (Vol.retireOld d slot e w v).stacksOk := by
  unfold Vol.retireOld
  try dsimp only
  repeat' (first | (simp (maxDischargeDepth := 40) [hs, apply_ite Vol.stacksOk]; done) | split)

@[simp] theorem Vol.stacksOk_unclaim (w : CatWrite) (v : Vol) (hs : v.stacksOk) : (Vol.unclaim w v).stacksOk := by
  unfold Vol.unclaim
  try dsimp only
  repeat' (first | (simp (maxDischargeDepth := 40) [hs, apply_ite Vol.stacksOk]; done) | split)

@[simp] theorem Vol.stacksOk_commitDone (b : Battery) (r : ReqId) (q : Request) (e : Entry) (w : CatWrite) (v : Vol) (hs : v.stacksOk) : (Vol.commitDone b r q e w v).stacksOk := by
  unfold Vol.commitDone
  try dsimp only
  repeat' (first | (simp (maxDischargeDepth := 40) [hs, apply_ite Vol.stacksOk]; done) | split)

@[simp] theorem Vol.stacksOk_spikeDone (b : Battery) (r : ReqId) (q : Request) (e : Entry) (w : CatWrite) (v : Vol) (hs : v.stacksOk) : (Vol.spikeDone b r q e w v).stacksOk := by
  unfold Vol.spikeDone
  try dsimp only
  repeat' (first | (simp (maxDischargeDepth := 40) [hs, apply_ite Vol.stacksOk]; done) | split)

@[simp] theorem Vol.stacksOk_catalogWriteFailed (b : Battery) (r : ReqId) (q : Request) (w : CatWrite) (oc : OutcomeCode) (v : Vol) (hs : v.stacksOk) : (Vol.catalogWriteFailed b r q w oc v).stacksOk := by
  unfold Vol.catalogWriteFailed
  try dsimp only
  repeat' (first | (simp (maxDischargeDepth := 40) [hs, apply_ite Vol.stacksOk]; done) | split)

@[simp] theorem Vol.stacksOk_catalogWriteEnd (b : Battery) (r : ReqId) (oc : OutcomeCode) (v : Vol) (hs : v.stacksOk) : (Vol.catalogWriteEnd b r oc v).stacksOk := by
  unfold Vol.catalogWriteEnd
  try dsimp only
  repeat' (first | (simp (maxDischargeDepth := 40) [hs, apply_ite Vol.stacksOk]; done) | split)

@[simp] theorem Vol.stacksOk_formatStops (d : DriveNo) (r : ReqId) (oc : OutcomeCode) (v : Vol) (hs : v.stacksOk) : (Vol.formatStops d r oc v).stacksOk := by
  unfold Vol.formatStops
  try dsimp only
  repeat' (first | (simp (maxDischargeDepth := 40) [hs, apply_ite Vol.stacksOk]; done) | split)

@[simp] theorem Vol.stacksOk_formatReloads (b : Battery) (d : DriveNo) (r : ReqId) (oc : OutcomeCode) (data : List Byte) (direct : Bool) (v : Vol) (hs : v.stacksOk) : (Vol.formatReloads b d r oc data direct v).stacksOk := by
  unfold Vol.formatReloads
  try dsimp only
  repeat' (first | (simp (maxDischargeDepth := 40) [hs, apply_ite Vol.stacksOk]; done) | split)

@[simp] theorem Vol.stacksOk_releaseSource (d : DriveNo) (v : Vol) (hs : v.stacksOk) : (Vol.releaseSource d v).stacksOk := by
  unfold Vol.releaseSource
  have h1 : (v.modSched d (fun s => { s with cursor := none })).stacksOk := by
    refine Vol.stacksOk_modSched v d _ hs (Scheduler.stackOk_of_sublist (hs d) (List.Sublist.refl _) ?_)
    unfold Scheduler.depth
    simp
  simp (maxDischargeDepth := 40) [h1]

@[simp] theorem Vol.stacksOk_copyEnd (b : Battery) (r : ReqId) (oc : OutcomeCode) (direct : Bool) (v : Vol) (hs : v.stacksOk) : (Vol.copyEnd b r oc direct v).stacksOk := by
  unfold Vol.copyEnd
  try dsimp only
  repeat' (first | (simp (maxDischargeDepth := 40) [hs, apply_ite Vol.stacksOk]; done) | split)

@[simp] theorem Vol.stacksOk_unitProtected (b : Battery) (d : DriveNo) (r : ReqId) (copy : Bool) (kind : UnitKind) (v : Vol) (hs : v.stacksOk) : (Vol.unitProtected b d r copy kind v).stacksOk := by
  unfold Vol.unitProtected
  try dsimp only
  repeat' (first | (simp (maxDischargeDepth := 40) [hs, apply_ite Vol.stacksOk]; done) | split)

@[simp] theorem Vol.stacksOk_placeUnit (b : Battery) (d : DriveNo) (u : UnitWork) (v : Vol) (hs : v.stacksOk) : (Vol.placeUnit b d u v).stacksOk := by
  unfold Vol.placeUnit
  try dsimp only
  repeat' (first | (simp (maxDischargeDepth := 40) [hs, apply_ite Vol.stacksOk]; done) | split)

@[simp] theorem Vol.stacksOk_beginUnit (b : Battery) (d : DriveNo) (r : ReqId) (copy : Bool) (kind : UnitKind) (v : Vol) (hs : v.stacksOk) : (Vol.beginUnit b d r copy kind v).stacksOk := by
  unfold Vol.beginUnit
  try dsimp only
  repeat' (first | (simp (maxDischargeDepth := 40) [hs, apply_ite Vol.stacksOk]; done) | split)

@[simp] theorem Vol.stacksOk_copyReadNext (b : Battery) (r : ReqId) (v : Vol) (hs : v.stacksOk) : (Vol.copyReadNext b r v).stacksOk := by
  unfold Vol.copyReadNext
  try dsimp only
  repeat' (first | (simp (maxDischargeDepth := 40) [hs, apply_ite Vol.stacksOk]; done) | split)

@[simp] theorem Vol.stacksOk_copyAdvance (b : Battery) (r : ReqId) (v : Vol) (hs : v.stacksOk) : (Vol.copyAdvance b r v).stacksOk := by
  unfold Vol.copyAdvance
  split
  · exact hs
  · next q _ =>
    split
    · exact hs
    · next c side hc =>
      have h1 : ∀ p : Nat × Nat, (v.modSched q.drive (fun s => { s with cursor := some p })).stacksOk := by
        intro p
        refine Vol.stacksOk_modSched v _ _ hs (Scheduler.stackOk_of_sublist (hs _) (List.Sublist.refl _) ?_)
        unfold Scheduler.depth
        simp [hc]
      dsimp only
      split
      · simp (maxDischargeDepth := 40) [h1]
      · split <;> simp (maxDischargeDepth := 40) [h1]

@[simp] theorem Vol.stacksOk_copyWriteNext (b : Battery) (r : ReqId) (o : Order) (v : Vol) (hs : v.stacksOk) : (Vol.copyWriteNext b r o v).stacksOk := by
  unfold Vol.copyWriteNext
  try dsimp only
  repeat' (first | (simp (maxDischargeDepth := 40) [hs, apply_ite Vol.stacksOk]; done) | split)

@[simp] theorem Vol.stacksOk_setEnding (r : ReqId) (oc : OutcomeCode) (v : Vol) (hs : v.stacksOk) : (Vol.setEnding r oc v).stacksOk := by
  unfold Vol.setEnding
  try dsimp only
  repeat' (first | (simp (maxDischargeDepth := 40) [hs, apply_ite Vol.stacksOk]; done) | split)

@[simp] theorem Vol.stacksOk_endWithOrder (r : ReqId) (oc : OutcomeCode) (direct : Bool) (v : Vol) (hs : v.stacksOk) : (Vol.endWithOrder r oc direct v).stacksOk := by
  unfold Vol.endWithOrder
  try dsimp only
  repeat' (first | (simp (maxDischargeDepth := 40) [hs, apply_ite Vol.stacksOk]; done) | split)

@[simp] theorem Vol.stacksOk_copyStops (b : Battery) (r : ReqId) (oc : OutcomeCode) (direct : Bool) (v : Vol) (hs : v.stacksOk) : (Vol.copyStops b r oc direct v).stacksOk := by
  unfold Vol.copyStops
  try dsimp only
  repeat' (first | (simp (maxDischargeDepth := 40) [hs, apply_ite Vol.stacksOk]; done) | split)

@[simp] theorem Vol.stacksOk_cancelRequest (b : Battery) (r : ReqId) (v : Vol) (hs : v.stacksOk) : (Vol.cancelRequest b r v).stacksOk := by
  unfold Vol.cancelRequest
  try dsimp only
  repeat' (first | (simp (maxDischargeDepth := 40) [hs, apply_ite Vol.stacksOk]; done) | split)

@[simp] theorem Vol.stacksOk_fetchOrderDone (b : Battery) (r : ReqId) (v : Vol) (hs : v.stacksOk) : (Vol.fetchOrderDone b r v).stacksOk := by
  unfold Vol.fetchOrderDone
  try dsimp only
  repeat' (first | (simp (maxDischargeDepth := 40) [hs, apply_ite Vol.stacksOk]; done) | split)

@[simp] theorem Vol.stacksOk_writeOrderDone (b : Battery) (r : ReqId) (o : Order) (v : Vol) (hs : v.stacksOk) : (Vol.writeOrderDone b r o v).stacksOk := by
  unfold Vol.writeOrderDone
  try dsimp only
  repeat' (first | (simp (maxDischargeDepth := 40) [hs, apply_ite Vol.stacksOk]; done) | split)

@[simp] theorem Vol.stacksOk_respond (b : Battery) (o : Order) (oc : OutcomeCode) (v : Vol) (hs : v.stacksOk) : (Vol.respond b o oc v).stacksOk := by
  unfold Vol.respond
  try dsimp only
  repeat' (first | (simp (maxDischargeDepth := 40) [hs, apply_ite Vol.stacksOk]; done) | split)

@[simp] theorem Vol.stacksOk_orderEnd (b : Battery) (d : DriveNo) (oc : OutcomeCode) (v : Vol) (hs : v.stacksOk) : (Vol.orderEnd b d oc v).stacksOk := by
  unfold Vol.orderEnd
  try dsimp only
  repeat' (first | (simp (maxDischargeDepth := 40) [hs, apply_ite Vol.stacksOk]; done) | split)

@[simp] theorem Vol.stacksOk_modService (v : Vol) (d : DriveNo) (f : Order → Order) (hs : v.stacksOk)
    (hf : ∀ o, (f o).cls = o.cls) : (v.modService d f).stacksOk := by
  refine Vol.stacksOk_modSched v d _ hs ⟨(hs d).1, ?_⟩
  have := (hs d).2
  cases e : (v.drive d).sched.service with
  | none => simpa [e] using this
  | some o => simpa [e, hf] using this


@[simp] theorem Vol.stacksOk_setPhase (v : Vol) (d : DriveNo) (p : Phase) (hs : v.stacksOk) : (Vol.setPhase v d p).stacksOk := by
  unfold Vol.setPhase
  try dsimp only
  repeat' (first | (simp (maxDischargeDepth := 40) [hs, apply_ite Vol.stacksOk]; done) | split)

@[simp] theorem Vol.stacksOk_composeFor (o : Order) (d : DriveNo) (v : Vol) (hs : v.stacksOk) : (Vol.composeFor o d v).stacksOk := by
  unfold Vol.composeFor
  try dsimp only
  repeat' (first | (simp (maxDischargeDepth := 40) [hs, apply_ite Vol.stacksOk]; done) | split)

@[simp] theorem Vol.stacksOk_decidePending (d : DriveNo) (o : Order) (v : Vol) (hs : v.stacksOk) : (Vol.decidePending d o v).stacksOk := by
  unfold Vol.decidePending
  split
  · simp (maxDischargeDepth := 40) [hs]
  · split
    · simp (maxDischargeDepth := 40) [hs]
    · split
      · next hd => exact Vol.stacksOk_push v d hs hd
      · simp [hs]

@[simp] theorem Vol.stacksOk_passEnd (b : Battery) (d : DriveNo) (o : Order) (v : Vol) (hs : v.stacksOk) : (Vol.passEnd b d o v).stacksOk := by
  unfold Vol.passEnd
  try dsimp only
  repeat' (first | (simp (maxDischargeDepth := 40) [hs, apply_ite Vol.stacksOk]; done) | split)

@[simp] theorem Vol.stacksOk_boundary (b : Battery) (d : DriveNo) (v : Vol) (hs : v.stacksOk) : (Vol.boundary b d v).stacksOk := by
  unfold Vol.boundary
  try dsimp only
  repeat' (first | (simp (maxDischargeDepth := 40) [hs, apply_ite Vol.stacksOk]; done) | split)

@[simp] theorem Vol.stacksOk_sectorCompleted (b : Battery) (d : DriveNo) (o : Order) (v : Vol) (hs : v.stacksOk) : (Vol.sectorCompleted b d o v).stacksOk := by
  unfold Vol.sectorCompleted
  try dsimp only
  repeat' (first | (simp (maxDischargeDepth := 40) [hs, apply_ite Vol.stacksOk]; done) | split)

@[simp] theorem Vol.stacksOk_nextAttempt (b : Battery) (d : DriveNo) (t : Tries) (v : Vol) (hs : v.stacksOk) : (Vol.nextAttempt b d t v).stacksOk := by
  unfold Vol.nextAttempt
  try dsimp only
  repeat' (first | (simp (maxDischargeDepth := 40) [hs, apply_ite Vol.stacksOk]; done) | split)

@[simp] theorem Vol.stacksOk_attemptFailed (b : Battery) (d : DriveNo) (o : Order) (bad mispositioned : Bool) (v : Vol) (hs : v.stacksOk) : (Vol.attemptFailed b d o bad mispositioned v).stacksOk := by
  unfold Vol.attemptFailed
  try dsimp only
  repeat' (first | (simp (maxDischargeDepth := 40) [hs, apply_ite Vol.stacksOk]; done) | split)

@[simp] theorem Vol.stacksOk_readBad (o : Order) (f : FieldRead) (v : Vol) (hs : v.stacksOk) : (v.readBad o f).stacksOk := by
  refine Vol.stacksOk_drives hs ?_
  unfold Vol.readBad
  split <;> rfl

@[simp] theorem Vol.stacksOk_orderTransferEnd (b : Battery) (d : DriveNo) (o : Order) (f : FieldRead) (v : Vol) (hs : v.stacksOk) : (Vol.orderTransferEnd b d o f v).stacksOk := by
  unfold Vol.orderTransferEnd
  try dsimp only
  repeat' (first | (simp (maxDischargeDepth := 40) [hs, apply_ite Vol.stacksOk]; done) | split)

@[simp] theorem Vol.stacksOk_suspect (d : DriveNo) (o : Order) (failed : List Nat) (v : Vol) (hs : v.stacksOk) : (Vol.suspect d o failed v).stacksOk := by
  unfold Vol.suspect
  try dsimp only
  repeat' (first | (simp (maxDischargeDepth := 40) [hs, apply_ite Vol.stacksOk]; done) | split)

@[simp] theorem Vol.stacksOk_verifyRound (b : Battery) (d : DriveNo) (o : Order) (w : VerifyWork) (v : Vol) (hs : v.stacksOk) : (Vol.verifyRound b d o w v).stacksOk := by
  unfold Vol.verifyRound
  try dsimp only
  repeat' (first | (simp (maxDischargeDepth := 40) [hs, apply_ite Vol.stacksOk]; done) | split)

@[simp] theorem Vol.stacksOk_suspectCut (d : DriveNo) (o : Order) (w : VerifyWork) (v : Vol) (hs : v.stacksOk) : (Vol.suspectCut d o w v).stacksOk := by
  unfold Vol.suspectCut
  try dsimp only
  repeat' (first | (simp (maxDischargeDepth := 40) [hs, apply_ite Vol.stacksOk]; done) | split)

@[simp] theorem Vol.stacksOk_verifyEnd (b : Battery) (d : DriveNo) (o : Order) (w : VerifyWork) (f : FieldRead) (v : Vol) (hs : v.stacksOk) : (Vol.verifyEnd b d o w f v).stacksOk := by
  unfold Vol.verifyEnd
  try dsimp only
  repeat' (first | (simp (maxDischargeDepth := 40) [hs, apply_ite Vol.stacksOk]; done) | split)

@[simp] theorem Vol.stacksOk_loadingEnd (d : DriveNo) (m : MountState) (mirror : Option Mirror) (v : Vol) (hs : v.stacksOk) : (Vol.loadingEnd d m mirror v).stacksOk := by
  unfold Vol.loadingEnd
  try dsimp only
  repeat' (first | (simp (maxDischargeDepth := 40) [hs, apply_ite Vol.stacksOk]; done) | split)

@[simp] theorem Vol.stacksOk_setLoad (v : Vol) (d : DriveNo) (l : LoadWork) (hs : v.stacksOk) : (Vol.setLoad v d l).stacksOk := by
  unfold Vol.setLoad
  try dsimp only
  repeat' (first | (simp (maxDischargeDepth := 40) [hs, apply_ite Vol.stacksOk]; done) | split)

@[simp] theorem Vol.stacksOk_loadNext (b : Battery) (d : DriveNo) (l : LoadWork) (v : Vol) (hs : v.stacksOk) : (Vol.loadNext b d l v).stacksOk := by
  unfold Vol.loadNext
  try dsimp only
  repeat' (first | (simp (maxDischargeDepth := 40) [hs, apply_ite Vol.stacksOk]; done) | split)

@[simp] theorem Vol.stacksOk_loadGood (b : Battery) (d : DriveNo) (l : LoadWork) (bs : List Byte) (v : Vol) (hs : v.stacksOk) : (Vol.loadGood b d l bs v).stacksOk := by
  unfold Vol.loadGood
  try dsimp only
  repeat' (first | (simp (maxDischargeDepth := 40) [hs, apply_ite Vol.stacksOk]; done) | split)

@[simp] theorem Vol.stacksOk_loadFailed (b : Battery) (d : DriveNo) (l : LoadWork) (bad mispositioned : Bool) (v : Vol) (hs : v.stacksOk) : (Vol.loadFailed b d l bad mispositioned v).stacksOk := by
  unfold Vol.loadFailed
  try dsimp only
  repeat' (first | (simp (maxDischargeDepth := 40) [hs, apply_ite Vol.stacksOk]; done) | split)

@[simp] theorem Vol.stacksOk_setUnit (v : Vol) (d : DriveNo) (u : UnitWork) (hs : v.stacksOk) : (Vol.setUnit v d u).stacksOk := by
  unfold Vol.setUnit
  try dsimp only
  repeat' (first | (simp (maxDischargeDepth := 40) [hs, apply_ite Vol.stacksOk]; done) | split)

@[simp] theorem Vol.stacksOk_trackStart (d : DriveNo) (v : Vol) (hs : v.stacksOk) : (Vol.trackStart d v).stacksOk := by
  unfold Vol.trackStart
  try dsimp only
  repeat' (first | (simp (maxDischargeDepth := 40) [hs, apply_ite Vol.stacksOk]; done) | split)

@[simp] theorem Vol.stacksOk_invalidateEnd (b : Battery) (d : DriveNo) (u : UnitWork) (v : Vol) (hs : v.stacksOk) : (Vol.invalidateEnd b d u v).stacksOk := by
  unfold Vol.invalidateEnd
  try dsimp only
  repeat' (first | (simp (maxDischargeDepth := 40) [hs, apply_ite Vol.stacksOk]; done) | split)

@[simp] theorem Vol.stacksOk_unitWrite (d : DriveNo) (u : UnitWork) (found : Bool) (n : Nat) (v : Vol) (hs : v.stacksOk) : (Vol.unitWrite d u found n v).stacksOk := by
  unfold Vol.unitWrite
  try dsimp only
  repeat' (first | (simp (maxDischargeDepth := 40) [hs, apply_ite Vol.stacksOk]; done) | split)

@[simp] theorem Vol.stacksOk_unitSectorDone (b : Battery) (d : DriveNo) (u : UnitWork) (verify : Bool) (v : Vol) (hs : v.stacksOk) : (Vol.unitSectorDone b d u verify v).stacksOk := by
  unfold Vol.unitSectorDone
  try dsimp only
  repeat' (first | (simp (maxDischargeDepth := 40) [hs, apply_ite Vol.stacksOk]; done) | split)

@[simp] theorem Vol.stacksOk_unitWriteEnd (b : Battery) (d : DriveNo) (u : UnitWork) (found : Bool) (v : Vol) (hs : v.stacksOk) : (Vol.unitWriteEnd b d u found v).stacksOk := by
  unfold Vol.unitWriteEnd
  try dsimp only
  repeat' (first | (simp (maxDischargeDepth := 40) [hs, apply_ite Vol.stacksOk]; done) | split)

@[simp] theorem Vol.stacksOk_labelFails (d : DriveNo) (u : UnitWork) (n : Nat) (v : Vol) (hs : v.stacksOk) : (Vol.labelFails d u n v).stacksOk := by
  unfold Vol.labelFails
  try dsimp only
  repeat' (first | (simp (maxDischargeDepth := 40) [hs, apply_ite Vol.stacksOk]; done) | split)

@[simp] theorem Vol.stacksOk_unitVerifyEnd (b : Battery) (d : DriveNo) (u : UnitWork) (found : Bool) (f : FieldRead) (v : Vol) (hs : v.stacksOk) : (Vol.unitVerifyEnd b d u found f v).stacksOk := by
  unfold Vol.unitVerifyEnd
  try dsimp only
  repeat' (first | (simp (maxDischargeDepth := 40) [hs, apply_ite Vol.stacksOk]; done) | split)

@[simp] theorem Vol.stacksOk_trackUnitEnd (b : Battery) (d : DriveNo) (u : UnitWork) (n : Nat) (v : Vol) (hs : v.stacksOk) : (Vol.trackUnitEnd b d u n v).stacksOk := by
  unfold Vol.trackUnitEnd
  try dsimp only
  repeat' (first | (simp (maxDischargeDepth := 40) [hs, apply_ite Vol.stacksOk]; done) | split)

@[simp] theorem Vol.stacksOk_formatUnitEnd (b : Battery) (d : DriveNo) (u : UnitWork) (v : Vol) (hs : v.stacksOk) : (Vol.formatUnitEnd b d u v).stacksOk := by
  unfold Vol.formatUnitEnd
  try dsimp only
  repeat' (first | (simp (maxDischargeDepth := 40) [hs, apply_ite Vol.stacksOk]; done) | split)

@[simp] theorem Vol.stacksOk_copyOpened (b : Battery) (d : DriveNo) (u : UnitWork) (v : Vol) (hs : v.stacksOk) : (Vol.copyOpened b d u v).stacksOk := by
  unfold Vol.copyOpened
  try dsimp only
  repeat' (first | (simp (maxDischargeDepth := 40) [hs, apply_ite Vol.stacksOk]; done) | split)

@[simp] theorem Vol.stacksOk_copyCatalogEnd (b : Battery) (d : DriveNo) (u : UnitWork) (half : Nat) (v : Vol) (hs : v.stacksOk) : (Vol.copyCatalogEnd b d u half v).stacksOk := by
  unfold Vol.copyCatalogEnd
  try dsimp only
  repeat' (first | (simp (maxDischargeDepth := 40) [hs, apply_ite Vol.stacksOk]; done) | split)

@[simp] theorem Vol.stacksOk_copyLabelEnd (b : Battery) (u : UnitWork) (v : Vol) (hs : v.stacksOk) : (Vol.copyLabelEnd b u v).stacksOk := by
  unfold Vol.copyLabelEnd
  try dsimp only
  repeat' (first | (simp (maxDischargeDepth := 40) [hs, apply_ite Vol.stacksOk]; done) | split)

@[simp] theorem Vol.stacksOk_orderReady (b : Battery) (d : DriveNo) (o : Order) (v : Vol) (hs : v.stacksOk) : (Vol.orderReady b d o v).stacksOk := by
  unfold Vol.orderReady
  try dsimp only
  repeat' (first | (simp (maxDischargeDepth := 40) [hs, apply_ite Vol.stacksOk]; done) | split)

@[simp] theorem Vol.stacksOk_beginWork (b : Battery) (d : DriveNo) (v : Vol) (hs : v.stacksOk) : (Vol.beginWork b d v).stacksOk := by
  unfold Vol.beginWork
  try dsimp only
  repeat' (first | (simp (maxDischargeDepth := 40) [hs, apply_ite Vol.stacksOk]; done) | split)

@[simp] theorem Vol.stacksOk_zeroFill (worked : List Nat) (xs : List BufNo) (k : Nat) (v : Vol) (hs : v.stacksOk) : (Vol.zeroFill worked xs k v).stacksOk := by
  induction xs generalizing k v with
  | nil => exact hs
  | cons x xs ih =>
    rw [Vol.zeroFill]
    refine ih _ _ ?_
    split <;> simp (maxDischargeDepth := 40) [hs]

@[simp] theorem Vol.stacksOk_takeFor (o : Order) (v : Vol) (h : v.stacksOk) : (v.takeFor o).2.stacksOk := by
  unfold Vol.takeFor
  repeat' (first | (simp (maxDischargeDepth := 40) [h]; done) | split)

theorem Vol.drives_takeBufs (v : Vol) (r : ReqId) (n : Nat) : (v.takeBufs r n).2.drives = v.drives := by
  induction n generalizing v with
  | zero => rfl
  | succ n ih =>
    unfold Vol.takeBufs
    split
    · rfl
    · next e =>
      refine (ih _).trans ?_
      unfold Vol.takeBuf at e
      split at e <;> cases e
      rfl

theorem Vol.drives_zeroFill (worked : List Nat) (xs : List BufNo) (k : Nat) (v : Vol) :
    (v.zeroFill worked xs k).drives = v.drives := by
  induction xs generalizing k v with
  | nil => rfl
  | cons x xs ih =>
    rw [Vol.zeroFill, ih]
    split <;> rfl

theorem Vol.drives_takeFor (o : Order) (v : Vol) : (v.takeFor o).2.drives = v.drives := by
  unfold Vol.takeFor
  repeat' split
  all_goals first
    | rfl
    | exact Vol.drives_takeBufs ..
    | exact (Vol.drives_zeroFill ..).trans (Vol.drives_takeBufs ..)

theorem Vol.cls_takeFor (o : Order) (v : Vol) : (v.takeFor o).1.cls = o.cls := by
  unfold Vol.takeFor
  repeat' split
  all_goals rfl

@[simp] theorem Vol.stacksOk_startOrder (b : Battery) (d : DriveNo) (o : Order) (v : Vol) (hs : v.stacksOk) : (Vol.startOrder b d o v).stacksOk := by
  unfold Vol.startOrder
  try dsimp only
  repeat' (first | (simp (maxDischargeDepth := 40) [hs, apply_ite Vol.stacksOk]; done) | split)

theorem Vol.stacksOk_placeInService (b : Battery) (d : DriveNo) (o : Order) (v : Vol) (hs : v.stacksOk)
    (ho : ∀ p ∈ (v.drive d).sched.stack, p.cls.rank < o.cls.rank) : (v.placeInService b d o).stacksOk := by
  unfold Vol.placeInService
  have e : (v.takeFor o).2.drive d = v.drive d := by
    unfold Vol.drive
    rw [Vol.drives_takeFor]
  have h1 : ((v.takeFor o).2.modSched d (fun s =>
      { s with service := some { (v.takeFor o).1 with sampled := false }, pending := false })).stacksOk := by
    refine Vol.stacksOk_modSched _ d _ (Vol.stacksOk_takeFor o v hs) ?_
    rw [e]
    refine ⟨(hs d).1, ?_⟩
    have h2 := (hs d).2
    simp only [List.map_append, List.pairwise_append] at h2 ⊢
    refine ⟨h2.1, by simp, fun m hm n hn => ?_⟩
    obtain ⟨p, hp, rfl⟩ := List.mem_map.mp hm
    simp only [Option.toList_some, List.map_cons, List.map_nil, List.mem_singleton, Vol.cls_takeFor] at hn
    rw [hn]
    exact ho p hp
  dsimp only
  split <;> simp (maxDischargeDepth := 40) [h1]


theorem Vol.stacksOk_resume (b : Battery) (d : DriveNo) (o : Order) (v : Vol) (hs : v.stacksOk)
    (ho : (v.drive d).sched.stack.getLast? = some o) : (v.resume b d o).stacksOk := by
  obtain ⟨l, hl⟩ := List.getLast?_eq_some_iff.mp ho
  have h2 := (hs d).2
  unfold Vol.resume
  refine Vol.stacksOk_placeInService b d o _ ?_ ?_
  · refine Vol.stacksOk_modSched v d _ hs (Scheduler.stackOk_of_sublist (hs d) ?_ ?_)
    · exact (((List.dropLast_sublist _).append (List.Sublist.refl _)).map _)
    · unfold Scheduler.depth
      simp only [List.length_dropLast]
      omega
  · rw [Vol.drive_modSched_self]
    dsimp only
    rw [hl, List.dropLast_concat]
    intro p hp
    rw [hl] at h2
    simp only [List.map_append, List.pairwise_append] at h2
    exact h2.1.2.2 _ (List.mem_map_of_mem hp) _ (by simp)


theorem leastCost_mem {cost : Order → Nat} {l : List Order} {o : Order} (h : leastCost cost l = some o) : o ∈ l := by
  induction l generalizing o with
  | nil => cases h
  | cons x l ih =>
    unfold leastCost at h
    split at h
    · cases h
      exact List.mem_cons_self
    · next p hp =>
      split at h
      · cases h
        exact List.mem_cons_of_mem _ (ih hp)
      · cases h
        exact List.mem_cons_self

theorem chooseOrder_mem {cost : Order → Nat} {l : List Order} {o : Order} (h : chooseOrder cost l = some o) : o ∈ l := by
  unfold chooseOrder at h
  split at h
  · next p hp =>
    cases h
    exact List.mem_of_find?_eq_some hp
  · exact leastCost_mem h

theorem Vol.stacksOk_choose (b : Battery) (d : DriveNo) (es : List Order) (v : Vol) (hs : v.stacksOk)
    (he : ∀ p ∈ (v.drive d).sched.stack, p.cls.rank < topRank es) : (v.choose b d es).stacksOk := by
  unfold Vol.choose
  dsimp only
  split
  · exact hs
  · next o ho =>
    have hm := chooseOrder_mem ho
    rw [List.mem_filter, beq_iff_eq] at hm
    refine Vol.stacksOk_placeInService b d o _ (Vol.stacksOk_queue v d _ hs) ?_
    rw [Vol.drive_modSched_self, hm.2]
    exact he


@[simp] theorem Vol.stacksOk_select (b : Battery) (d : DriveNo) (v : Vol) (hs : v.stacksOk) :
    (v.select b d).stacksOk := by
  unfold Vol.select
  dsimp only
  split
  · next hn =>
    refine Vol.stacksOk_choose b d _ v hs ?_
    rw [List.getLast?_eq_none_iff] at hn
    rw [hn]
    exact fun p hp => absurd hp (by simp)
  · next o ho =>
    split
    · exact Vol.stacksOk_resume b d o v hs ho
    · next hq =>
      simp only [Bool.or_eq_true, decide_eq_true_eq, not_or, Nat.not_le] at hq
      refine Vol.stacksOk_choose b d _ v hs (fun p hp => ?_)
      obtain ⟨l, hl⟩ := List.getLast?_eq_some_iff.mp ho
      have h2 := (hs d).2
      rw [hl] at h2 hp
      simp only [List.map_append, List.pairwise_append] at h2
      rcases List.mem_append.mp hp with hp | hp
      · exact Nat.lt_trans (h2.1.2.2 _ (List.mem_map_of_mem hp) o.cls.rank (by simp)) hq.2
      · rw [List.mem_singleton] at hp
        rw [hp]
        exact hq.2


@[simp] theorem Vol.stacksOk_preempt (b : Battery) (d : DriveNo) (v : Vol) (hs : v.stacksOk) : (Vol.preempt b d v).stacksOk := by
  unfold Vol.preempt
  try dsimp only
  repeat' (first | (simp (maxDischargeDepth := 40) [hs, apply_ite Vol.stacksOk]; done) | split)

@[simp] theorem Vol.stacksOk_place (v : Vol) (k : Line) (body : List Byte) (mark : Mark) (hs : v.stacksOk) : (Vol.place v k body mark).stacksOk := Vol.stacksOk_drives hs rfl

@[simp] theorem Vol.stacksOk_dropReply (v : Vol) (k : Line) (hs : v.stacksOk) : (Vol.dropReply v k).stacksOk := Vol.stacksOk_drives hs rfl

@[simp] theorem Vol.stacksOk_placeListing (v : Vol) (k : Line) (w : Waiting) (tag : Byte) (records : List (List Byte)) (total : Nat) (hs : v.stacksOk) : (Vol.placeListing v k w tag records total).stacksOk := by
  unfold Vol.placeListing
  try dsimp only
  repeat' (first | (simp (maxDischargeDepth := 40) [hs, apply_ite Vol.stacksOk]; done) | split)

@[simp] theorem Vol.stacksOk_placeReply (v : Vol) (k : Line) (w : Waiting) (src : Option ReqId) (hs : v.stacksOk) : (Vol.placeReply v k w src).stacksOk := by
  unfold Vol.placeReply
  try dsimp only
  repeat' (first | (simp (maxDischargeDepth := 40) [hs, apply_ite Vol.stacksOk]; done) | split)

@[simp] theorem Vol.stacksOk_placeNotice (v : Vol) (k : Line) (hs : v.stacksOk) : (Vol.placeNotice v k).stacksOk := by
  unfold Vol.placeNotice
  try dsimp only
  repeat' (first | (simp (maxDischargeDepth := 40) [hs, apply_ite Vol.stacksOk]; done) | split)

@[simp] theorem Vol.stacksOk_placeText (v : Vol) (k : Line) (r : ReqId) (hs : v.stacksOk) : (Vol.placeText v k r).stacksOk := by
  unfold Vol.placeText
  try dsimp only
  repeat' (first | (simp (maxDischargeDepth := 40) [hs, apply_ite Vol.stacksOk]; done) | split)

@[simp] theorem Vol.stacksOk_meet (b : Battery) (c : Claim) (v : Vol) (hs : v.stacksOk) : (Vol.meet b c v).stacksOk := by
  unfold Vol.meet
  try dsimp only
  repeat' (first | (simp (maxDischargeDepth := 40) [hs, apply_ite Vol.stacksOk]; done) | split)

@[simp] theorem Vol.stacksOk_spoilUnit (d : DriveNo) (u : UnitWork) (n : Nat) (v : Vol) (hs : v.stacksOk) : (Vol.spoilUnit d u n v).stacksOk := by
  unfold Vol.spoilUnit
  try dsimp only
  repeat' (first | (simp (maxDischargeDepth := 40) [hs, apply_ite Vol.stacksOk]; done) | split)

@[simp] theorem Vol.stacksOk_spoil (d : DriveNo) (v : Vol) (hs : v.stacksOk) : (Vol.spoil d v).stacksOk := by
  unfold Vol.spoil
  try dsimp only
  repeat' (first | (simp (maxDischargeDepth := 40) [hs, apply_ite Vol.stacksOk]; done) | split)

@[simp] theorem Vol.stacksOk_discardMirror (d : DriveNo) (v : Vol) (hs : v.stacksOk) : (Vol.discardMirror d v).stacksOk := by
  unfold Vol.discardMirror
  try dsimp only
  repeat' (first | (simp (maxDischargeDepth := 40) [hs, apply_ite Vol.stacksOk]; done) | split)

@[simp] theorem Vol.stacksOk_copyLingers (r : ReqId) (q : Request) (oc : OutcomeCode) (v : Vol) (hs : v.stacksOk) : (Vol.copyLingers r q oc v).stacksOk := by
  unfold Vol.copyLingers
  try dsimp only
  repeat' (first | (simp (maxDischargeDepth := 40) [hs, apply_ite Vol.stacksOk]; done) | split)

@[simp] theorem Vol.stacksOk_stopCatalogUnit (b : Battery) (r : ReqId) (q : Request) (oc : OutcomeCode) (v : Vol) (hs : v.stacksOk) : (Vol.stopCatalogUnit b r q oc v).stacksOk := by
  unfold Vol.stopCatalogUnit
  try dsimp only
  repeat' (first | (simp (maxDischargeDepth := 40) [hs, apply_ite Vol.stacksOk]; done) | split)

@[simp] theorem Vol.stacksOk_discardCopy (b : Battery) (r : ReqId) (q : Request) (held : Bool) (oc : OutcomeCode) (v : Vol) (hs : v.stacksOk) : (Vol.discardCopy b r q held oc v).stacksOk := by
  unfold Vol.discardCopy
  try dsimp only
  repeat' (first | (simp (maxDischargeDepth := 40) [hs, apply_ite Vol.stacksOk]; done) | split)

@[simp] theorem Vol.stacksOk_loseDest (d : DriveNo) (r : ReqId) (v : Vol) (hs : v.stacksOk) : (Vol.loseDest d r v).stacksOk := by
  unfold Vol.loseDest
  try dsimp only
  repeat' (first | (simp (maxDischargeDepth := 40) [hs, apply_ite Vol.stacksOk]; done) | split)

@[simp] theorem Vol.stacksOk_discardRequest (b : Battery) (d : DriveNo) (x : Drive) (oc : OutcomeCode) (r : ReqId) (v : Vol) (hs : v.stacksOk) : (Vol.discardRequest b d x oc r v).stacksOk := by
  unfold Vol.discardRequest
  try dsimp only
  repeat' (first | (simp (maxDischargeDepth := 40) [hs, apply_ite Vol.stacksOk]; done) | split)

@[simp] theorem Vol.stacksOk_discard (b : Battery) (d : DriveNo) (m : MountState) (oc : OutcomeCode) (v : Vol)
    (hs : v.stacksOk) : (v.discard b d m oc).stacksOk := by
  unfold Vol.discard
  dsimp only
  generalize v.drive d = x
  refine Vol.stacksOk_driveChange _ _ (Vol.stacksOk_foldl _ (fun w r hw => Vol.stacksOk_discardRequest _ _ _ _ _ _ hw) _ _ ?_)
  have h1 : (((v.spoil d).discardMirror d).modSeq d (Sequencer.discard m)).stacksOk := by
    simp (maxDischargeDepth := 40) [hs]
  exact Vol.stacksOk_modSched _ d _ h1 ⟨Nat.zero_le _, by simp [Scheduler.discard]⟩


@[simp] theorem Vol.stacksOk_resetBlocks (b : Battery) (v : Vol) (hs : v.stacksOk) : (v.resetBlocks b).stacksOk := by
  unfold Vol.resetBlocks
  dsimp only
  have h1 : (allDrives.foldl (fun (w : Vol) d => w.spoil d) v).stacksOk :=
    Vol.stacksOk_foldl _ (fun w d hw => Vol.stacksOk_spoil d w hw) _ _ hs
  revert h1
  generalize allDrives.foldl (fun (w : Vol) d => w.spoil d) v = w
  intro h1
  have h2 : (allLines.foldl (fun (w : Vol) k => w.modPort k (fun _ => Port.afterReset (b.rate k))) w).stacksOk :=
    Vol.stacksOk_foldl _ (fun w k hw => Vol.stacksOk_modPort w k _ hw) _ _ h1
  revert h2
  generalize allLines.foldl (fun (w : Vol) k => w.modPort k (fun _ => Port.afterReset (b.rate k))) w = u
  intro h2
  have h3 : (allDrives.foldl (fun (w : Vol) d => w.modDrive d (fun x => Drive.afterReset x.cable)) u).stacksOk :=
    Vol.stacksOk_foldl _ (fun w d hw => Vol.stacksOk_modDrive w d _ hw
      ⟨by show Scheduler.depth Scheduler.afterReset ≤ _; decide, by show List.Pairwise _ []; exact List.Pairwise.nil⟩) _ _ h2
  exact Vol.stacksOk_drives h3 rfl


@[simp] theorem stacksOk_generalReset (b : Battery) (v : Vol) (hs : v.stacksOk) : (generalReset b v).2.stacksOk :=
  Vol.stacksOk_resetBlocks b v hs


@[simp] theorem Vol.stacksOk_say (k : Line) (tag : Byte) (oc : OutcomeCode) (v : Vol) (hs : v.stacksOk) : (Vol.say k tag oc v).stacksOk := by
  unfold Vol.say
  try dsimp only
  repeat' (first | (simp (maxDischargeDepth := 40) [hs, apply_ite Vol.stacksOk]; done) | split)

@[simp] theorem Vol.stacksOk_openRequest (v : Vol) (r : ReqId) (q : Request) (hs : v.stacksOk) : (Vol.openRequest v r q).stacksOk := by
  unfold Vol.openRequest
  try dsimp only
  repeat' (first | (simp (maxDischargeDepth := 40) [hs, apply_ite Vol.stacksOk]; done) | split)

@[simp] theorem Vol.stacksOk_admitFetch (b : Battery) (k : Line) (tag : Byte) (kind : ReqKind) (f : StoryFields) (r : ReqId) (slot : Nat) (writing : Bool) (v : Vol) (hs : v.stacksOk) : (Vol.admitFetch b k tag kind f r slot writing v).stacksOk := by
  unfold Vol.admitFetch
  try dsimp only
  repeat' (first | (simp (maxDischargeDepth := 40) [hs, apply_ite Vol.stacksOk]; done) | split)

@[simp] theorem Vol.stacksOk_fetchLookup (b : Battery) (k : Line) (tag : Byte) (f : StoryFields) (r : ReqId) (v : Vol) (hs : v.stacksOk) : (Vol.fetchLookup b k tag f r v).stacksOk := by
  unfold Vol.fetchLookup
  try dsimp only
  repeat' (first | (simp (maxDischargeDepth := 40) [hs, apply_ite Vol.stacksOk]; done) | split)

@[simp] theorem Vol.stacksOk_drawLookup (b : Battery) (k : Line) (tag : Byte) (f : StoryFields) (r : ReqId) (v : Vol) (hs : v.stacksOk) : (Vol.drawLookup b k tag f r v).stacksOk := by
  unfold Vol.drawLookup
  try dsimp only
  repeat' (first | (simp (maxDischargeDepth := 40) [hs, apply_ite Vol.stacksOk]; done) | split)

@[simp] theorem Vol.stacksOk_takeFetch (b : Battery) (k : Line) (tag drive cls edition : Byte) (slug : List Byte) (v : Vol) (hs : v.stacksOk) : (Vol.takeFetch b k tag drive cls edition slug v).stacksOk := by
  unfold Vol.takeFetch Vol.readChecks
  repeat' (first | (simp (maxDischargeDepth := 40) [hs]; done) | split)

@[simp] theorem Vol.stacksOk_takeDraw (b : Battery) (k : Line) (tag drive cls edition : Byte) (slug : List Byte) (v : Vol) (hs : v.stacksOk) : (Vol.takeDraw b k tag drive cls edition slug v).stacksOk := by
  unfold Vol.takeDraw Vol.readChecks
  repeat' (first | (simp (maxDischargeDepth := 40) [hs]; done) | split)

@[simp] theorem Vol.stacksOk_admitFile (b : Battery) (k : Line) (tag : Byte) (f : StoryFields) (r : ReqId) (slot : Nat) (reserved : Option (List Byte)) (v : Vol) (hs : v.stacksOk) : (Vol.admitFile b k tag f r slot reserved v).stacksOk := by
  unfold Vol.admitFile
  try dsimp only
  repeat' (first | (simp (maxDischargeDepth := 40) [hs, apply_ite Vol.stacksOk]; done) | split)

@[simp] theorem Vol.stacksOk_fileLookup (b : Battery) (k : Line) (tag : Byte) (f : StoryFields) (r : ReqId) (v : Vol) (hs : v.stacksOk) : (Vol.fileLookup b k tag f r v).stacksOk := by
  unfold Vol.fileLookup
  try dsimp only
  repeat' (first | (simp (maxDischargeDepth := 40) [hs, apply_ite Vol.stacksOk]; done) | split)

@[simp] theorem Vol.stacksOk_takeFile (b : Battery) (k : Line) (tag drive cls edition : Byte) (slug : List Byte) (v : Vol) (hs : v.stacksOk) : (Vol.takeFile b k tag drive cls edition slug v).stacksOk := by
  unfold Vol.takeFile Vol.writeChecks
  repeat' (first | (simp (maxDischargeDepth := 40) [hs]; done) | split)

@[simp] theorem Vol.stacksOk_admitSpike (b : Battery) (k : Line) (tag : Byte) (f : StoryFields) (r : ReqId) (slot : Nat) (v : Vol) (hs : v.stacksOk) : (Vol.admitSpike b k tag f r slot v).stacksOk := by
  unfold Vol.admitSpike
  try dsimp only
  repeat' (first | (simp (maxDischargeDepth := 40) [hs, apply_ite Vol.stacksOk]; done) | split)

@[simp] theorem Vol.stacksOk_spikeLookup (b : Battery) (k : Line) (tag : Byte) (f : StoryFields) (r : ReqId) (v : Vol) (hs : v.stacksOk) : (Vol.spikeLookup b k tag f r v).stacksOk := by
  unfold Vol.spikeLookup
  try dsimp only
  repeat' (first | (simp (maxDischargeDepth := 40) [hs, apply_ite Vol.stacksOk]; done) | split)

@[simp] theorem Vol.stacksOk_takeSpike (b : Battery) (k : Line) (tag drive cls : Byte) (slug : List Byte) (v : Vol) (hs : v.stacksOk) : (Vol.takeSpike b k tag drive cls slug v).stacksOk := by
  unfold Vol.takeSpike Vol.writeChecks
  repeat' (first | (simp (maxDischargeDepth := 40) [hs]; done) | split)

@[simp] theorem Vol.stacksOk_appendText (r : ReqId) (ses : Session) (bytes : List Byte) (v : Vol) (hs : v.stacksOk) : (Vol.appendText r ses bytes v).stacksOk := by
  unfold Vol.appendText
  dsimp only
  split
  · split
    · exact hs
    · next e =>
      have h' := Vol.stacksOk_takeBuf e hs
      simp (maxDischargeDepth := 40) [h']
  · split
    · simp (maxDischargeDepth := 40) [hs]
    · split
      · simp (maxDischargeDepth := 40) [hs]
      · split
        · simp (maxDischargeDepth := 40) [hs]
        · next e =>
          have h' := Vol.stacksOk_takeBuf e (by simp [hs])
          simp (maxDischargeDepth := 40) [h']

@[simp] theorem Vol.stacksOk_formIfFull (b : Battery) (r : ReqId) (direct : Bool) (v : Vol) (hs : v.stacksOk) : (Vol.formIfFull b r direct v).stacksOk := by
  unfold Vol.formIfFull
  try dsimp only
  repeat' (first | (simp (maxDischargeDepth := 40) [hs, apply_ite Vol.stacksOk]; done) | split)

@[simp] theorem Vol.stacksOk_fileText (b : Battery) (r : ReqId) (ses : Session) (bytes : List Byte) (v : Vol) (hs : v.stacksOk) : (Vol.fileText b r ses bytes v).stacksOk := by
  unfold Vol.fileText
  try dsimp only
  repeat' (first | (simp (maxDischargeDepth := 40) [hs, apply_ite Vol.stacksOk]; done) | split)

@[simp] theorem Vol.stacksOk_takeText (b : Battery) (k : Line) (tag : Byte) (bytes : List Byte) (v : Vol) (hs : v.stacksOk) : (Vol.takeText b k tag bytes v).stacksOk := by
  unfold Vol.takeText
  try dsimp only
  repeat' (first | (simp (maxDischargeDepth := 40) [hs, apply_ite Vol.stacksOk]; done) | split)

@[simp] theorem Vol.stacksOk_flushFill (r : ReqId) (ses : Session) (v : Vol) (hs : v.stacksOk) : (Vol.flushFill r ses v).stacksOk := by
  unfold Vol.flushFill
  try dsimp only
  repeat' (first | (simp (maxDischargeDepth := 40) [hs, apply_ite Vol.stacksOk]; done) | split)

@[simp] theorem Vol.stacksOk_closeOn (b : Battery) (r : ReqId) (v : Vol) (hs : v.stacksOk) : (Vol.closeOn b r v).stacksOk := by
  unfold Vol.closeOn
  try dsimp only
  repeat' (first | (simp (maxDischargeDepth := 40) [hs, apply_ite Vol.stacksOk]; done) | split)

@[simp] theorem Vol.stacksOk_takeClose (b : Battery) (k : Line) (tag keep : Byte) (v : Vol) (hs : v.stacksOk) : (Vol.takeClose b k tag keep v).stacksOk := by
  unfold Vol.takeClose
  try dsimp only
  repeat' (first | (simp (maxDischargeDepth := 40) [hs, apply_ite Vol.stacksOk]; done) | split)

@[simp] theorem Vol.stacksOk_takeRelease (k : Line) (tag drive : Byte) (slug : List Byte) (v : Vol) (hs : v.stacksOk) : (Vol.takeRelease k tag drive slug v).stacksOk := by
  unfold Vol.takeRelease
  try dsimp only
  repeat' (first | (simp (maxDischargeDepth := 40) [hs, apply_ite Vol.stacksOk]; done) | split)

@[simp] theorem Vol.stacksOk_takeList (b : Battery) (k : Line) (tag drive count : Byte) (pattern : List Byte) (v : Vol) (hs : v.stacksOk) : (Vol.takeList b k tag drive count pattern v).stacksOk := by
  unfold Vol.takeList
  try dsimp only
  repeat' (first | (simp (maxDischargeDepth := 40) [hs, apply_ite Vol.stacksOk]; done) | split)

@[simp] theorem Vol.stacksOk_takeCancel (b : Battery) (k : Line) (tag target : Byte) (v : Vol) (hs : v.stacksOk) : (Vol.takeCancel b k tag target v).stacksOk := by
  unfold Vol.takeCancel
  try dsimp only
  repeat' (first | (simp (maxDischargeDepth := 40) [hs, apply_ite Vol.stacksOk]; done) | split)

@[simp] theorem Vol.stacksOk_takeStatus (k : Line) (tag : Byte) (v : Vol) (hs : v.stacksOk) : (Vol.takeStatus k tag v).stacksOk := by
  unfold Vol.takeStatus
  try dsimp only
  repeat' (first | (simp (maxDischargeDepth := 40) [hs, apply_ite Vol.stacksOk]; done) | split)

@[simp] theorem Vol.stacksOk_takeTime (b : Battery) (k : Line) (tag : Byte) (v : Vol) (hs : v.stacksOk) : (Vol.takeTime b k tag v).stacksOk := by
  unfold Vol.takeTime
  try dsimp only
  repeat' (first | (simp (maxDischargeDepth := 40) [hs, apply_ite Vol.stacksOk]; done) | split)

@[simp] theorem Vol.stacksOk_takeDrive (b : Battery) (k : Line) (tag drive : Byte) (v : Vol) (hs : v.stacksOk) : (Vol.takeDrive b k tag drive v).stacksOk := by
  unfold Vol.takeDrive
  try dsimp only
  repeat' (first | (simp (maxDischargeDepth := 40) [hs, apply_ite Vol.stacksOk]; done) | split)

@[simp] theorem Vol.stacksOk_noteSet (i : Item) (value : Nat) (v : Vol) (hs : v.stacksOk) : (Vol.noteSet i value v).stacksOk := by
  unfold Vol.noteSet
  try dsimp only
  repeat' (first | (simp (maxDischargeDepth := 40) [hs, apply_ite Vol.stacksOk]; done) | split)

@[simp] theorem stacksOk_takeSet (k : Line) (tag item : Byte) (value : Word16) (b : Battery) (v : Vol) (hs : v.stacksOk) : (takeSet k tag item value b v).2.stacksOk := by
  unfold takeSet
  try dsimp only
  repeat' (first | (simp (maxDischargeDepth := 40) [hs, apply_ite Vol.stacksOk]; done) | split)

@[simp] theorem stacksOk_takeGet (k : Line) (tag item : Byte) (b : Battery) (v : Vol) (hs : v.stacksOk) : (takeGet k tag item b v).2.stacksOk := by
  unfold takeGet
  try dsimp only
  repeat' (first | (simp (maxDischargeDepth := 40) [hs, apply_ite Vol.stacksOk]; done) | split)

@[simp] theorem stacksOk_takeSettime (k : Line) (tag yy mm dd hh mi ss : Byte) (b : Battery) (v : Vol) (hs : v.stacksOk) : (takeSettime k tag yy mm dd hh mi ss b v).2.stacksOk := by
  unfold takeSettime
  try dsimp only
  repeat' (first | (simp (maxDischargeDepth := 40) [hs, apply_ite Vol.stacksOk]; done) | split)

@[simp] theorem stacksOk_takeTrim (k : Line) (tag : Byte) (value : Word16) (b : Battery) (v : Vol) (hs : v.stacksOk) : (takeTrim k tag value b v).2.stacksOk := by
  unfold takeTrim
  try dsimp only
  repeat' (first | (simp (maxDischargeDepth := 40) [hs, apply_ite Vol.stacksOk]; done) | split)

@[simp] theorem Vol.stacksOk_promoteOn (warned : Byte) (v : Vol) (d : DriveNo) (hs : v.stacksOk) :
    (v.promoteOn warned d).stacksOk := by
  unfold Vol.promoteOn
  dsimp only
  split
  · exact Vol.stacksOk_tests _ _ (Vol.stacksOk_queue v d _ hs)
  · exact Vol.stacksOk_queue v d _ hs


@[simp] theorem stacksOk_minuteTick (b : Battery) (v : Vol) (hs : v.stacksOk) : (minuteTick b v).2.stacksOk := by
  unfold minuteTick
  exact Vol.stacksOk_foldl _ (fun w x hw => by simp (maxDischargeDepth := 40) [hw]) _ _ (by simp [hs])

@[simp] theorem stacksOk_takeRound (k : Line) (tag : Byte) (b : Battery) (v : Vol) (hs : v.stacksOk) : (takeRound k tag b v).2.stacksOk := by
  unfold takeRound
  try dsimp only
  repeat' (first | (simp (maxDischargeDepth := 40) [hs, apply_ite Vol.stacksOk]; done) | split)

@[simp] theorem stacksOk_takeEdition (k : Line) (tag number enabled openHH openMM closeHH closeMM lead : Byte) (b : Battery) (v : Vol) (hs : v.stacksOk) : (takeEdition k tag number enabled openHH openMM closeHH closeMM lead b v).2.stacksOk := by
  unfold takeEdition
  try dsimp only
  repeat' (first | (simp (maxDischargeDepth := 40) [hs, apply_ite Vol.stacksOk]; done) | split)

@[simp] theorem Vol.stacksOk_breakHold (k : Line) (tag : Byte) (d : DriveNo) (g : List Byte) (v : Vol) (hs : v.stacksOk) : (Vol.breakHold k tag d g v).stacksOk := by
  unfold Vol.breakHold
  try dsimp only
  repeat' (first | (simp (maxDischargeDepth := 40) [hs, apply_ite Vol.stacksOk]; done) | split)

@[simp] theorem stacksOk_takeBreak (k : Line) (tag drive : Byte) (slug : List Byte) (b : Battery) (v : Vol) (hs : v.stacksOk) : (takeBreak k tag drive slug b v).2.stacksOk := by
  unfold takeBreak
  try dsimp only
  repeat' (first | (simp (maxDischargeDepth := 40) [hs, apply_ite Vol.stacksOk]; done) | split)

@[simp] theorem Vol.stacksOk_takeDriveFor (v : Vol) (d : DriveNo) (m : MountState) (hs : v.stacksOk) : (Vol.takeDriveFor v d m).stacksOk := by
  unfold Vol.takeDriveFor
  try dsimp only
  repeat' (first | (simp (maxDischargeDepth := 40) [hs, apply_ite Vol.stacksOk]; done) | split)

@[simp] theorem Vol.stacksOk_admitFormat (b : Battery) (tag : Byte) (d : DriveNo) (volume : List Byte) (r : ReqId) (v : Vol) (hs : v.stacksOk) : (Vol.admitFormat b tag d volume r v).stacksOk := by
  unfold Vol.admitFormat
  try dsimp only
  repeat' (first | (simp (maxDischargeDepth := 40) [hs, apply_ite Vol.stacksOk]; done) | split)

@[simp] theorem stacksOk_takeFormat (k : Line) (tag drive : Byte) (volume : List Byte) (b : Battery) (v : Vol) (hs : v.stacksOk) : (takeFormat k tag drive volume b v).2.stacksOk := by
  unfold takeFormat
  try dsimp only
  repeat' (first | (simp (maxDischargeDepth := 40) [hs, apply_ite Vol.stacksOk]; done) | split)

theorem Vol.stacksOk_admitCopy (b : Battery) (tag : Byte) (s d : DriveNo) (r : ReqId) (v : Vol) (hs : v.stacksOk)
    (hl : (v.drive s).sched.stack.length < Config.stackSlots) : (v.admitCopy b tag s d r).stacksOk := by
  unfold Vol.admitCopy
  dsimp only
  have h1 : ∀ q, ((v.openRequest r q).modSched s (fun x => { x with cursor := some (1, 0) })).stacksOk := by
    intro q
    refine Vol.stacksOk_modSched _ s _ (Vol.stacksOk_openRequest v r q hs) ⟨?_, (hs s).2⟩
    unfold Scheduler.depth
    exact hl
  simp (maxDischargeDepth := 40) [h1]

theorem copyCheck_stack {v : Vol} {s d : DriveNo} (h : v.copyCheck s d = none) :
    (v.drive s).sched.stack.length < Config.stackSlots := by
  unfold Vol.copyCheck at h
  split at h
  · cases h
  · split at h
    · cases h
    · split at h
      · cases h
      · next hn =>
        simp only [Vol.sourceInUse, Bool.or_eq_true, decide_eq_true_eq, not_or] at hn
        omega


@[simp] theorem stacksOk_takeCopy (k : Line) (tag source dest : Byte) (b : Battery) (v : Vol) (hs : v.stacksOk) :
    (takeCopy k tag source dest b v).2.stacksOk := by
  unfold takeCopy
  split
  · exact Vol.stacksOk_say _ _ _ _ hs
  · refine Vol.stacksOk_onlySupervisor _ _ _ _ _ hs ?_
    dsimp only
    split
    · exact Vol.stacksOk_say _ _ _ _ hs
    · split
      · exact Vol.stacksOk_say _ _ _ _ hs
      · next hc => exact Vol.stacksOk_admitCopy _ _ _ _ _ _ hs (copyCheck_stack hc)


@[simp] theorem Vol.stacksOk_admitRecal (b : Battery) (tag : Byte) (d : DriveNo) (r : ReqId) (v : Vol) (hs : v.stacksOk) : (Vol.admitRecal b tag d r v).stacksOk := by
  unfold Vol.admitRecal
  try dsimp only
  repeat' (first | (simp (maxDischargeDepth := 40) [hs, apply_ite Vol.stacksOk]; done) | split)

@[simp] theorem stacksOk_takeRecal (k : Line) (tag drive : Byte) (b : Battery) (v : Vol) (hs : v.stacksOk) : (takeRecal k tag drive b v).2.stacksOk := by
  unfold takeRecal
  try dsimp only
  repeat' (first | (simp (maxDischargeDepth := 40) [hs, apply_ite Vol.stacksOk]; done) | split)

@[simp] theorem stacksOk_takeRestart (k : Line) (tag : Byte) (b : Battery) (v : Vol) (hs : v.stacksOk) : (takeRestart k tag b v).2.stacksOk := by
  unfold takeRestart
  try dsimp only
  repeat' (first | (simp (maxDischargeDepth := 40) [hs, apply_ite Vol.stacksOk]; done) | split)

@[simp] theorem stacksOk_takeCommand (i : Instr) (b : Battery) (v : Vol) (hs : v.stacksOk) : (takeCommand i b v).2.stacksOk := by
  unfold takeCommand
  try dsimp only
  repeat' (first | (simp (maxDischargeDepth := 40) [hs, apply_ite Vol.stacksOk]; done) | split)

@[simp] theorem stacksOk_takeBody (k : Line) (body : List Byte) (b : Battery) (v : Vol) (hs : v.stacksOk) : (takeBody k body b v).2.stacksOk := by
  unfold takeBody
  try dsimp only
  repeat' (first | (simp (maxDischargeDepth := 40) [hs, apply_ite Vol.stacksOk]; done) | split)

@[simp] theorem Vol.stacksOk_assemble (k : Line) (a : Assembler) (gap silence : Bool) (v : Vol) (hs : v.stacksOk) : (Vol.assemble k a gap silence v).stacksOk := Vol.stacksOk_drives hs rfl

@[simp] theorem Vol.stacksOk_frameFault (b : Battery) (k : Line) (v : Vol) (hs : v.stacksOk) : (Vol.frameFault b k v).stacksOk := by
  unfold Vol.frameFault
  try dsimp only
  repeat' (first | (simp (maxDischargeDepth := 40) [hs, apply_ite Vol.stacksOk]; done) | split)

@[simp] theorem stacksOk_frameEnds (k : Line) (high low : Byte) (kept : List Byte) (first second : Byte) (b : Battery) (v : Vol) (hs : v.stacksOk) : (frameEnds k high low kept first second b v).2.stacksOk := by
  unfold frameEnds
  try dsimp only
  repeat' (first | (simp (maxDischargeDepth := 40) [hs, apply_ite Vol.stacksOk]; done) | split)

@[simp] theorem Vol.stacksOk_lengthEnds (b : Battery) (k : Line) (high low : Byte) (v : Vol) (hs : v.stacksOk) : (Vol.lengthEnds b k high low v).stacksOk := by
  unfold Vol.lengthEnds
  try dsimp only
  repeat' (first | (simp (maxDischargeDepth := 40) [hs, apply_ite Vol.stacksOk]; done) | split)

@[simp] theorem Vol.stacksOk_bodyByte (k : Line) (high low : Byte) (kept : List Byte) (x : Byte) (v : Vol) (hs : v.stacksOk) : (Vol.bodyByte k high low kept x v).stacksOk := by
  unfold Vol.bodyByte
  try dsimp only
  repeat' (first | (simp (maxDischargeDepth := 40) [hs, apply_ite Vol.stacksOk]; done) | split)

@[simp] theorem stacksOk_takeByte (k : Line) (x : Byte) (b : Battery) (v : Vol) (hs : v.stacksOk) : (takeByte k x b v).2.stacksOk := by
  unfold takeByte
  try dsimp only
  repeat' (first | (simp (maxDischargeDepth := 40) [hs, apply_ite Vol.stacksOk]; done) | split)

@[simp] theorem stacksOk_takeCompletion (k : Line) (second : Byte) (b : Battery) (v : Vol) (hs : v.stacksOk) : (takeCompletion k second b v).2.stacksOk := by
  unfold takeCompletion
  try dsimp only
  repeat' (first | (simp (maxDischargeDepth := 40) [hs, apply_ite Vol.stacksOk]; done) | split)

@[simp] theorem Vol.stacksOk_framingFault (b : Battery) (k : Line) (v : Vol) (hs : v.stacksOk) : (Vol.framingFault b k v).stacksOk := by
  unfold Vol.framingFault
  try dsimp only
  repeat' (first | (simp (maxDischargeDepth := 40) [hs, apply_ite Vol.stacksOk]; done) | split)

@[simp] theorem stacksOk_takeFault (k : Line) (cause : FrameFaultCause) (b : Battery) (v : Vol) (hs : v.stacksOk) : (takeFault k cause b v).2.stacksOk := by
  unfold takeFault
  try dsimp only
  repeat' (first | (simp (maxDischargeDepth := 40) [hs, apply_ite Vol.stacksOk]; done) | split)

@[simp] theorem Vol.stacksOk_gapExpires (b : Battery) (k : Line) (v : Vol) (hs : v.stacksOk) : (Vol.gapExpires b k v).stacksOk := by
  unfold Vol.gapExpires
  try dsimp only
  repeat' (first | (simp (maxDischargeDepth := 40) [hs, apply_ite Vol.stacksOk]; done) | split)

@[simp] theorem Vol.stacksOk_silenceExpires (k : Line) (v : Vol) (hs : v.stacksOk) : (Vol.silenceExpires k v).stacksOk := by
  unfold Vol.silenceExpires
  try dsimp only
  repeat' (first | (simp (maxDischargeDepth := 40) [hs, apply_ite Vol.stacksOk]; done) | split)

@[simp] theorem stacksOk_act (m : Mark) (b : Battery) (v : Vol) (hs : v.stacksOk) : (Mark.act m b v).2.stacksOk := by
  unfold Mark.act
  try dsimp only
  repeat' (first | (simp (maxDischargeDepth := 40) [hs, apply_ite Vol.stacksOk]; done) | split)

@[simp] theorem stacksOk_takeSent (k : Line) (b : Battery) (v : Vol) (hs : v.stacksOk) : (takeSent k b v).2.stacksOk := by
  unfold takeSent
  try dsimp only
  repeat' (first | (simp (maxDischargeDepth := 40) [hs, apply_ite Vol.stacksOk]; done) | split)

@[simp] theorem Vol.stacksOk_discardMark (b : Battery) (v : Vol) (m : Mark) (hs : v.stacksOk) :
    (v.discardMark b m).stacksOk := by
  unfold Vol.discardMark
  split
  · exact hs
  · exact hs
  · exact Vol.stacksOk_modPort _ _ _ hs


@[simp] theorem Vol.stacksOk_lineResetRequest (b : Battery) (r : ReqId) (v : Vol) (hs : v.stacksOk) : (Vol.lineResetRequest b r v).stacksOk := by
  unfold Vol.lineResetRequest
  try dsimp only
  repeat' (first | (simp (maxDischargeDepth := 40) [hs, apply_ite Vol.stacksOk]; done) | split)

@[simp] theorem Vol.stacksOk_lineReset (b : Battery) (k : Line) (v : Vol) (hs : v.stacksOk) :
    (v.lineReset b k).stacksOk := by
  unfold Vol.lineReset
  dsimp only
  refine Vol.stacksOk_foldl _ (fun w r hw => Vol.stacksOk_lineResetRequest _ _ _ hw) _ _
    (Vol.stacksOk_foldl _ (fun w m hw => Vol.stacksOk_discardMark _ _ _ hw) _ _ ?_)
  simp (maxDischargeDepth := 40) [hs]


@[simp] theorem Vol.stacksOk_takeBreakLine (b : Battery) (k : Line) (v : Vol) (hs : v.stacksOk) : (Vol.takeBreakLine b k v).stacksOk := by
  unfold Vol.takeBreakLine
  try dsimp only
  repeat' (first | (simp (maxDischargeDepth := 40) [hs, apply_ite Vol.stacksOk]; done) | split)

@[simp] theorem Vol.stacksOk_returnsToMark (k : Line) (v : Vol) (hs : v.stacksOk) : (Vol.returnsToMark k v).stacksOk := Vol.stacksOk_drives hs rfl

@[simp] theorem Vol.stacksOk_indexPulse (b : Battery) (d : DriveNo) (v : Vol) (hs : v.stacksOk) : (Vol.indexPulse b d v).stacksOk := by
  unfold Vol.indexPulse
  try dsimp only
  repeat' (first | (simp (maxDischargeDepth := 40) [hs, apply_ite Vol.stacksOk]; done) | split)

@[simp] theorem Vol.stacksOk_headUnload (b : Battery) (d : DriveNo) (v : Vol) (hs : v.stacksOk) : (Vol.headUnload b d v).stacksOk := by
  unfold Vol.headUnload
  try dsimp only
  repeat' (first | (simp (maxDischargeDepth := 40) [hs, apply_ite Vol.stacksOk]; done) | split)

@[simp] theorem Vol.stacksOk_indexStall (b : Battery) (d : DriveNo) (v : Vol) (hs : v.stacksOk) : (Vol.indexStall b d v).stacksOk := by
  unfold Vol.indexStall
  try dsimp only
  repeat' (first | (simp (maxDischargeDepth := 40) [hs, apply_ite Vol.stacksOk]; done) | split)

@[simp] theorem Vol.stacksOk_doorLine (d : DriveNo) (closed : Bool) (inserted : Option Diskette) (v : Vol) (hs : v.stacksOk) : (Vol.doorLine d closed inserted v).stacksOk := by
  unfold Vol.doorLine
  try dsimp only
  repeat' (first | (simp (maxDischargeDepth := 40) [hs, apply_ite Vol.stacksOk]; done) | split)

@[simp] theorem Vol.stacksOk_doorOpens (b : Battery) (d : DriveNo) (v : Vol) (hs : v.stacksOk) : (Vol.doorOpens b d v).stacksOk := by
  unfold Vol.doorOpens
  try dsimp only
  repeat' (first | (simp (maxDischargeDepth := 40) [hs, apply_ite Vol.stacksOk]; done) | split)

@[simp] theorem Vol.stacksOk_doorCloses (b : Battery) (d : DriveNo) (v : Vol) (hs : v.stacksOk) : (Vol.doorCloses b d v).stacksOk := by
  unfold Vol.doorCloses
  try dsimp only
  repeat' (first | (simp (maxDischargeDepth := 40) [hs, apply_ite Vol.stacksOk]; done) | split)

@[simp] theorem Vol.stacksOk_recalStops (b : Battery) (d : DriveNo) (v : Vol) (hs : v.stacksOk) :
    (Vol.recalStops b d v).stacksOk := by
  simp [Vol.recalStops, hs]

@[simp] theorem Vol.stacksOk_stepDone (b : Battery) (d : DriveNo) (track0 : Bool) (v : Vol) (hs : v.stacksOk) : (Vol.stepDone b d track0 v).stacksOk := by
  unfold Vol.stepDone
  try dsimp only
  repeat' (first | (simp (maxDischargeDepth := 40) [hs, apply_ite Vol.stacksOk]; done) | split)

@[simp] theorem Vol.stacksOk_settleDone (b : Battery) (d : DriveNo) (v : Vol) (hs : v.stacksOk) : (Vol.settleDone b d v).stacksOk := by
  unfold Vol.settleDone
  try dsimp only
  repeat' (first | (simp (maxDischargeDepth := 40) [hs, apply_ite Vol.stacksOk]; done) | split)

@[simp] theorem Vol.stacksOk_headLoadDone (b : Battery) (d : DriveNo) (v : Vol) (hs : v.stacksOk) : (Vol.headLoadDone b d v).stacksOk := by
  unfold Vol.headLoadDone
  try dsimp only
  repeat' (first | (simp (maxDischargeDepth := 40) [hs, apply_ite Vol.stacksOk]; done) | split)

@[simp] theorem Vol.stacksOk_composeService (d : DriveNo) (v : Vol) (hs : v.stacksOk) : (Vol.composeService d v).stacksOk := by
  unfold Vol.composeService
  try dsimp only
  repeat' (first | (simp (maxDischargeDepth := 40) [hs, apply_ite Vol.stacksOk]; done) | split)

@[simp] theorem Vol.stacksOk_headerSought (d : DriveNo) (v : Vol) (hs : v.stacksOk) : (Vol.headerSought d v).stacksOk := by
  unfold Vol.headerSought
  try dsimp only
  repeat' (first | (simp (maxDischargeDepth := 40) [hs, apply_ite Vol.stacksOk]; done) | split)

@[simp] theorem Vol.stacksOk_headerSearched (d : DriveNo) (pulses : Nat) (right wrong : Bool) (h : HeaderRead) (v : Vol) (hs : v.stacksOk) : (Vol.headerSearched d pulses right wrong h v).stacksOk := by
  unfold Vol.headerSearched
  try dsimp only
  repeat' (first | (simp (maxDischargeDepth := 40) [hs, apply_ite Vol.stacksOk]; done) | split)

@[simp] theorem Vol.stacksOk_headerVerified (d : DriveNo) (w : VerifyWork) (h : HeaderRead) (v : Vol) (hs : v.stacksOk) : (Vol.headerVerified d w h v).stacksOk := by
  unfold Vol.headerVerified
  try dsimp only
  repeat' (first | (simp (maxDischargeDepth := 40) [hs, apply_ite Vol.stacksOk]; done) | split)

@[simp] theorem Vol.stacksOk_headerInUnit (d : DriveNo) (verify : Bool) (h : HeaderRead) (v : Vol) (hs : v.stacksOk) : (Vol.headerInUnit d verify h v).stacksOk := by
  unfold Vol.headerInUnit
  try dsimp only
  repeat' (first | (simp (maxDischargeDepth := 40) [hs, apply_ite Vol.stacksOk]; done) | split)

@[simp] theorem Vol.stacksOk_headerFound (d : DriveNo) (h : HeaderRead) (v : Vol) (hs : v.stacksOk) : (Vol.headerFound d h v).stacksOk := by
  unfold Vol.headerFound
  try dsimp only
  repeat' (first | (simp (maxDischargeDepth := 40) [hs, apply_ite Vol.stacksOk]; done) | split)

@[simp] theorem Vol.stacksOk_searchFails (b : Battery) (d : DriveNo) (mispositioned : Bool) (v : Vol) (hs : v.stacksOk) : (Vol.searchFails b d mispositioned v).stacksOk := by
  unfold Vol.searchFails
  try dsimp only
  repeat' (first | (simp (maxDischargeDepth := 40) [hs, apply_ite Vol.stacksOk]; done) | split)

@[simp] theorem Vol.stacksOk_searchLimit (b : Battery) (d : DriveNo) (v : Vol) (hs : v.stacksOk) : (Vol.searchLimit b d v).stacksOk := by
  unfold Vol.searchLimit
  try dsimp only
  repeat' (first | (simp (maxDischargeDepth := 40) [hs, apply_ite Vol.stacksOk]; done) | split)

@[simp] theorem Vol.stacksOk_loadRead (b : Battery) (d : DriveNo) (l : LoadWork) (f : FieldRead) (v : Vol) (hs : v.stacksOk) : (Vol.loadRead b d l f v).stacksOk := by
  unfold Vol.loadRead
  try dsimp only
  repeat' (first | (simp (maxDischargeDepth := 40) [hs, apply_ite Vol.stacksOk]; done) | split)

@[simp] theorem Vol.stacksOk_transferEnd (b : Battery) (d : DriveNo) (f : FieldRead) (v : Vol) (hs : v.stacksOk) : (Vol.transferEnd b d f v).stacksOk := by
  unfold Vol.transferEnd
  try dsimp only
  repeat' (first | (simp (maxDischargeDepth := 40) [hs, apply_ite Vol.stacksOk]; done) | split)

@[simp] theorem Vol.stacksOk_passWriteEnd (b : Battery) (d : DriveNo) (found : Bool) (v : Vol) (hs : v.stacksOk) : (Vol.passWriteEnd b d found v).stacksOk := by
  unfold Vol.passWriteEnd
  try dsimp only
  repeat' (first | (simp (maxDischargeDepth := 40) [hs, apply_ite Vol.stacksOk]; done) | split)

@[simp] theorem Vol.stacksOk_sectorBoundary (b : Battery) (d : DriveNo) (f : FieldRead) (v : Vol) (hs : v.stacksOk) : (Vol.sectorBoundary b d f v).stacksOk := by
  unfold Vol.sectorBoundary
  try dsimp only
  repeat' (first | (simp (maxDischargeDepth := 40) [hs, apply_ite Vol.stacksOk]; done) | split)

@[simp] theorem Vol.stacksOk_verifySectorEnd (b : Battery) (d : DriveNo) (f : FieldRead) (v : Vol) (hs : v.stacksOk) : (Vol.verifySectorEnd b d f v).stacksOk := by
  unfold Vol.verifySectorEnd
  try dsimp only
  repeat' (first | (simp (maxDischargeDepth := 40) [hs, apply_ite Vol.stacksOk]; done) | split)

@[simp] theorem Vol.stacksOk_angleTick (d : DriveNo) (v : Vol) (hs : v.stacksOk) : (Vol.angleTick d v).stacksOk := by
  unfold Vol.angleTick
  try dsimp only
  repeat' (first | (simp (maxDischargeDepth := 40) [hs, apply_ite Vol.stacksOk]; done) | split)

@[simp] theorem Vol.stacksOk_sense (d : DriveNo) (protect : Bool) (v : Vol) (hs : v.stacksOk) : (Vol.sense d protect v).stacksOk := by
  unfold Vol.sense
  try dsimp only
  repeat' (first | (simp (maxDischargeDepth := 40) [hs, apply_ite Vol.stacksOk]; done) | split)

@[simp] theorem Vol.stacksOk_angleUnit (d : DriveNo) (protect : Bool) (v : Vol) (hs : v.stacksOk) : (Vol.angleUnit d protect v).stacksOk := by
  unfold Vol.angleUnit
  try dsimp only
  repeat' (first | (simp (maxDischargeDepth := 40) [hs, apply_ite Vol.stacksOk]; done) | split)

@[simp] theorem Vol.stacksOk_formatUnitDone (b : Battery) (d : DriveNo) (v : Vol) (hs : v.stacksOk) : (Vol.formatUnitDone b d v).stacksOk := by
  unfold Vol.formatUnitDone
  try dsimp only
  repeat' (first | (simp (maxDischargeDepth := 40) [hs, apply_ite Vol.stacksOk]; done) | split)

@[simp] theorem Vol.stacksOk_copyOpeningDone (b : Battery) (d : DriveNo) (v : Vol) (hs : v.stacksOk) : (Vol.copyOpeningDone b d v).stacksOk := by
  unfold Vol.copyOpeningDone
  try dsimp only
  repeat' (first | (simp (maxDischargeDepth := 40) [hs, apply_ite Vol.stacksOk]; done) | split)

@[simp] theorem Vol.stacksOk_copyCatalogDone (b : Battery) (d : DriveNo) (v : Vol) (hs : v.stacksOk) : (Vol.copyCatalogDone b d v).stacksOk := by
  unfold Vol.copyCatalogDone
  try dsimp only
  repeat' (first | (simp (maxDischargeDepth := 40) [hs, apply_ite Vol.stacksOk]; done) | split)

@[simp] theorem Vol.stacksOk_copyLabelDone (b : Battery) (d : DriveNo) (v : Vol) (hs : v.stacksOk) : (Vol.copyLabelDone b d v).stacksOk := by
  unfold Vol.copyLabelDone
  try dsimp only
  repeat' (first | (simp (maxDischargeDepth := 40) [hs, apply_ite Vol.stacksOk]; done) | split)

@[simp] theorem Vol.stacksOk_idleExpires (r : ReqId) (v : Vol) (hs : v.stacksOk) : (Vol.idleExpires r v).stacksOk := by
  unfold Vol.idleExpires
  try dsimp only
  repeat' (first | (simp (maxDischargeDepth := 40) [hs, apply_ite Vol.stacksOk]; done) | split)

@[simp] theorem stacksOk_powerOn (kept : Bool) (b : Battery) (v : Vol) (hs : v.stacksOk) :
    (powerOn kept b v).2.stacksOk := by
  unfold powerOn
  split
  · exact hs
  · dsimp only
    split
    · exact stacksOk_generalReset b { v with power := true } hs
    · exact Vol.stacksOk_modPort _ _ _ (Vol.stacksOk_resetBlocks Battery.default { v with power := true } hs)


@[simp] theorem stacksOk_powerLoss (b : Battery) (v : Vol) (hs : v.stacksOk) : (powerLoss b v).2.stacksOk := by
  unfold powerLoss
  split
  · exact Vol.stacksOk_resetBlocks b { v with power := false } hs
  · exact hs


@[simp] theorem stacksOk_resetHold (b : Battery) (v : Vol) (hs : v.stacksOk) : (resetHold b v).2.stacksOk := by
  unfold resetHold
  split
  · exact hs
  · exact Vol.stacksOk_resetBlocks b { v with resetHeld := true } hs


@[simp] theorem stacksOk_resetRelease (b : Battery) (v : Vol) (hs : v.stacksOk) : (resetRelease b v).2.stacksOk := by
  unfold resetRelease
  split <;> exact hs


@[simp] theorem stacksOk_secondEnd (b : Battery) (v : Vol) (hs : v.stacksOk) : (secondEnd b v).2.stacksOk := by
  unfold secondEnd
  try dsimp only
  repeat' (first | (simp (maxDischargeDepth := 40) [hs, apply_ite Vol.stacksOk]; done) | split)

/-! ## Every command -/

theorem Vol.stacksOk_placeFirst {v w : Vol} {k : Line} (hs : v.stacksOk) (e : v.placeFirst k = some w) :
    w.stacksOk := by
  unfold Vol.placeFirst at e
  split at e
  · split at e
    · cases e
      exact Vol.stacksOk_placeReply _ _ _ _ hs
    · split at e
      · cases e
        exact Vol.stacksOk_placeNotice _ _ hs
      · cases e
  · cases e

theorem Vol.stacksOk_meetOne {v w : Vol} {b : Battery} (hs : v.stacksOk) (e : v.meetOne b = some w) :
    w.stacksOk := by
  unfold Vol.meetOne at e
  split at e
  · cases e
  · cases e
    exact Vol.stacksOk_meet _ _ _ hs
  · cases e
    exact Vol.stacksOk_meet _ _ _ (Vol.stacksOk_picks v _ hs)

theorem Vol.stacksOk_followOn {v w : Vol} {b : Battery} (hs : v.stacksOk) (e : v.followOn b = some w) :
    w.stacksOk := by
  unfold Vol.followOn at e
  simp only [orElse_some_iff] at e
  rcases e with e | ⟨_, e | ⟨_, e | ⟨_, e | ⟨_, e⟩⟩⟩⟩
  · unfold Vol.dropTest at e
    rw [Option.map_eq_some_iff] at e
    obtain ⟨t, _, rfl⟩ := e
    exact hs
  · unfold Vol.beginNext at e
    rw [Option.map_eq_some_iff] at e
    obtain ⟨d, _, rfl⟩ := e
    exact Vol.stacksOk_beginWork _ _ _ hs
  · unfold Vol.placeNext at e
    obtain ⟨k, _, h⟩ := List.exists_of_findSome?_eq_some e
    exact Vol.stacksOk_placeFirst hs h
  · unfold Vol.idleNext at e
    rw [Option.map_eq_some_iff] at e
    obtain ⟨d, _, rfl⟩ := e
    exact Vol.stacksOk_modSeq _ _ _ hs
  · exact Vol.stacksOk_meetOne hs e

theorem Vol.stacksOk_settle (b : Battery) (v : Vol) (hs : v.stacksOk) : (settle b v).stacksOk := by
  have h : ∀ n (v : Vol), v.stacksOk → (settleLoop b n v).stacksOk := by
    intro n
    induction n with
    | zero => exact fun _ h => h
    | succ n ih =>
      intro v hv
      unfold settleLoop
      split
      · exact hv
      · next w e =>
        have hw : w.stacksOk := Vol.stacksOk_followOn hv e
        exact ih _ hw
  unfold settle
  split
  · exact h _ v hs
  · exact hs

theorem Vol.stacksOk_ownEffect (i : Instr) (b : Battery) (v : Vol) (hs : v.stacksOk) :
    (ownEffect i b v).2.stacksOk := by
  cases i
  case frameComplete => exact stacksOk_takeCompletion _ _ _ _ hs
  case frameFault => exact stacksOk_takeFault _ _ _ _ hs
  case frameGapExpiry => exact Vol.stacksOk_gapExpires _ _ _ hs
  case silenceTimerExpiry => exact Vol.stacksOk_silenceExpires _ _ hs
  case lineBreak => exact Vol.stacksOk_takeBreakLine _ _ _ hs
  case frameSent => exact stacksOk_takeSent _ _ _ hs
  case powerOn => exact stacksOk_powerOn _ _ _ hs
  case resetHold => exact stacksOk_resetHold _ _ hs
  case mainPowerLoss => exact stacksOk_powerLoss _ _ hs
  case resetRelease => exact stacksOk_resetRelease _ _ hs
  case secondEnd => exact stacksOk_secondEnd _ _ hs
  case indexPulse => exact Vol.stacksOk_indexPulse _ _ _ hs
  case headUnload => exact Vol.stacksOk_headUnload _ _ _ hs
  case indexStall => exact Vol.stacksOk_indexStall _ _ _ hs
  case doorLineChange => exact Vol.stacksOk_doorLine _ _ _ _ hs
  case doorOpening => exact Vol.stacksOk_doorOpens _ _ _ hs
  case doorClosing => exact Vol.stacksOk_doorCloses _ _ _ hs
  case stepDone => exact Vol.stacksOk_stepDone _ _ _ _ hs
  case settleDone => exact Vol.stacksOk_settleDone _ _ _ hs
  case headLoadDone => exact Vol.stacksOk_headLoadDone _ _ _ hs
  case headerFound => exact Vol.stacksOk_headerFound _ _ _ hs
  case searchLimit => exact Vol.stacksOk_searchLimit _ _ _ hs
  case sectorBoundary => exact Vol.stacksOk_sectorBoundary _ _ _ _ hs
  case verifySectorEnd => exact Vol.stacksOk_verifySectorEnd _ _ _ _ hs
  case idleLimitExpiry => exact Vol.stacksOk_idleExpires _ _ hs
  case formatUnitEnd => exact Vol.stacksOk_formatUnitDone _ _ _ hs
  case copyOpeningEnd => exact Vol.stacksOk_copyOpeningDone _ _ _ hs
  case copyCatalogUnitEnd => exact Vol.stacksOk_copyCatalogDone _ _ _ hs
  case copyLabelVerified => exact Vol.stacksOk_copyLabelDone _ _ _ hs
  case characterReceived => exact stacksOk_takeByte _ _ _ _ hs
  case lineReturnToMark => exact Vol.stacksOk_modPort _ _ _ hs
  case angleUnitTick => exact Vol.stacksOk_angleUnit _ _ _ hs
  all_goals exact stacksOk_takeCommand _ _ _ hs

end Sys2Proof.Machine
end

