-- ==== Sys2Proof/Laws/Steps.lean ====
section
/-! SUPPORT. A step and a command by cases, and what a whole frame, an event and the checks of intake come to where they
pass. -/

namespace Sys2Proof.Machine

theorem step_cases {s t : State} (h : step s = .next t) :
    t = s ∨ ∃ c rest, s.pending = c :: rest ∧ exec c { s with pending := rest } = .next t := by
  unfold step at h
  split at h
  · cases h
    exact .inl rfl
  · next c rest e => exact .inr ⟨c, rest, e, h⟩

theorem exec_cases {c : Instr} {s t : State} (h : exec c s = .next t) :
    t = s ∨ (s.acts c = true ∧ t = s.finish (ownEffect c s.bat s.vol)) := by
  rw [exec_eq] at h
  split at h
  · next e =>
    cases h
    exact .inr ⟨e, rfl⟩
  · cases h
    exact .inl rfl

theorem onLine_hears {s : State} {k : Line} (f : Battery → Vol → Battery × Vol) (h : s.vol.live = true)
    (g : s.vol.passes s.bat k = true) : s.onLine k f = .next (s.finish (f s.bat s.vol)) := by
  unfold State.onLine
  rw [h, g]
  rfl

theorem whenLive_live {s : State} (f : Battery → Vol → Battery × Vol) (h : s.vol.live = true) :
    s.whenLive f = .next (s.finish (f s.bat s.vol)) := by
  unfold State.whenLive
  rw [if_pos h]

theorem tagOk_of {tag : Byte} (h : tag ≠ 0) : tagOk tag = true := by simpa [tagOk] using h

theorem fromBcd_bcd : ∀ n, n ≤ 99 → fromBcd (bcd n) = some n := by decide

theorem slotCheck_ok {v : Vol} {k : Line} {tag : Byte} {r : ReqId} (h : v.freeSlotOf k = some r)
    (g : v.tagInUse k tag = false) : v.slotCheck k tag = .ok r := by
  unfold Vol.slotCheck
  rw [h, g]
  rfl

theorem reqLine_freeSlotOf {v : Vol} {k : Line} {r : ReqId} (h : v.freeSlotOf k = some r) : reqLine r = k := by
  have := List.mem_of_find?_eq_some h
  unfold lineReqs at this
  unfold reqLine
  simp only [List.mem_cons, List.not_mem_nil, or_false] at this
  rcases this with rfl | rfl <;> ext <;> dsimp only <;> omega

@[simp] theorem req_openRequest (v : Vol) (r : ReqId) (q : Request) : (v.openRequest r q).req r = some q := by
  unfold Vol.openRequest
  exact Vol.req_setReq_self ..

theorem writeGate_ok {v : Vol} {d : DriveNo} (h1 : v.mount d = .ready) (h2 : (v.drive d).seq.writeProtected = false)
    (h3 : (v.drive d).cat.fault = false) (h4 : (v.drive d).cat.copySource = false) : v.writeGate d = none := by
  simp [Vol.writeGate, Vol.ready, h1, h2, h3, h4]

theorem writeRefusal_none {k : Line} {e : Entry} (h1 : e.holder = none ∨ e.holder = some k) (h2 : e.filing = none)
    (h3 : e.spike = none) (h4 : e.catWrite = none) : writeRefusal k e = none := by
  unfold writeRefusal
  rcases h1 with h1 | h1 <;> simp [h1, h2, h3, h4]

end Sys2Proof.Machine
end

