-- ==== Sys2Proof/Tests/Slice0.lean ====
section
/-! SUPPORT. The model's own tests: the smoke test of WellFormed, values of the arithmetic and the layouts, one step of
commands on small states, and for every statement a state and operands that meet its hypotheses. -/

namespace Sys2Proof.Tests

open Sys2Proof Sys2Proof.Machine

-- One theorem after another: a thread for each of them would not fit the memory limit.
set_option Elab.async false

/-! ## The form of the commands -/

theorem test_form_short_slug_refused :
    (Instr.fetch 0 1 0 0 0 [0x41]).wellFormed = false ∧ (Instr.draw 0 1 0 0 0 []).wellFormed = false
      ∧ (Instr.file 0 1 0 0 0 []).wellFormed = false ∧ (Instr.release 0 1 0 []).wellFormed = false
      ∧ (Instr.spike 0 1 0 0 []).wellFormed = false ∧ (Instr.list 0 1 0 0 []).wellFormed = false
      ∧ (Instr.breakHold 8 1 0 []).wellFormed = false
      ∧ (Instr.fetch 0 1 0 0 0 (List.replicate 12 0x41)).wellFormed = true := by decide

theorem test_form_text_refused :
    (Instr.text 0 1 []).wellFormed = false ∧ (Instr.text 0 1 (List.replicate 257 0)).wellFormed = false
      ∧ (Instr.text 0 1 (List.replicate 256 0)).wellFormed = true := by decide +kernel

theorem test_form_volume_refused :
    (Instr.format 8 1 0 (List.replicate 9 0x41)).wellFormed = false
      ∧ (Instr.format 8 1 0 (List.replicate 8 0x41)).wellFormed = true := by decide

theorem test_form_field_refused :
    (Instr.sectorBoundary 0 (.asRead [0] 0)).wellFormed = false
      ∧ (Instr.verifySectorEnd 0 (.asRead [0] 0)).wellFormed = false
      ∧ (Instr.sectorBoundary 0 (.asRead zeroSector 0)).wellFormed = true := by decide +kernel

/-- A sector formatted and one with a bad data field. -/
def fresh : Sector := ⟨.good 0 0 0 3, .good zeroSector⟩

theorem test_form_diskette_refused :
    (Instr.doorLineChange 0 true (some ⟨false, [(1232, fresh)]⟩)).wellFormed = false
      ∧ (Instr.doorLineChange 0 true (some ⟨false, [(3, fresh), (3, fresh)]⟩)).wellFormed = false
      ∧ (Instr.doorLineChange 0 true (some ⟨false, [(3, ⟨.absent, .bad⟩)]⟩)).wellFormed = false
      ∧ (Instr.doorLineChange 0 true (some ⟨false, [(3, ⟨.good 0 0 0 256, .bad⟩)]⟩)).wellFormed = false
      ∧ (Instr.doorLineChange 0 true (some ⟨false, [(3, ⟨.bad, .good [0]⟩)]⟩)).wellFormed = false
      ∧ (Instr.doorLineChange 0 true (some ⟨false, [(3, fresh), (4, fresh)]⟩)).wellFormed = true := by decide +kernel

/-! ## Arithmetic, layouts and choices -/

theorem test_crc_of_R5 : crc [] = 0xFFFF ∧ crc [0x00] = 0xE1F0
    ∧ crc [0x31, 0x32, 0x33, 0x34, 0x35, 0x36, 0x37, 0x38, 0x39] = 0x29B1 := by decide +kernel

theorem test_outcome_codes_of_R146 :
    [OutcomeCode.done, .taken, .frameFault, .malformed, .notPermitted, .noSlot, .badTag, .notReady, .writeProtected,
      .notFound, .held, .inUse, .catalogFull, .disketteFull, .fragmented, .tooLong, .editionClosed, .catalogFault,
      .copyRunning, .destinationBad, .poolBusy, .readFault, .sectorMissing, .writeFault, .seekFault, .disketteRemoved,
      .driveFault, .cancelled, .tooLate].map OutcomeCode.code
    = [0x00, 0x01, 0x10, 0x11, 0x12, 0x13, 0x14, 0x20, 0x21, 0x22, 0x23, 0x24, 0x25, 0x26, 0x27, 0x28, 0x29, 0x2A, 0x2B,
      0x2C, 0x30, 0x40, 0x41, 0x42, 0x43, 0x44, 0x45, 0x50, 0x51] := by decide

theorem test_item_numbers_of_R173 :
    (∀ (k : Fin 8) (f : Fin 5), parseItem (BitVec.ofNat 8 (8 * k.val + f.val)) = some (.desk k f))
      ∧ (∀ (d : Fin 4) (f : Fin 6), parseItem (BitVec.ofNat 8 (64 + 8 * d.val + f.val)) = some (.cabinet d f))
      ∧ parseItem 96 = some .supervisorRate ∧ parseItem 97 = some .trim ∧ parseItem 98 = none ∧ parseItem 5 = none
      ∧ parseItem 70 = none := by decide

theorem test_extent_bytes_of_R189 : Extent.bytes ⟨31, 1, 2, 4⟩ = [0x1F, 0x01, 0x24] := by decide

/-- A slot image of one extent. -/
def image1 : SlotImage :=
  { state := .filed, slug := List.replicate 12 0x41, edition := 3, revision := 7, timestamp := [1, 2, 3, 4, 5, 6],
    length := 3000, extents := [⟨30, 1, 5, 3⟩] }

theorem test_slot_reads_back : image1.bytes.length = 64
    ∧ rawSlot image1.bytes = { stateByte := 1, extentCount := 1, image := { image1 with state := .damaged } } := by
  decide

theorem test_label_reads_back :
    parseLabel (labelBytes (spaces 8) [1, 2, 3, 4, 5, 6] 2 [0, 1215])
      = some { volume := spaces 8, date := [1, 2, 3, 4, 5, 6], badCount := 2, bads := [0, 1215] } := by decide +kernel

theorem test_run_taken_of_R32 :
    chooseRun [0, 1, 2, 5, 6, 7, 8, 9] 2 3 = some (5, 3) ∧ chooseRun [0, 1, 5, 7, 8] 2 3 = some (0, 2)
      ∧ chooseRun [] 0 1 = none := by decide

theorem test_clock_carries :
    ({ Clock.default with mm := 2, dd := 28, hh := 23, mi := 59, ss := 59 } : Clock).endSecond
      = { Clock.default with mm := 2, dd := 29 }
    ∧ ({ Clock.default with yy := 1, mm := 2, dd := 28, hh := 23, mi := 59, ss := 59, trim := 100 } : Clock).endSecond
      = { Clock.default with yy := 1, mm := 3, dd := 1, secondLength := 32668, trim := 100 } := by decide

/-! ## Small states -/

/-- The reset machine with no notice waiting. -/
def quiet : State :=
  { State.reset with
    vol := { Vol.initial with
      ports := Vector.replicate 9 { Port.afterReset 3 with notice := Notice.clear } } }

/-- A state whose blocks are changed. -/
def onVol (s : State) (f : Vol → Vol) : State := { s with vol := f s.vol }

/-- What holds of the next state, if there is one. -/
def nextIs (o : Host.Outcome State Fault Refusal) (p : State → Bool) : Bool :=
  match o with
  | .next t => p t
  | .fault _ => false
  | .refused _ => false

/-- A slug of one letter. -/
def name (x : Byte) : List Byte := x :: List.replicate 11 0x20

/-- A FILED entry with no holder, no reader and no work. -/
def filed (x : Byte) (es : List Extent) (length : Nat) : Entry :=
  Entry.ofImage { state := .filed, slug := name x, edition := 1, revision := 1, timestamp := [0, 1, 1, 0, 0, 0], length,
                  extents := es }

/-- A mirror: A with an extent, B held by line 0 and empty, C under a catalog write, a FREE slot, D held by line 1. -/
def mirror0 : Mirror :=
  { slots := [some (filed 0x41 [⟨1, 0, 0, 1⟩] 10), some { filed 0x42 [] 0 with holder := some 0 },
      some { filed 0x43 [] 0 with
        catWrite := some { req := 5, spike := false, image := SlotImage.freeImage, record := none } },
      some (Entry.ofImage SlotImage.freeImage), some { filed 0x44 [] 0 with holder := some 1 }],
    free := [1, 2, 3, 4, 5, 6, 7], bad := [], withheld := [], suspect := [],
    label := { volume := spaces 8, date := [0, 0, 0, 0, 0, 0], badCount := 0, bads := [] } }

/-- A drive READY on cylinder 0, its head loaded. -/
def ready0 (x : Drive) : Drive :=
  { x with
    cable := { x.cable with doorClosed := true },
    seq := { x.seq with mount := .ready, doorClosed := true, cyl := some 0, head := .loaded, angle := 0, stall := true },
    cat := { x.cat with mirror := some mirror0 } }

/-- A drive UNFORMATTED on cylinder 0. -/
def blank0 (x : Drive) : Drive :=
  { x with
    cable := { x.cable with doorClosed := true },
    seq := { x.seq with mount := .unformatted, doorClosed := true, cyl := some 0, head := .loaded, angle := 0,
                        stall := true } }

/-- Drive 0 READY, drive 1 UNFORMATTED. -/
def desk : State := onVol quiet (fun v => (v.modDrive 0 ready0).modDrive 1 blank0)

/-- Every buffer of the pool owned. -/
def noBuffers (v : Vol) : Vol := { v with pool := Vector.replicate 40 { owner := some 17, data := [] } }

/-- A request of line 0 with tag 9 in slot 0. -/
def request0 (kind : ReqKind) (stage : Stage) : Request :=
  newRequest 9 kind { drive := 0, cls := .routine, edition := 0, slug := name 0x41 } stage 0 0

/-- A filing's session of a length, with an empty fill buffer or none. -/
def session0 (length : Nat) (fill : Option BufNo) : Session :=
  { edition := 0, keepHold := false, length, fill, fillBytes := 0, full := [], pending := [], lastSector := none,
    idle := true }

/-- A filing of line 0 with that session. -/
def filing0 (stage : Stage) (length : Nat) (fill : Option BufNo) : Request :=
  { request0 .file stage with session := some (session0 length fill) }

/-- The state with a request in slot 0. -/
def withRequest (q : Request) : State := onVol desk (fun v => v.setReq 0 (some q))

/-- An order of the request in slot 0, for one sector of cylinder 1. -/
def order0 (kind : OrderKind) (pass : Pass) (cls : ServiceClass) (arrival : Nat) : Order :=
  { req := 0, kind, cyl := 1, side := 0, first := 0, count := 1, cls, bypass := 0, arrival, progress := 0, pass,
    tries := Tries.fresh, buffers := [0], skip := [], sampled := true, troubled := [] }

/-- A unit of the request in slot 0. -/
def unit0 (kind : UnitKind) (copy : Bool) (failed todo : List Nat) : UnitWork :=
  { kind, req := 0, copy, sectors := todo, todo, failed, image := zeroSector }

/-- Drive 0 at work on a job in a phase, for an order in service or none. -/
def working (job : Job) (phase : Phase) (service : Option Order) (s : State) : State :=
  onVol s (fun v => (v.modSeq 0 (fun q => { q with job, phase })).modSched 0 (fun x => { x with service }))

/-- The port of line 0 with its assembler in a state. -/
def assembling (a : Assembler) : State := onVol quiet (fun v => v.modPort 0 (fun p => { p with assembler := a }))

/-- The LOADING work of a sector. -/
def load0 (sector : Nat) : LoadWork := { sector, tries := Tries.fresh, label := none, catalog := [] }

/-- A COPY from drive 0 to drive 1, at a stage. -/
def copy0 (stage : Stage) : Request :=
  { request0 .copy stage with
    dest := 1,
    copy := some { badCount := 0, bads := [], volume := spaces 8, date := [0, 0, 0, 0, 0, 0], holdsSource := true,
                   holdsDest := true, stop := false } }

/-- A drive that has finished a unit of the request in slot 0. -/
def unitDone (d : DriveNo) (q : Request) (u : UnitWork) : State :=
  onVol (withRequest q) (fun v => v.modSeq d (fun x => { x with
    job := .unit u, phase := .unitDone, mount := if u.copy then .receiving else .formatting }))

/-! ## Steps, reset and invariants: the hypotheses are met -/

theorem test_meets_StepRunsTheFrontCommand :
    ({ quiet with pending := [.secondEnd, .resetHold] } : State).pending = .secondEnd :: [.resetHold]
      ∧ nextIs (step { quiet with pending := [.secondEnd, .resetHold] })
          (fun t => t.pending = [.resetHold] && t.bat.clock.ss = 1) = true := by decide +kernel

theorem test_meets_EveryStepAnswers : quiet.pending = [] := rfl

/-- The quiet machine without main power. -/
def dark : State := onVol quiet (fun v => { v with power := false })

/-- The quiet machine with line 0 disabled. -/
def disabled : State :=
  { quiet with bat := { quiet.bat with settings := quiet.bat.settings.store (.desk 0 0) 0 } }

theorem test_meets_FramesNotTakenChangeNothing : ¬ dark.hears 0 ∧ ¬ disabled.hears 0 := by
  unfold State.hears
  decide +kernel

/-- A step from the quiet machine that keeps every invariant. -/
def secondStep : Host.Outcome State Fault Refusal := step { quiet with pending := [.secondEnd] }

theorem test_meets_StepKeepsTheBatteryInRange :
    quiet.bat.clock.ok = true ∧ (∀ i : Fin 8, (quiet.bat.editions[i]).ok = true)
      ∧ (∀ k : Fin 8, (quiet.bat.settings.lines[k]).ok = true) ∧ (∀ d : Fin 4, (quiet.bat.settings.drives[d]).ok = true)
      ∧ quiet.bat.settings.supervisorRate ≤ 4 ∧ nextIs secondStep (fun _ => true) = true := by decide +kernel

/-- The clock valid at 8:00 and an edition enabled and closed. -/
def closedEdition : State :=
  { quiet with
    bat := { quiet.bat with
      clock := { Clock.default with hh := 8, valid := true }
      editions := quiet.bat.editions.set 0 { enabled := true, opens := 600, closes := 900, lead := 30, state := .closed } },
    pending := [.secondEnd] }

theorem test_meets_StepKeepsEditionsCurrent :
    closedEdition.bat.clock.ok = true ∧ (∀ i : Fin 8, (closedEdition.bat.editions[i]).ok = true)
      ∧ (∀ k : Fin 8, (closedEdition.bat.settings.lines[k]).ok = true)
      ∧ (∀ d : Fin 4, (closedEdition.bat.settings.drives[d]).ok = true) ∧ closedEdition.bat.settings.supervisorRate ≤ 4
      ∧ closedEdition.vol.live = true ∧ closedEdition.bat.clock.valid = true
      ∧ (∀ i : Fin 8, closedEdition.bat.editions[i]
        = (closedEdition.bat.editions[i]).recompute closedEdition.bat.clock.minute)
      ∧ nextIs (step closedEdition) (fun _ => true) = true := by decide +kernel

/-- Six frames in the store of line 0. -/
def fullStore : State :=
  { onVol quiet (fun v => v.modPort 0 (fun p => { p with store := List.replicate 6 ⟨[0x80, 1, 0], .plain⟩ })) with
    pending := [.time 0 1] }

theorem test_meets_StepKeepsStoresWithinSix :
    (∀ k, (fullStore.vol.port k).store.length ≤ Config.storeFrames)
      ∧ nextIs (step fullStore) (fun t => (t.vol.port 0).replies.length == 1) = true := by decide +kernel

theorem test_meets_StepKeepsDiskettesCanonical :
    (∀ c ∈ ({ quiet with pending := [.doorLineChange 0 true (some ⟨true, [(3, fresh)]⟩)] } : State).pending,
        c.wellFormed = true)
      ∧ (∀ d, (quiet.vol.drive d).cable.disk.wf = true)
      ∧ nextIs (step { quiet with pending := [.doorLineChange 0 true (some ⟨true, [(3, fresh)]⟩)] })
        (fun t => (t.vol.drive 0).cable.protect) = true := by decide +kernel

/-- Three suspended orders under one in service. -/
def stacked : State :=
  onVol desk (fun v => v.modSched 0 (fun x =>
    { x with service := some (order0 .read .read .flash 3),
             stack := [order0 .read .read .background 0, order0 .read .read .routine 1,
               order0 .read .read .edition 2] }))

theorem test_meets_StepKeepsTheSuspendStacksOrdered :
    (∀ d, (stacked.vol.drive d).sched.depth ≤ Config.stackSlots
        ∧ (((stacked.vol.drive d).sched.stack ++ (stacked.vol.drive d).sched.service.toList).map
          (fun o => o.cls.rank)).Pairwise (fun m n => m < n))
      ∧ nextIs (step { stacked with pending := [.indexPulse 0] }) (fun _ => true) = true := by decide +kernel

theorem test_meets_StepKeepsStoppedBlocksAtRest :
    nextIs (step { quiet with pending := [.mainPowerLoss] }) (fun t => !t.vol.live) = true
      ∧ nextIs (step { dark with pending := [.secondEnd] }) (fun t => !t.vol.live) = true := by decide +kernel

/-! ## What a command leaves alone: the hypotheses are met -/

theorem test_meets_BatteryDomainStandsUnderOtherCommands :
    nextIs (exec (.status 0 1) quiet) (fun _ => true) = true := by decide +kernel

/-- Drive 0 in the middle of writing sector 0 of cylinder 1. -/
def writing0 : State := working .order .transfer (some (order0 .write .write .routine 0)) (withRequest (filing0 .opened 10 none))

theorem test_meets_DiskettesChangeOnlyWhereTheyAreWritten :
    (writing0.vol.drive 0).writing = some (1, 0, 0)
      ∧ nextIs (exec (.sectorBoundary 0 .asStored) writing0)
        (fun t => ((t.vol.drive 0).cable.disk.sector 1 0 0).data == .good (sectorOf [])) = true
      ∧ nextIs (exec (.indexPulse 0) writing0) (fun _ => true) = true := by decide +kernel

/-! ## Reports, settings and the clock: the hypotheses are met -/

theorem test_meets_ReportsAreAnsweredAndChangeNothing :
    quiet.hears 0 ∧ quiet.hears 8 ∧ (1 : Byte) ≠ 0 ∧ (3 : Byte).toNat = (3 : DriveNo).val
      ∧ quiet.bat.mayRead 0 3 = true ∧ parseItem 97 = some .trim := by
  unfold State.hears
  decide +kernel

theorem test_status_of_a_quiet_line : nextIs (exec (.status 0 7) quiet) (fun t =>
    (t.vol.port 0).store = [⟨[0x80, 7, 0, 0, 0, 0, 0, 0, 0, 0, 0, 0, 0, 0, 0], .plain⟩]) = true := by decide +kernel

theorem test_drive_reports_a_ready_drive : nextIs (exec (.drive 0 7 0) desk) (fun t =>
    (t.vol.port 0).store = [⟨[0x80, 7, 0, 2, 0, 0, 0, 0, 0xFF, 0, 0, 7, 4, 0] ++ spaces 8, .plain⟩]) = true := by
  decide +kernel

theorem test_get_answers_the_item : nextIs (exec (.get 8 7 66) quiet) (fun t =>
    (t.vol.port 8).store = [⟨[0x80, 7, 0, 66, 0, 35], .plain⟩]) = true := by decide +kernel

theorem test_meets_SetStoresTheClampedValue :
    quiet.hears supervisorLine ∧ (1 : Byte) ≠ 0 ∧ parseItem 4 = some (.desk 0 4) ∧ parseItem 67 = some (.cabinet 0 3)
      ∧ parseItem 96 = some .supervisorRate ∧ (Item.desk 0 4) ≠ .trim := by
  unfold State.hears
  decide +kernel

theorem test_set_clamps_a_rate : nextIs (exec (.set 8 1 4 9) quiet) (fun t =>
    t.bat.rate 0 == 4 && (t.vol.port 0).rate == 3
      && (t.vol.port 8).store == [⟨[0x80, 1, 0, 4, 0, 4], .rate 0⟩]) = true := by decide +kernel

theorem test_meets_SettimeSetsTheClock :
    quiet.hears supervisorLine ∧ 29 ≤ monthDays 96 2 ∧ 31 ≤ monthDays 99 12 := by
  unfold State.hears
  decide +kernel

theorem test_settime_sets : nextIs (exec (.settime 8 1 0x99 0x12 0x31 0x23 0x59 0x58) quiet) (fun t =>
    t.bat.clock == { Clock.default with yy := 99, mm := 12, dd := 31, hh := 23, mi := 59, ss := 58, valid := true }
      && (t.vol.port 8).store == [⟨[0x80, 1, 0, 0x99, 0x12, 0x31, 0x23, 0x59, 0x58, 1], .plain⟩]) = true := by
  decide +kernel

/-- The quiet machine at a second. -/
def atSecond (n : Nat) : State := { quiet with bat := { quiet.bat with clock := { Clock.default with ss := n } } }

theorem test_meets_TrimAndRoundSetTheClock :
    (atSecond 29).hears supervisorLine ∧ (atSecond 29).bat.clock.ss < 30 ∧ (atSecond 30).hears supervisorLine
      ∧ 30 ≤ (atSecond 30).bat.clock.ss := by
  unfold State.hears
  decide +kernel

theorem test_trim_clamps : nextIs (exec (.trim 8 1 0x8000) quiet) (fun t =>
    t.bat.clock.trim == -2048 && (t.vol.port 8).store == [⟨[0x80, 1, 0, 0xF8, 0x00], .plain⟩]) = true := by
  decide +kernel

theorem test_round_carries : nextIs (exec (.round 8 1) (atSecond 30)) (fun t =>
    t.bat.clock == { Clock.default with mi := 1 }) = true := by decide +kernel

theorem test_meets_EditionRewritesItsEntry :
    quiet.hears supervisorLine ∧ (1439 : Nat) < 1440 ∧ (0 : Nat) < 1440 ∧ (1439 : Nat) ≠ 0 ∧ (59 : Nat) ≤ 59 := by
  unfold State.hears
  decide +kernel

theorem test_edition_clamps_its_lead : nextIs (exec (.edition 8 1 8 1 0x23 0x59 0x00 0x01 59) quiet) (fun t =>
    t.bat.editions[7] == { enabled := true, opens := 1439, closes := 1, lead := 1, state := .warning }
      && (t.vol.port 8).store == [⟨[0x80, 1, 0, 8, 1, 0x23, 0x59, 0x00, 0x01, 1, 1], .plain⟩]) = true := by
  decide +kernel

theorem test_meets_SecondsAndMinutes :
    (atSecond 58).bat.clock.ss ≠ 59 ∧ (atSecond 59).bat.clock.ss = 59 ∧ (atSecond 59).vol.live = true
      ∧ ({ atSecond 59 with vol := dark.vol } : State).vol.live = false := by decide +kernel

theorem test_minute_event_opens_an_edition :
    nextIs (exec .secondEnd { closedEdition with bat := { closedEdition.bat with clock :=
        { closedEdition.bat.clock with hh := 14, mi := 29, ss := 59 } } })
      (fun t => (t.bat.editions[0]).state == .warning && (t.vol.port 3).store == [⟨[0x83, 0, 0, 1, 0, 0, 0], .plain⟩])
      = true := by decide +kernel

/-- Drive 0 serving an order, two ROUTINE orders of slot 0's edition in its queue and one of an edition that stands. -/
def warning0 : Vol :=
  let v := (desk.vol.setReq 0 (some { request0 .fetch .reading with edition := 1 })).setReq 2
    (some { request0 .fetch .reading with edition := 2 })
  v.modSched 0 (fun x => { x with
    service := some (order0 .read .read .routine 0), nextArrival := 4,
    queue := [order0 .read .read .routine 1, { order0 .read .read .routine 2 with req := 2 },
      order0 .read .read .flash 3] })

theorem test_warning_raises_routine_orders :
    let t := minuteTick { closedEdition.bat with clock := { closedEdition.bat.clock with hh := 14, mi := 30 } } warning0
    (t.1.editions[0]).state = .warning ∧ (t.2.drive 0).sched.queue.map Order.cls = [.edition, .routine, .flash]
      ∧ t.2.tests = [(0, 1)] := by decide +kernel

/-! ## Stories: the hypotheses are met -/

/-- A desk where line 0 may hear, drive 0 is READY and the story of this letter stands in this slot. -/
def storyAt (x : Byte) (slot : Nat) : Bool :=
  parseStory 9 0 3 8 (name x) == some ⟨0, .flash, 8, name x⟩ && desk.bat.mayRead 0 0
    && desk.vol.freeSlotOf 0 == some 0 && !desk.vol.tagInUse 0 9 && desk.vol.mount 0 == .ready
    && ((desk.vol.mirror 0).bind (fun m => m.lookup (name x)) == some slot)

theorem test_meets_FetchAndDrawOpenTheirRequests_line : desk.hears 0 ∧ desk.vol.holdCount 0 < 8 := by
  unfold State.hears
  decide +kernel

theorem test_meets_FetchAndDrawOpenTheirRequests :
    (storyAt 0x41 0 = true ∧ (desk.vol.entry 0 0).any (fun e => e.catWrite == none && e.image.extents == [⟨1, 0, 0, 1⟩]
        && e.holder == none && e.filing == none && e.spike == none && e.image.state == .filed) = true)
      ∧ (storyAt 0x42 1 = true ∧ (desk.vol.entry 0 1).any (fun e => e.catWrite == none && e.image.extents == []
        && e.holder == some 0 && e.filing == none && e.spike == none && e.image.state == .filed) = true)
      ∧ (storyAt 0x43 2 = true ∧ (desk.vol.entry 0 2).any (fun e => e.catWrite.isSome && e.holder == none
        && e.filing == none && e.spike == none && e.image.state == .filed) = true) := by decide +kernel

/-- Slot 0's fetch at a READ order that ends, with this many orders made of its one extent. -/
def fetching (made : Nat) : Vol :=
  (working .order .transfer (some (order0 .read .read .routine 0)) (withRequest { request0 .fetch .reading with
    ordersMade := made, version := some (.entry 0),
    info := { length := 10, revision := 1, timestamp := [0, 1, 1, 0, 0, 0], extents := [⟨1, 0, 0, 1⟩] } })).vol.modEntry 0 0
      (fun e => { e with readers := 1 })

theorem test_meets_FetchAndDrawOpenTheirRequests_ends :
    (∀ n ∈ [0, 1], ((fetching n).drive 0).sched.service = some (order0 .read .read .routine 0)
        ∧ (fetching n).req 0 ≠ none)
      ∧ ([⟨1, 0, 0, 1⟩] : List Extent)[0]? = some ⟨1, 0, 0, 1⟩ ∧ ([⟨1, 0, 0, 1⟩] : List Extent)[1]? = none := by
  decide +kernel

theorem test_a_read_order_ends :
    ((fetching 0).orderEnd desk.bat 0 .done |>.drive 0).sched.queue.length = 1
      ∧ ((fetching 1).orderEnd desk.bat 0 .done |>.req 0).any (fun q => q.stage == .delivering && q.version == none) = true
      ∧ ((fetching 1).orderEnd desk.bat 0 .done |>.entry 0 0).map Entry.readers = some 0
      ∧ ((fetching 1).orderEnd desk.bat 0 .readFault |>.req 0).bind Request.outcome = some .readFault
      ∧ (∀ n ∈ [1, 2], ((((fetching 1).setRecord 3 (.inUse 0 [⟨1, 1, 0, 1⟩] n)).modReq 0 (fun q =>
          { q with version := some (.record 3) })).releaseReader 0).record 3
        = if n = 1 then .free else .inUse 0 [⟨1, 1, 0, 1⟩] 1) := by decide +kernel

theorem test_fetch_makes_its_order : nextIs (exec (.fetch 0 9 0 3 8 (name 0x61)) desk) (fun t =>
    (t.vol.req 0).any (fun q => q.stage == .reading && q.cls == .edition && q.ordersMade == 1)
      && (t.vol.drive 0).sched.service.any (fun o => o.kind == .read && o.cyl == 1)
      && (t.vol.entry 0 0).any (fun e => e.readers == 1)) = true := by decide +kernel

theorem test_draw_of_an_empty_version : nextIs (exec (.draw 0 9 0 0 0 (name 0x42)) desk) (fun t =>
    (t.vol.port 0).store == [⟨[0x80, 9, 0, 0, 0, 0, 1, 0, 1, 1, 0, 0, 0], .plain⟩]
      && (t.vol.entry 0 1).any (fun e => e.holder == some 0 && e.readers == 0)) = true := by decide +kernel

theorem test_draw_of_a_held_story : nextIs (exec (.draw 0 9 0 0 0 (name 0x44)) desk) (fun t =>
    (t.vol.port 0).store == [⟨[0x80, 9, 0x23], .plain⟩]) = true := by decide +kernel

theorem test_meets_FileOpensItsFiling :
    desk.bat.mayFile 0 0 = true ∧ (desk.vol.drive 0).seq.writeProtected = false ∧ (desk.vol.drive 0).cat.fault = false
      ∧ (desk.vol.drive 0).cat.copySource = false ∧ desk.bat.editionState 8 ≠ .closed
      ∧ desk.vol.mirror 0 = some mirror0 ∧ storyAt 0x41 0 = true
      ∧ mirror0.lookup (name 0x45) = none ∧ mirror0.reservedFor (name 0x45) = false ∧ mirror0.freeSlot = some 3
      ∧ parseStory 9 0 3 8 (name 0x45) = some ⟨0, .flash, 8, name 0x45⟩ := by decide +kernel

theorem test_file_reserves_a_slot : nextIs (exec (.file 0 9 0 1 0 (name 0x45)) desk) (fun t =>
    (t.vol.req 0).any (fun q => q.stage == .opened && q.slot == 3)
      && (t.vol.entry 0 3).any (fun e => e.filing == some 0 && e.reserved == some (name 0x45))
      && (t.vol.port 0).store == [⟨[0x80, 9, 1, 0, 0], .plain⟩]) = true := by decide +kernel

/-- The request a SPIKE of A opens. -/
def spike0 : Request := newRequest 9 .spike ⟨0, .edition, 0, name 0x41⟩ .waiting 0 0

theorem test_meets_SpikesAndCommitsEnterTheirCatalogWrite :
    parseSpike 9 0 3 (name 0x41) = some ⟨0, .flash, 0, name 0x41⟩
      ∧ spike0 = newRequest 9 .spike ⟨0, clampClass (desk.bat.ceiling 0) .flash, 0, name 0x41⟩ .waiting 0 desk.vol.stamp
      ∧ (1 ≤ desk.vol.freeBufs ∧ (desk.vol.entry 0 0).map Entry.readers = some 0 ∧ (noBuffers desk.vol).freeBufs = 0)
      ∧ desk.vol.freeRecord ≠ none ∧ ({ desk.vol with retired := Vector.replicate 8 (.claimed 0 5) } : Vol).freeRecord = none
      ∧ (desk.vol.takeBuf 0 ≠ none ∧ spike0.catBuf = none ∧ ({ filing0 .closing 0 none with catBuf := some 3 } : Request).catBuf
        = some 3) := by decide +kernel

/-- A filing of story C's slot, reserved or not, whose entry has a reader or none, entering its catalog write. -/
def entering (reserved : Option (List Byte)) (readers : Nat) : Vol :=
  ((withRequest { filing0 .closing 3 none with slot := 1, catBuf := some 3 }).vol.modEntry 0 1 (fun e =>
    { e with reserved, readers })).enterWrite desk.bat 0

theorem test_a_commit_enters_its_write :
    ((entering none 1).entry 0 1).bind Entry.catWrite = some { req := 0, spike := false, record := some 0, image :=
        { state := .filed, slug := name 0x41, edition := 0, revision := 2, timestamp := [0, 0, 0, 0, 0, 0], length := 3,
          extents := [] } }
      ∧ (entering none 1).record 0 = .claimed 0 0
      ∧ (((entering (some (name 0x41)) 0).entry 0 1).bind Entry.catWrite).any (fun w =>
        w.image.revision == 1 && w.record == none) = true
      ∧ ((entering none 1).drive 0).sched.queue.any (fun o => o.kind == .catalogWrite && o.side == 0 && o.first == 1
        && o.buffers == [3]) = true
      ∧ [111, 112].map slotPlace = [(0, 7), (1, 0)] := by decide +kernel

theorem test_spike_writes_its_slot : nextIs (exec (.spike 0 9 0 3 (name 0x41)) desk) (fun t =>
    (t.vol.req 0).any (fun q => q.stage == .writing && q.catBuf == some 0)
      && (t.vol.drive 0).sched.service.any (fun o => o.kind == .catalogWrite && o.cyl == 0 && o.first == 1)) = true := by
  decide +kernel

/-- Two commits in COMMIT WAIT, of entries with readers or without, the second waiting longer. -/
def waiting2 (readers : Nat) : Vol :=
  let q := { filing0 .commitWait 0 none with waitSince := 5 }
  (((withRequest q).vol.setReq 2 (some { q with slot := 1, waitSince := 4 })).modEntry 0 0 (fun e =>
    { e with readers })).modEntry 0 1 (fun e => { e with readers })

theorem test_meets_SpikesAndCommitsEnterTheirCatalogWrite_waits :
    ((waiting2 1).offeredWrites = [2] ∧ (waiting2 0).offeredWrites = [0, 2])
      ∧ (noBuffers (waiting2 1)).offeredWrites = []
      ∧ ({ waiting2 1 with retired := Vector.replicate 8 (.claimed 0 5) } : Vol).offeredWrites = [] := by decide +kernel

/-- A filing's session of a length, its fill buffer 0 holding some bytes of text. -/
def session1 (length bytes : Nat) : Session := { session0 length (some 0) with fillBytes := bytes }

/-- A filing in OPEN at a length, with its fill buffer 0 holding this text. -/
def texting (length : Nat) (data : List Byte) : State :=
  onVol (withRequest { request0 .file .opened with session := some (session1 length data.length) }) (fun v =>
    v.setBuf 0 { owner := some 0, data := padTo 1024 data })

theorem test_meets_TextJoinsItsFiling_line :
    (texting 0 []).hears 0 ∧ (onVol (texting 0 (List.replicate 1000 0)) noBuffers).hears 0 := by
  unfold State.hears
  decide +kernel

theorem test_meets_TextJoinsItsFiling :
    ((texting 65534 []).vol.openFiling 0 9 = some 0
        ∧ ((texting 65534 []).vol.req 0).bind Request.session = some (session1 65534 0)
        ∧ ¬ 1024 < (session1 65534 0).fillBytes + 1)
      ∧ (65535 < 65534 + 2)
      ∧ (1024 < (session1 0 1000).fillBytes + 25 ∧ 1 ≤ (texting 0 []).vol.freeBufs ∧ (texting 0 []).vol.heldBufs 0 < 8)
      ∧ (onVol (texting 0 (List.replicate 1000 0)) noBuffers).vol.freeBufs = 0
      ∧ (onVol (texting 0 (List.replicate 1000 0)) noBuffers).vol.openFiling 0 9 = some 0
      ∧ ((session0 0 none).fill = none ∧ (withRequest (filing0 .opened 0 none)).vol.takeBuf 0 ≠ none)
      ∧ (∀ n ∈ [23, 24, 25], (session1 0 1000).fill = some 0 ∧ (session1 0 1000).fillBytes + n ∈ [1023, 1024, 1025])
      ∧ (((texting 0 (List.replicate 1000 0)).vol.setBuf 0 { owner := some 0, data := [] }).takeBuf 0 ≠ none)
      ∧ (noBuffers desk.vol).takeBuf 0 = none := by decide +kernel

theorem test_text_fills_a_buffer :
    nextIs (exec (.text 0 9 (List.replicate 25 0x41)) (texting 1000 (List.replicate 1000 0x40))) (fun t =>
      (t.vol.req 0).any (fun q => q.session.any (fun ses => ses.length == 1025 && ses.fill == some 1 && ses.full == []
        && ses.fillBytes == 1 && ses.pending == [⟨1, 0, 1, 1⟩]))
      && (t.vol.buf 0).data == List.replicate 1000 0x40 ++ List.replicate 24 0x41
      && (t.vol.buf 1).data == 0x41 :: List.replicate 1023 0
      && (t.vol.port 0).store == [⟨[0x80, 9, 1, 4, 1], .plain⟩]) = true := by decide +kernel

theorem test_text_too_long :
    nextIs (exec (.text 0 9 [1, 2]) (texting 65534 [])) (fun t =>
      t.vol.req 0 == none && (t.vol.port 0).store == [⟨[0x80, 9, 0x28], .plain⟩]) = true := by decide +kernel

/-- A filing at a length whose write order is at work. -/
def textingAtWork (phase : Phase) : State :=
  working .order phase (some (order0 .write .write .routine 0)) (texting 65534 [])

theorem test_text_too_long_of_an_order_at_work :
    nextIs (exec (.text 0 9 [1, 2]) (textingAtWork .transfer)) (fun t =>
      (t.vol.req 0).any (fun q => q.stage == .ending && q.outcome == some .tooLong)
        && (t.vol.drive 0).sched.service.isSome && (t.vol.port 0).store == []) = true
      ∧ nextIs (exec (.text 0 9 [1, 2]) (textingAtWork .positioning)) (fun t =>
        t.vol.req 0 == none && (t.vol.drive 0).sched.service.isNone
          && (t.vol.port 0).store == [⟨[0x80, 9, 0x28], .plain⟩]) = true := by decide +kernel

/-- The filing whose commit is due, in CLOSING, its buffer kept or none. -/
def dueVol (buffer : Option BufNo) : Vol := (withRequest { filing0 .closing 0 none with catBuf := buffer }).vol

theorem test_meets_CloseEndsTheText :
    parseFlag 0 = some false ∧ parseFlag 1 = some true
      ∧ (withRequest (filing0 .opened 0 none)).vol.openFiling 0 9 = some 0
      ∧ ((withRequest (filing0 .opened 0 none)).vol.req 0).bind Request.session = some (session0 0 none)
      ∧ ((withRequest (filing0 .opened 0 none)).vol.drive 0).sched.hasOrder 0 = false
      ∧ (writing0.vol.drive 0).sched.hasOrder 0 = true ∧ (session1 0 5).fill ≠ none
      ∧ (chooseRun [] 0 1 = none ∧ chooseRun mirror0.free 0 1 = some (1, 1)
        ∧ growExtents (List.replicate 12 ⟨1, 0, 0, 1⟩) 8 1 = none ∧ growExtents [] 8 1 = some [⟨1, 1, 0, 1⟩])
      ∧ (1 ≤ (dueVol none).freeBufs ∧ ((dueVol none).entry 0 0).map Entry.readers = some 0)
      ∧ ((noBuffers (dueVol none)).freeBufs = 0 ∧ (dueVol (some 0)).takeBuf 0 ≠ none) := by
  decide +kernel

/-- A filing at a WRITE order that ends, at a stage with these full buffers. -/
def writesOut (stage : Stage) (full : List BufNo) : Vol :=
  (working .order .transfer (some { order0 .write .write .routine 0 with buffers := [0, 1] })
    (withRequest { filing0 stage 10 none with session := some { session0 10 none with full } })).vol

theorem test_meets_CloseEndsTheText_ends : ∀ p ∈ [(Stage.opened, ([2] : List BufNo)), (.opened, []), (.closing, [])],
    ((writesOut p.1 p.2).drive 0).sched.service = some { order0 .write .write .routine 0 with buffers := [0, 1] }
      ∧ (writesOut p.1 p.2).req 0 = some { filing0 p.1 10 none with session := some { session0 10 none with full := p.2 } } := by
  decide +kernel

theorem test_a_write_order_ends :
    ((writesOut .opened [2]).orderEnd desk.bat 0 .done |>.drive 0).sched.queue.map Order.buffers = [[2]]
      ∧ ((writesOut .closing []).orderEnd desk.bat 0 .done |>.req 0).any (fun q => q.stage == .committing && q.catBuf == some 0)
        = true
      ∧ ((writesOut .opened []).orderEnd desk.bat 0 .done |>.req 0) = (writesOut .opened []).req 0
      ∧ ((writesOut .opened []).orderEnd desk.bat 0 .writeFault |>.req 0).bind Request.outcome = some .writeFault := by
  decide +kernel

theorem test_commit_due_takes_a_buffer :
    (∀ n ∈ [none, some 0], (((dueVol n).commitDue desk.bat 0).req 0).any (fun q =>
        q.stage == .committing && q.catBuf == some 0) = true)
      ∧ (((((dueVol none).modEntry 0 0 (fun e => { e with readers := 1 })).setRecord 0 (.claimed 0 5)).commitDue desk.bat 0).req
        0).any (fun q => q.stage == .committing) = true
      ∧ ((({ ((dueVol none).modEntry 0 0 (fun e => { e with readers := 1 })) with
          retired := Vector.replicate 8 (.claimed 0 5) } : Vol).commitDue desk.bat 0).req 0).any (fun q =>
        q.stage == .commitWait && q.catBuf == some 0) = true
      ∧ (((noBuffers (dueVol none)).commitDue desk.bat 0).req 0).any (fun q =>
        q.stage == .commitWait && q.catBuf == none) = true := by decide +kernel

theorem test_close_writes_the_last_buffer :
    nextIs (exec (.close 0 9 1) (texting 5 [1, 2, 3, 4, 5])) (fun t =>
      (t.vol.req 0).any (fun q => q.stage == .closing && q.session.any (fun ses => ses.keepHold && !ses.idle))
        && (t.vol.buf 0).data.length == 1024
        && (t.vol.drive 0).sched.service.any (fun o => o.kind == .write && o.buffers == [0])) = true := by
  decide +kernel

theorem test_meets_ReleaseAndBreakDropTheHold :
    parseNamed 9 0 (name 0x44) = some (0, name 0x44) ∧ (desk.vol.mirror 0).bind (fun m => m.lookup (name 0x44)) = some 4
      ∧ (desk.vol.entry 0 4).bind Entry.holder = some 1 ∧ desk.vol.mount 0 = .ready := by decide +kernel

theorem test_meets_ReleaseAndBreakDropTheHold_lines : desk.hears 1 ∧ desk.hears 2 ∧ desk.hears supervisorLine := by
  unfold State.hears
  decide +kernel

theorem test_release_drops_its_hold : nextIs (exec (.release 1 9 0 (name 0x44)) desk) (fun t =>
    (t.vol.entry 0 4).any (fun e => e.holder == none)) = true := by decide +kernel

theorem test_break_tells_the_holder : nextIs (exec (.breakHold 8 9 0 (name 0x44)) desk) (fun t =>
    (t.vol.entry 0 4).any (fun e => e.holder == none)
      && (t.vol.port 1).store == [⟨[0x83, 0, 0, 0, 0, 1, 0], .plain⟩]) = true := by decide +kernel

theorem test_meets_ListJoinsTheReplyList :
    parseList 9 0 0 (List.replicate 12 0) = some (0, []) ∧ parseList 9 0 12 (name 0x41) = some (0, name 0x41)
      ∧ parseList 9 0 13 (name 0x41) = none ∧ desk.bat.mayRead 0 0 = true ∧ desk.vol.mirror 0 = some mirror0 := by
  decide +kernel

theorem test_list_of_a_prefix : nextIs (exec (.list 0 9 0 1 (0x64 :: List.replicate 11 0xFF)) desk) (fun t =>
    ((t.vol.port 0).store.map (fun f => f.body.take 4)) == [[0x82, 9, 1, 4], [0x80, 9, 0, 1]]) = true := by
  decide +kernel

/-- The machine where a CANCEL of line 0 finds this request, its order in service, or not. -/
def cancelling (q : Request) (o : Option Order) : State := working .none .idle o (withRequest q)

theorem test_meets_CancelEndsItsRequest_line : (cancelling (request0 .fetch .reading) none).hears 0 := by
  unfold State.hears
  decide +kernel

theorem test_meets_CancelEndsItsRequest :
    (∀ q ∈ [request0 .fetch .answered, filing0 .committing 0 none, request0 .spike .writing, request0 .fetch .ending,
        request0 .format .running, request0 .copy .opening, request0 .copy .tracks, request0 .fetch .reading],
      (withRequest q).vol.tagged 0 9 = some 0 ∧ (withRequest q).vol.inLabelUnit q = false)
      ∧ ((cancelling (request0 .fetch .reading) none).vol.takeOut 0 0 0).2 = true
      ∧ ((cancelling (request0 .fetch .reading) (some (order0 .read .verify .routine 0))).vol.takeOut 0 0 0).2 = false
      ∧ (working (.unit (unit0 .label false [] [0])) (.unitPass false false) none
          (withRequest (request0 .format .running))).vol.inLabelUnit (request0 .format .running) = true := by
  decide +kernel

theorem test_meets_CancelEndsItsRequest_orders :
    (∀ o ∈ [order0 .read .read .routine 0, order0 .write .verify .routine 0],
      ∀ p ∈ [Phase.positioning, .transfer],
        ((working .order p (some o) (withRequest (request0 .fetch .ending))).vol.drive 0).sched.service = some o
          ∧ ((working .order p (some o) (withRequest (request0 .fetch .ending))).vol.drive 0).seq.phase = p)
      ∧ (desk.vol.drive 0).sched.service = none ∧ (0 : DriveNo) ≠ 1
      ∧ (request0 .fetch .ending).stage = .ending ∧ (copy0 .ending).copy ≠ none := by decide +kernel

theorem test_an_order_is_taken_out :
    (∀ p ∈ [(Phase.positioning, true), (.transfer, false)],
      ((working .order p.1 (some (order0 .read .read .routine 0)) (withRequest (request0 .fetch .reading))).vol.takeOut 0 0 0).2
        = p.2)
      ∧ (((stacked.vol.modSched 0 (fun x => { x with service := none })).takeOut 0 0 0).1.drive 0).sched.stack = []
      ∧ ((working .order .transfer (some (order0 .read .read .routine 0)) (withRequest { request0 .fetch .ending with
          outcome := some .cancelled })).vol.orderEnd desk.bat 0 .readFault |>.req 0).bind Request.outcome = some .cancelled
      ∧ (((unitDone 1 (copy0 .ending) (unit0 (.catalog 0) true [2] [])).vol.copyEnd desk.bat 0 .cancelled false).mount 1)
        = .loading := by decide +kernel

theorem test_cancel_ends_a_filing : nextIs (exec (.cancel 0 7 9) (withRequest (filing0 .opened 0 none))) (fun t =>
    t.vol.req 0 == none
      && (t.vol.port 0).store == [⟨[0x80, 9, 0x50], .plain⟩, ⟨[0x80, 7, 0], .plain⟩]) = true := by decide +kernel

/-! ## FORMAT, COPY, RECAL, RESTART and the desk lines: the hypotheses are met -/

/-- Drive 0 READY with one FREE slot and no work, drive 1 UNFORMATTED, its write-protect line as given. -/
def copying (protect : Bool) : State :=
  onVol desk (fun v => (v.modMirror 0 (fun m => { m with slots := [some (Entry.ofImage SlotImage.freeImage)] })).modCable 1
    (fun c => { c with protect }))

theorem test_meets_FormatAndCopyBegin_line : (copying false).hears supervisorLine ∧ (copying true).hears supervisorLine := by
  unfold State.hears
  decide +kernel

theorem test_meets_FormatAndCopyBegin : ∀ protect : Bool,
    parseFormat 9 1 (spaces 8) = some (1, spaces 8) ∧ parseCopy 9 0 1 = some (0, 1)
      ∧ (copying protect).vol.freeSlotOf supervisorLine = some 16
      ∧ (copying protect).vol.tagInUse supervisorLine 9 = false ∧ (copying protect).vol.mount 1 = .unformatted
      ∧ ((copying protect).vol.drive 1).seq.writeProtected = false ∧ (copying protect).vol.inUse 1 = false
      ∧ (copying protect).vol.copyCheck 0 1 = none ∧ ((copying protect).vol.drive 1).cable.protect = protect := by
  decide +kernel

theorem test_format_begins : nextIs (exec (.format 8 9 1 (spaces 8)) (copying false)) (fun t =>
    t.vol.mount 1 == .formatting && (t.vol.drive 1).seq.phase == .searching 0 false false
      && (t.vol.port 8).store == [⟨[0x83, 0, 0, 0, 0, 0, 2], .plain⟩]) = true := by decide +kernel

theorem test_copy_to_a_protected_diskette : nextIs (exec (.copy 8 9 0 1) (copying true)) (fun t =>
    (t.vol.port 8).store.any (fun f => f.body == [0x80, 9, 0x21]) && t.vol.mount 1 == .loading
      && (t.vol.drive 0).sched.cursor == none && !(t.vol.drive 0).cat.copySource) = true := by decide +kernel

theorem test_meets_RecalAndRestartAreTaken :
    parseOnlyDrive 9 0 = some 0 ∧ desk.vol.freeSlotOf supervisorLine = some 16
      ∧ desk.vol.tagInUse supervisorLine 9 = false ∧ desk.vol.mount 0 = .ready
      ∧ (desk.vol.drive 0).sched.service = none ∧ (writing0.vol.drive 0).sched.service.isSome = true
      ∧ writing0.vol.freeSlotOf supervisorLine = some 16 ∧ writing0.vol.mount 0 = .ready := by decide +kernel

theorem test_meets_RecalAndRestartAreTaken_line : desk.hears supervisorLine ∧ writing0.hears supervisorLine := by
  unfold State.hears
  decide +kernel

theorem test_recal_steps_outward : nextIs (exec (.recal 8 9 0) desk) (fun t =>
    (t.vol.drive 0).sched.service.any (fun o => o.kind == .recalibrate)
      && (t.vol.drive 0).seq.step == some { inward := false, units := 36 }) = true := by decide +kernel

theorem test_restart_is_answered : nextIs (exec (.restart 8 9) desk) (fun t =>
    (t.vol.port 8).store == [⟨[0x80, 9, 0], .restart⟩]) = true := by decide +kernel

/-- A command of line k is answered with an outcome and no data. -/
def answers (s : State) (k : Line) (c : Instr) (oc : OutcomeCode) : Bool :=
  nextIs (exec c s) (fun t => (t.vol.port k).store.any (fun f => f.body == answerBody 9 oc []))

/-- Line 0 with both request slots taken. -/
def noSlots : State := onVol (withRequest (request0 .fetch .reading)) (fun v =>
  v.setReq 1 (some { request0 .fetch .reading with tag := 8 }))

/-- Line 0 may read and file no drive. -/
def barred : State := { desk with bat := { desk.bat with
  settings := (desk.bat.settings.store (.desk 0 2) 0).store (.desk 0 3) 0 } }

/-- Drive 0 of the desk write-protected, or with its catalog fault, or a COPY's source. -/
def gated (protect fault source : Bool) : State := onVol desk (fun v =>
  (v.modSeq 0 (fun q => { q with writeProtected := protect })).modCat 0 (fun c =>
    { c with fault := fault, copySource := source }))

theorem test_meets_RefusedCommandsAreOnlyAnswered_line :
    desk.hears 0 ∧ noSlots.hears 0 ∧ barred.hears 0 ∧ (gated true true true).hears 0 ∧ desk.hears 8 := by
  unfold State.hears
  decide +kernel

theorem test_meets_RefusedCommandsAreOnlyAnswered :
    firstFailure [(False, .noSlot), (True, .badTag), (True, .held)] .badTag ∧ ¬ firstFailure [(False, .noSlot)] .noSlot := by
  simp [firstFailure]

theorem test_refused_stories :
    (∀ p ∈ [(Instr.fetch 0 9 4 0 0 (name 0x41), OutcomeCode.malformed), (.fetch 0 9 1 0 0 (name 0x41), .notReady),
        (.fetch 0 9 0 0 0 (name 0x5A), .notFound), (.draw 0 9 0 0 9 (name 0x41), .malformed),
        (.draw 0 9 1 0 0 (name 0x41), .notReady), (.draw 0 9 0 0 0 (name 0x44), .held),
        (.draw 0 9 0 0 0 (name 0x5A), .notFound), (.file 0 9 0 4 0 (name 0x41), .malformed),
        (.file 0 9 1 0 0 (name 0x41), .notReady), (.file 0 9 0 0 0 (name 0x44), .held),
        (.file 0 9 0 0 0 (name 0x43), .inUse), (.spike 0 9 0 0 (spaces 12), .malformed),
        (.spike 0 9 1 0 (name 0x41), .notReady), (.spike 0 9 0 0 (name 0x5A), .notFound),
        (.spike 0 9 0 0 (name 0x44), .held), (.spike 0 9 0 0 (name 0x43), .inUse)], answers desk 0 p.1 p.2 = true)
      ∧ (∀ c ∈ [Instr.fetch 0 9 0 0 0 (name 0x41), .draw 0 9 0 0 0 (name 0x41), .file 0 9 0 0 0 (name 0x41),
          .spike 0 9 0 0 (name 0x41)], answers noSlots 0 c .noSlot = true ∧ answers barred 0 c .notPermitted = true
            ∧ answers (withRequest (request0 .fetch .reading)) 0 c .badTag = true) := by decide +kernel

theorem test_refused_at_the_gates :
    (∀ c ∈ [Instr.file 0 9 0 0 0 (name 0x41), .spike 0 9 0 0 (name 0x41)],
        answers (gated true true true) 0 c .writeProtected = true ∧ answers (gated false true true) 0 c .catalogFault = true
          ∧ answers (gated false false true) 0 c .copyRunning = true)
      ∧ (∀ p ∈ [(Instr.text 0 9 [], OutcomeCode.malformed), (.text 0 9 [1], .badTag), (.close 0 9 2, .malformed),
          (.close 0 9 0, .badTag), (.cancel 0 9 1, .badTag), (.release 0 9 4 (name 0x41), .malformed),
          (.release 0 9 1 (name 0x41), .notReady), (.release 0 9 0 (name 0x44), .notFound),
          (.list 0 9 0 13 (name 0x41), .malformed), (.list 0 9 1 0 (name 0x41), .notReady), (.drive 0 9 4, .malformed),
          (.breakHold 0 9 0 (name 0x41), .notPermitted), (.format 0 9 0 (spaces 8), .notPermitted),
          (.copy 0 9 0 1, .notPermitted), (.copy 0 9 0 0, .malformed), (.recal 0 9 0, .notPermitted),
          (.set 0 9 5 0, .malformed), (.set 0 9 0 0, .notPermitted), (.get 0 9 0, .notPermitted),
          (.trim 0 9 0, .notPermitted), (.round 0 9, .notPermitted), (.restart 0 9, .notPermitted),
          (.settime 0 9 0 1 1 0 0 0, .notPermitted), (.edition 0 9 1 1 0 0 1 0 0, .notPermitted)],
        answers desk 0 p.1 p.2 = true)
      ∧ (∀ c ∈ [Instr.list 0 9 0 0 (name 0x41), .drive 0 9 0], answers barred 0 c .notPermitted = true)
      ∧ (∀ p ∈ [(Instr.breakHold 8 9 1 (name 0x41), OutcomeCode.notReady), (.breakHold 8 9 0 (name 0x41), .notFound),
          (.format 8 9 2 (spaces 8), .notReady), (.format 8 9 0 (spaces 8), .inUse), (.copy 8 9 1 0, .notReady),
          (.copy 8 9 0 2, .notReady), (.recal 8 9 1, .notReady)], answers desk 8 p.1 p.2 = true) := by decide +kernel

/-! ## The lines: the hypotheses are met -/

theorem test_meets_CharactersBuildAFrame : ∀ a ∈ [Assembler.hunt, .lengthField none, .lengthField (some 0),
      .lengthField (some 1), .body 0 2 [], .body 0 2 [0x0A], .check 0 2 [0x0A, 5] none, .discard],
    (assembling a).vol.live = true ∧ ((assembling a).vol.port 0).detector = .idle
      ∧ ((assembling a).vol.port 0).assembler = a := by decide +kernel

theorem test_meets_CharactersBuildAFrame_lengths :
    2 ≤ (0 : Byte).toNat * 256 + (2 : Byte).toNat ∧ (1 : Byte).toNat * 256 + (4 : Byte).toNat ≤ 260
      ∧ 1 < (0 : Byte).toNat * 256 + (2 : Byte).toNat ∧ (0 : Byte).toNat * 256 + (2 : Byte).toNat ≤ 2 := by decide

/-- Line 0 with a whole frame but its last byte. -/
def lastByte (kept : List Byte) (first : Byte) : State := assembling (.check 0 2 kept (some first))

theorem test_meets_FrameCompleteActsAsItsCommand :
    checkBytes (crc ([0, 2] ++ [0x0A, 5])) = [0x55, 0xCE] ∧ Instr.ofBody 0 [0x0A, 5] = some (.status 0 5)
      ∧ checkBytes (crc ([0, 2] ++ [0x7F, 5])) = [0xA2, 0x62] ∧ Instr.ofBody 0 [0x7F, 5] = none
      ∧ (lastByte [0x0A, 5] 0x55).vol.live = true
      ∧ ((lastByte [0x0A, 5] 0x55).vol.modPort 0 (fun p =>
          { p with assembler := .hunt, gapTimer := false, silenceTimer := false })).passes
        (lastByte [0x0A, 5] 0x55).bat 0 = true := by decide +kernel

theorem test_frame_complete_is_its_command :
    nextIs (exec (.frameComplete 0 0xCE) (lastByte [0x0A, 5] 0x55)) (fun t =>
      nextIs (exec (.status 0 5) quiet) (fun u => t == u)) = true := by decide +kernel

theorem test_character_completes_a_frame :
    nextIs (exec (.characterReceived 0 0xCE) (lastByte [0x0A, 5] 0x55)) (fun t =>
      nextIs (exec (.status 0 5) quiet) (fun u => t == u)) = true := by decide +kernel

theorem test_meets_FaultedFramesAreAnsweredFrameFault :
    ((1 : Byte).toNat * 256 + (5 : Byte).toNat > 260 ∧ (0 : Byte).toNat * 256 + (1 : Byte).toNat < 2)
      ∧ ((assembling (.lengthField (some 1))).vol.port 0).assembler = .lengthField (some 1)
      ∧ checkBytes (crc ([0, 2] ++ [0x0A, 5])) ≠ [0x55, 0xCF]
      ∧ (onVol quiet (fun v => v.modPort 0 (fun p => { p with gapTimer := true }))).vol.live = true
      ∧ ((onVol quiet (fun v => v.modPort 0 (fun p => { p with gapTimer := true }))).vol.port 0).gapTimer = true
      ∧ quiet.bat.lineEnabled 0 = true ∧ quiet.vol.directCount 0 < 16 ∧ disabled.bat.lineEnabled 0 = false := by
  decide +kernel

theorem test_frame_fault_is_answered : nextIs (exec (.frameFault 0 (.badLength 5)) (assembling (.lengthField (some 1))))
    (fun t => (t.vol.port 0).assembler == .discard && (t.vol.port 0).silenceTimer
      && (t.vol.port 0).store == [⟨[0x80, 0, 0x10], .plain⟩]) = true := by decide +kernel

theorem test_meets_BreaksSilenceAndMark :
    (desk.vol.port 1).detector = .idle ∧ desk.vol.live = true ∧ (desk.vol.entry 0 4).bind Entry.holder = some 1
      ∧ ((onVol quiet (fun v => v.modPort 0 (fun p => { p with detector := .timing }))).vol.port 0).detector = .timing
      ∧ ((onVol quiet (fun v => v.modPort 0 (fun p => { p with silenceTimer := true }))).vol.port 0).silenceTimer = true := by
  decide +kernel

theorem test_meets_BreaksSilenceAndMark_requests :
    (∀ q ∈ [request0 .fetch .answered, request0 .fetch .ending, filing0 .committing 0 none, request0 .spike .writing,
        copy0 .label, request0 .format .running, copy0 .opening, copy0 .tracks, request0 .fetch .reading],
      (withRequest q).vol.req 0 = some q)
      ∧ ((working (.unit (unit0 .label false [] [0])) (.unitPass false false) none
          (withRequest (request0 .format .running))).vol.drive 0).seq.job = .unit (unit0 .label false [] [0]) := by
  decide +kernel

theorem test_line_reset_of_requests :
    ((withRequest (request0 .fetch .answered)).vol.lineResetRequest desk.bat 0).req 0 = none
      ∧ ((withRequest (filing0 .committing 0 none)).vol.lineResetRequest desk.bat 0).req 0
        = some { filing0 .committing 0 none with silent := true }
      ∧ ((withRequest (copy0 .opening)).vol.lineResetRequest desk.bat 0).req 0
        = some { copy0 .ending with silent := true, outcome := some .cancelled }
      ∧ ((withRequest (request0 .fetch .reading)).vol.lineResetRequest desk.bat 0).req 0 = none
      ∧ (writing0.vol.lineResetRequest desk.bat 0).req 0
        = (writing0.vol.req 0).map (fun q => { q with stage := .ending, outcome := some .cancelled, silent := true })
      ∧ ((quiet.vol.discardMark { quiet.bat with settings := quiet.bat.settings.store (.desk 2 4) 0 } (.rate 2)).port 2).rate
        = 0 := by decide +kernel

theorem test_line_break_drops_holds : nextIs (exec (.lineBreak 1) desk) (fun t =>
    (t.vol.port 1).detector == .timing && (t.vol.entry 0 4).any (fun e => e.holder == none)
      && (t.vol.port 1).store == [⟨[0x83, 0, 1, 0, 0, 0, 0], .plain⟩]) = true := by decide +kernel

/-- Line 8 with one frame to send. -/
def sending (mark : Mark) : State :=
  { onVol quiet (fun v => v.modPort 8 (fun p => { p with store := [⟨[0x80, 1, 0], mark⟩] })) with
    bat := { quiet.bat with settings := quiet.bat.settings.store (.desk 2 4) 0 } }

theorem test_meets_SentFramesLeaveTheStore : ∀ m ∈ [Mark.plain, .restart, .rate 2],
    (sending m).vol.live = true ∧ ((sending m).vol.port 8).store = [⟨[0x80, 1, 0], m⟩] := by decide +kernel

theorem test_frame_sent_changes_the_rate : nextIs (exec (.frameSent 8) (sending (.rate 2))) (fun t =>
    (t.vol.port 2).rate == 0 && (t.vol.port 2).assembler == .hunt && (t.vol.port 8).store == []) = true := by
  decide +kernel

theorem test_frame_sent_restarts : nextIs (exec (.frameSent 8) (sending .restart)) (fun t =>
    (t.vol.port 2).rate == 0 && (t.vol.port 5).store == [⟨[0x83, 0, 1, 0, 0, 0, 0], .plain⟩]) = true := by
  decide +kernel

theorem test_meets_RepliesNoticesAndTextArePlaced :
    quiet.vol.live = true ∧ quiet.vol.followOn quiet.bat = none ∧ (∀ d, (quiet.vol.drive d).sched.service = none)
      ∧ (quiet.vol.port 0).store.length < 6 := by decide +kernel

/-- A fetch with text ready in buffer 0, at a place in a version of this length. -/
def reading (length delivered : Nat) : State :=
  onVol (withRequest { request0 .fetch .delivering with
    chain := [0], filled := 1, delivered, info := { length, revision := 0, timestamp := [], extents := [] } }) (fun v =>
      v.setBuf 0 { owner := some 0, data := List.replicate 1024 0x41 })

theorem test_meets_RepliesNoticesAndTextArePlaced_text :
    (∀ n ∈ [0, 768], ((reading 2000 n).vol.req 0).map Request.chain = some [0])
      ∧ (reading 2000 0).vol.textSource 0 = some 0 ∧ quiet.vol.textSource 0 = none
      ∧ (quiet.vol.port 0).notice = Notice.clear ∧ (State.reset.vol.port 0).notice ≠ Notice.clear
      ∧ (State.reset.vol.port 0).replies = [] ∧ State.reset.vol.req 0 = none ∧ State.reset.vol.req 1 = none
      ∧ 6 ≤ (fullStore.vol.port 0).store.length := by decide +kernel

theorem test_text_and_notices_are_placed :
    ((reading 2000 0).vol.placeText 0 0).req 0 = ((reading 2000 256).vol.req 0)
      ∧ ((reading 2000 768).vol.placeText 0 0).buf 0 = { owner := none, data := List.replicate 1024 0x41 }
      ∧ (((reading 1000 768).vol.placeText 0 0).port 0).store = [⟨[0x81, 9] ++ List.replicate 232 0x41, .plain⟩]
      ∧ (((reading 1000 768).vol.placeText 0 0).req 0).any (fun q => q.stage == .answered && q.outcome == some .done) = true
      ∧ (State.reset.vol.placeFirst 8).any (fun v => (v.port 8).notice == Notice.clear
        && (v.port 8).store == [⟨[0x83, 0, 3, 0, 0, 0, 0], .plain⟩]) = true := by decide +kernel

/-- A reply made at a moment. -/
def made (n : Nat) (final : Bool) (body : ReplyBody) : Waiting := { body, direct := true, final, mark := .plain, made := n }

/-- Line 0 with a reply in its list and one in each of its requests, made at these moments. -/
def waiting3 (a b c : Nat) : Vol :=
  let q := { request0 .file .opened with replies := [made b false (.single [2]), made 9 false (.single [4])] }
  ((withRequest q).vol.setReq 1 (some { request0 .fetch .answered with replies := [made c true (.single [3])] })).modPort 0
    (fun p => { p with replies := [made a false (.single [1])] })

/-- Line 0 with a LIST item of ten records and the ANSWER's count. -/
def listed (records : List (List Byte)) : Vol :=
  desk.vol.modPort 0 (fun p => { p with replies := [made 3 false (.listing 7 records 10)] })

theorem test_meets_RepliesNoticesAndTextArePlaced_oldest :
    (waiting3 3 4 5).oldestReply 0 = some (made 3 false (.single [1]), none)
      ∧ (waiting3 4 3 5).oldestReply 0 = some (made 3 false (.single [2]), some 0)
      ∧ (waiting3 5 4 3).oldestReply 0 = some (made 3 true (.single [3]), some 1)
      ∧ (listed (List.replicate 10 [8])).oldestReply 0
        = some (made 3 false (.listing 7 (List.replicate 10 [8]) 10), none)
      ∧ (listed []).oldestReply 0 = some (made 3 false (.listing 7 [] 10), none)
      ∧ desk.vol.oldestReply 0 = none ∧ ((waiting3 5 4 3).port 0).store.length < 6 := by decide +kernel

theorem test_the_oldest_reply_is_placed :
    ((waiting3 4 3 5).placeFirst 0).any (fun v => (v.port 0).store == [⟨[2], .plain⟩]
        && (v.req 0).any (fun q => q.replies == [made 9 false (.single [4])])) = true
      ∧ ((waiting3 5 4 3).placeFirst 0).any (fun v => (v.port 0).store == [⟨[3], .plain⟩] && v.req 1 == none) = true
      ∧ ((listed (List.replicate 10 [8])).placeFirst 0).any (fun v =>
        (v.port 0).store == [⟨[0x82, 7, 9] ++ List.replicate 9 8, .plain⟩]
          && (v.port 0).replies == [made 3 false (.listing 7 [[8]] 10)]) = true
      ∧ ((listed []).placeFirst 0).any (fun v =>
        (v.port 0).store == [⟨[0x80, 7, 0, 10], .plain⟩] && (v.port 0).replies == []) = true := by decide +kernel

theorem test_answer_is_placed_at_once : nextIs (exec (.time 0 5) quiet) (fun t => t == { quiet with vol :=
    { quiet.vol.modPort 0 (fun p => { p with store := p.store ++
        [{ body := [0x80, 5, 0x00] ++ quiet.bat.clock.fields ++ [0], mark := .plain }] }) with
      stamp := quiet.vol.stamp + 1 } }) = true := by decide +kernel

/-! ## Power, RESET and the drives: the hypotheses are met -/

/-- The quiet machine with the RESET input held. -/
def held : State := onVol quiet (fun v => { v with resetHeld := true })

theorem test_meets_PowerAndResetEventsResetTheBlocks :
    dark.vol.power = false ∧ quiet.vol.power = true ∧ quiet.vol.resetHeld = false ∧ held.vol.resetHeld = true := by
  decide +kernel

theorem test_battery_loss_tells_the_supervisor : nextIs (exec (.powerOn false) dark) (fun t =>
    t.bat == Battery.default && (t.vol.port 8).store == [⟨[0x83, 0, 3, 0, 0, 0, 0], .plain⟩]
      && (t.vol.port 0).store == [⟨[0x83, 0, 1, 0, 0, 0, 0], .plain⟩]) = true := by decide +kernel

theorem test_reset_release_runs_the_blocks :
    nextIs (exec .resetHold quiet) (fun t => !t.vol.live && (t.vol.port 0).store == []) = true
      ∧ nextIs (exec .resetRelease held) (fun t => t.vol.live) = true := by decide +kernel

/-- Drive 0 of the desk with its sequencer changed. -/
def seq0 (f : Sequencer → Sequencer) : State := onVol desk (fun v => v.modSeq 0 f)

/-- A track-side unit that waits for the angle, its counter at a place. -/
def tracking (angle : Nat) : State :=
  onVol (working (.unit (unit0 (.track 2) false [] [])) .waitAngle none desk) (fun v =>
    v.modSeq 0 (fun q => { q with angle }))

theorem test_meets_IndexPulsesAndAngleUnitsCount :
    desk.vol.live = true ∧ ((seq0 (fun q => { q with unload := some 4 })).vol.drive 0).seq.unload = some 4
      ∧ (desk.bat.settings.drives[(0 : Fin 4)]).unload = 4 ∧ dark.vol.live = false
      ∧ (desk.vol.drive 0).seq.phase ≠ .waitAngle ∧ (desk.vol.drive 0).seq.phase ≠ .unitPass false false
      ∧ (∀ n ∈ [0, 7], ((tracking (125 * n + 7)).vol.drive 0).seq.phase = .waitAngle
        ∧ ((tracking (125 * n + 7)).vol.drive 0).seq.job = .unit (unit0 (.track 2) false [] [])
        ∧ ((tracking (125 * n + 7)).vol.drive 0).seq.angle + 1 = 125 * n + 8) := by decide +kernel

theorem test_head_unloads : nextIs (exec (.headUnload 0) (seq0 (fun q => { q with unload := some 4 }))) (fun t =>
    (t.vol.drive 0).seq.head == .unloaded && (t.vol.drive 0).seq.unload == none) = true := by decide +kernel

theorem test_angle_unit_starts_a_track : nextIs (exec (.angleUnitTick 0 false) (tracking 882)) (fun t =>
    (t.vol.drive 0).seq.phase == .unitPass false true && (t.vol.drive 0).seq.unit?.any (fun u =>
      u.todo == [7, 0, 1, 2, 3, 4, 5, 6])) = true := by decide +kernel

/-- A unit between two sectors of its write pass, sector 3's turn next, its counter at a place. -/
def between (kind : UnitKind) (angle : Nat) : State :=
  onVol (working (.unit (unit0 kind false [] [3, 4])) (.unitPass false false) none desk) (fun v =>
    v.modSeq 0 (fun q => { q with angle }))

theorem test_angle_units_in_a_write_pass :
    [between (.track 2) 382, between (.track 2) 381, between (.track 2) 507, between (.catalog 0) 382, tracking 883].map
        (fun s => nextIs (exec (.angleUnitTick 0 false) s) (fun t => (t.vol.drive 0).seq.phase == .unitPass false true))
      = [true, false, false, false, false]
      ∧ (382 + 1 = 125 * 3 + 8) ∧ nextIs (exec (.angleUnitTick 0 false) (tracking 883)) (fun t =>
        (t.vol.drive 0).seq.phase == .waitAngle && (t.vol.drive 0).seq.angle == 884) = true := by decide +kernel

theorem test_idle_drives_start_their_counts :
    ((seq0 (fun q => { q with idleDue := true })).vol.idleNext desk.bat).any (fun v =>
        (v.drive 0).seq.unload == some 0 && !(v.drive 0).seq.idleDue) = true
      ∧ ((seq0 (fun q => { q with idleDue := true, head := .unloaded })).vol.idleNext desk.bat).any (fun v =>
        (v.drive 0).seq.unload == none) = true
      ∧ (seq0 (fun q => { q with idleDue := true, head := .loading 5 })).vol.idleNext desk.bat = none
      ∧ desk.vol.idleNext desk.bat = none := by decide +kernel

/-- The desk with drive 0's door standing open, the opening not yet qualified. -/
def opening : State := onVol desk (fun v => v.modCable 0 (fun c => { c with doorClosed := false }))

/-- Requests of four lines, and a COPY from drive 0 with its order there. -/
def busy : Vol :=
  let v := (withRequest (request0 .draw .reading)).vol.setReq 2 (some (request0 .fetch .delivering))
  let v := v.setReq 4 (some { request0 .file .opened with silent := true })
  let v := (v.setReq 6 (some { request0 .fetch .reading with drive := 1 })).setReq 16 (some (copy0 .tracks))
  v.modSched 0 (fun x => { x with
    queue := [{ order0 .copyRead .read .background 0 with req := 16 }], cursor := some (1, 0) })

theorem test_meets_StallsAndDoorOpeningsDiscardTheWork :
    desk.vol.live = true ∧ (desk.vol.drive 0).seq.stall = true ∧ (opening.vol.drive 0).seq.doorClosed = true
      ∧ (opening.vol.drive 0).cable.doorClosed = false ∧ busy.holdsOn 1 0 = true ∧ busy.holdsOn 2 0 = false
      ∧ (busy.drive 0).sched.hasOrder 16 = true ∧ (busy.req 16).any (fun q => q.copyNames 0) = true := by decide +kernel

theorem test_discard_ends_requests :
    ((busy.discard desk.bat 0 .faulted .driveFault).req 0).any (fun q => q.stage == .answered
        && q.outcome == some .driveFault) = true
      ∧ ((busy.discard desk.bat 0 .faulted .driveFault).req 2).any (fun q => q.stage == .delivering && !q.onEntry) = true
      ∧ (busy.discard desk.bat 0 .faulted .driveFault).req 4 = none
      ∧ (busy.discard desk.bat 0 .faulted .driveFault).req 6 = busy.req 6
      ∧ ((busy.discard desk.bat 0 .faulted .driveFault).req 16).any (fun q => q.outcome == some .driveFault) = true
      ∧ ((busy.discard desk.bat 0 .faulted .driveFault).port 1).notice.holdLost = 1
      ∧ ((busy.discard desk.bat 0 .faulted .driveFault).port 2).notice.holdLost = 0
      ∧ ((busy.discard desk.bat 0 .faulted .driveFault).drive 0).seq.angle = 999 := by decide +kernel

/-- Drive 0 writing a sector of a diskette where it was formatted, or in the label's write or read-back. -/
def cutting : List State :=
  [onVol writing0 (fun v => v.modDisk 0 (fun m => m.format 1 0 0)),
    onVol (working .order (.verify { rewrite := true, found := true, todo := [0], failing := [0], writes := 1, troubled := [] })
      (some (order0 .write .verify .routine 0)) (withRequest (filing0 .opened 10 none)))
      (fun v => v.modDisk 0 (fun m => m.format 1 0 0)),
    onVol (working (.unit (unit0 (.catalog 0) false [] [1])) (.unitPass false true) none (withRequest (request0 .format .running)))
      (fun v => v.modDisk 0 (fun m => m.format 0 0 1)),
    onVol (working (.unit (unit0 .invalidate false [] [0])) .transfer none (withRequest (request0 .format .running)))
      (fun v => v.modDisk 0 (fun m => m.format 0 0 0)),
    onVol (working (.unit (unit0 .label false [] [0])) (.unitPass true true) none (withRequest (request0 .format .running)))
      (fun v => v.modDisk 0 (fun m => m.format 0 0 0))]

theorem test_meets_StallsAndDoorOpeningsDiscardTheWork_cut_off :
    (∀ s ∈ cutting, (s.vol.drive 0).cable.disk.wf = true ∧ (s.vol.drive 0).seq.stall = true)
      ∧ addressOk 1 0 0 = true ∧ addressOk 76 1 7 = true ∧ (UnitKind.track 153).place = (76, 1) := by decide +kernel

theorem test_a_write_cut_off :
    cutting.map (fun s => nextIs (exec (.indexStall 0) s) (fun t =>
      (t.vol.drive 0).cable.disk.sectors == [(16, ⟨.good 1 0 0 3, .bad⟩)])) = [true, true, false, false, false]
      ∧ cutting.map (fun s => nextIs (exec .mainPowerLoss s) (fun t =>
        (t.vol.drive 0).cable.disk.sectors == (s.vol.drive 0).cable.disk.sectors)) = [false, false, false, false, true]
      ∧ (cutting.drop 2).map (fun s => nextIs (exec .resetHold s) (fun t =>
        ((t.vol.drive 0).cable.disk.sectors.map (fun x => x.2.data)) == [.bad])) = [true, true, false] := by decide +kernel

theorem test_a_format_write_cut_off :
    tornSector 0 0 0 fresh ((Diskette.spoilFormat ⟨false, [(0, fresh)]⟩ 0 0 0 (Config.formatCutOff 0)).sector 0 0 0) :=
  tornSector_spoilFormat _ _ _ _ _ (by decide +kernel) (by decide +kernel)

theorem test_index_stall_faults_the_drive : nextIs (exec (.indexStall 0) desk) (fun t =>
    t.vol.mount 0 == .faulted && t.vol.mirror 0 == none
      && (t.vol.port 8).store == [⟨[0x83, 0, 0, 0, 0, 0, 1], .plain⟩]) = true := by decide +kernel

/-- The desk with drive 2's door standing closed, the closing not yet qualified. -/
def closing : State := onVol desk (fun v => v.modCable 2 (fun c => { c with doorClosed := true }))

theorem test_meets_DoorsAndLoading :
    (desk.vol.drive 2).cable.doorClosed ≠ true ∧ (closing.vol.drive 2).seq.doorClosed = false
      ∧ (closing.vol.drive 2).cable.doorClosed = true ∧ (closing.vol.drive 2).seq.mount = .empty := by decide +kernel

/-- LOADING of a sector at an attempt, with the label read or not. -/
def loadAt (sector attempt : Nat) (label : Option Label) : LoadWork :=
  { load0 sector with label, tries := { Tries.fresh with attempt } }

/-- A label of an empty bad list. -/
def label0 : Label := { volume := spaces 8, date := [0, 0, 0, 0, 0, 0], badCount := 0, bads := [] }

theorem test_meets_DoorsAndLoading_ends :
    parseLabel zeroSector = none ∧ parseLabel (labelBytes (spaces 8) [0, 0, 0, 0, 0, 0] 0 []) = some label0
      ∧ (loadAt 15 4 (some label0)).label = some label0 ∧ 4 ≤ (loadAt 15 4 none).tries.attempt
      ∧ (loadAt 1 2 none).tries.attempt + 1 = 3 ∧ (loadAt 1 3 none).tries.attempt + 1 ≠ 3 := by decide +kernel

theorem test_loading_goes_on_and_ends :
    (desk.vol.loadGood desk.bat 0 (loadAt 0 1 none) zeroSector).mount 0 = .unformatted
      ∧ ((desk.vol.loadGood desk.bat 0 (loadAt 15 1 (some label0)) zeroSector).mirror 0).any (fun m => m.slots.length == 16)
        = true
      ∧ (desk.vol.loadGood desk.bat 0 (loadAt 15 1 (some label0)) zeroSector).mount 0 = .ready
      ∧ ((desk.vol.loadFailed desk.bat 0 (loadAt 14 4 (some label0)) true false).drive 0).cat.fault = true
      ∧ ((desk.vol.loadFailed desk.bat 0 (loadAt 15 4 (some label0)) true false).drive 0).cat.fault = true
      ∧ ((desk.vol.loadFailed desk.bat 0 (loadAt 14 4 (some label0)) true false).drive 0).seq.retries = 1
      ∧ (desk.vol.loadFailed desk.bat 0 (loadAt 0 4 none) true false).mount 0 = .unformatted
      ∧ ((desk.vol.loadFailed desk.bat 0 (loadAt 1 1 none) true false).drive 0).seq.phase = .searching 0 false false
      ∧ ((desk.vol.loadFailed desk.bat 0 (loadAt 1 2 none) true false).drive 0).seq.phase ≠ .searching 0 false false := by
  decide +kernel

/-- A catalog sector: a FILED slot, the same again, a DAMAGED one and FREE ones. -/
def catalog1 : List Byte :=
  image1.bytes ++ image1.bytes
    ++ ({ image1 with state := .damaged, slug := name 0x42, extents := [⟨1, 0, 0, 2⟩, ⟨30, 1, 5, 1⟩, ⟨0, 0, 0, 1⟩] } : SlotImage).bytes

/-- The mirror built from that sector and one that could not be read, data sector 1 being bad. -/
def built : Mirror := buildMirror { label0 with badCount := 1, bads := [1] } [some catalog1, none]

set_option maxRecDepth 40000 in
theorem test_meets_DoorsAndLoading_built :
    (∀ i ∈ List.range 16, (slotsOfSector (some catalog1))[i]? = some (some ((catalog1.drop (64 * i)).take 64)))
      ∧ built.slots.map (fun o => o.map (fun e => e.image.state))
        = [some .filed, some .damaged, some .damaged] ++ List.replicate 13 (some .free) ++ List.replicate 16 none
      ∧ built.slots[0]? = some (some (Entry.ofImage image1))
      ∧ built.bad = [1] ∧ built.withheld = [0] ∧ built.suspect = [] ∧ built.free.length = 1211
      ∧ built.free.take 2 = [2, 3] ∧ [476, 477, 478, 479, 480].map built.free.contains = [true, false, false, false, true]
      ∧ built.faulty = true := by decide +kernel

theorem test_door_closing_loads : nextIs (exec (.doorClosing 2) closing) (fun t =>
    t.vol.mount 2 == .loading && (t.vol.drive 2).seq.recal == some 1
      && (t.vol.drive 2).seq.step == some { inward := false, units := 36 }) = true := by decide +kernel

/-- Drive 0 in the middle of a step, its cylinder and recalibration steps as given. -/
def stepping (cyl recal : Option Nat) : State := seq0 (fun q => { q with
  step := some { inward := false, units := 36 }, cyl, recal, job := .loading (load0 0), phase := .positioning })

theorem test_meets_PositioningGoesOn :
    ((stepping none (some 80)).vol.drive 0).seq.step = some { inward := false, units := 36 }
      ∧ ((stepping none (some 80)).vol.drive 0).seq.cyl = none
      ∧ 80 ≤ ((stepping none (some 80)).vol.drive 0).seq.recal.getD 0
      ∧ ¬ 80 ≤ ((stepping none (some 79)).vol.drive 0).seq.recal.getD 0
      ∧ ((stepping (some 5) none).vol.drive 0).seq.cyl = some 5
      ∧ ((seq0 (fun q => { q with settle := some 90 })).vol.drive 0).seq.settle = some 90
      ∧ ((seq0 (fun q => { q with head := .loading 210 })).vol.drive 0).seq.head = .loading 210
      ∧ (desk.vol.drive 0).seq.step = none ∧ (desk.vol.drive 0).seq.cyl = some 0 ∧ (0 : Nat) ≠ 76
      ∧ ((seq0 (fun q => { q with settleOwed := true })).vol.drive 0).seq.step = none
      ∧ ((seq0 (fun q => { q with settleOwed := true, cyl := none })).vol.drive 0).seq.cyl = none := by decide +kernel

theorem test_a_settle_owed_outlives_a_recalibration :
    (((desk.vol.drive 0).seq.beginStep { step := 36, settle := 90, load := 210 } false).beginRecal).settleOwed = true
      ∧ (Sequencer.go { step := 36, settle := 90, load := 210 } true 0 true
        { ((desk.vol.drive 0).seq.beginStep { step := 36, settle := 90, load := 210 } false).beginRecal with
          step := none }).settle = some 90 := by decide +kernel

theorem test_step_fails_a_recalibration : nextIs (exec (.stepDone 0 false) (stepping none (some 80))) (fun t =>
    t.vol.mount 0 == .faulted) = true := by decide +kernel

theorem test_step_finds_track_0 : nextIs (exec (.stepDone 0 true) (stepping none (some 80))) (fun t =>
    (t.vol.drive 0).seq.cyl == some 0 && (t.vol.drive 0).seq.recal == none) = true := by decide +kernel

/-- Drive 0 loading its head to read the label. -/
def loadingHead : State :=
  seq0 (fun q => { q with head := .loading 210, job := .loading (load0 0), phase := .positioning })

theorem test_settle_and_load_end :
    nextIs (exec (.settleDone 0) (seq0 (fun q => { q with settle := some 90 }))) (fun t =>
      (t.vol.drive 0).seq.settle == none) = true
      ∧ nextIs (exec (.headLoadDone 0) loadingHead) (fun t =>
        (t.vol.drive 0).seq.head == .loaded && (t.vol.drive 0).seq.phase == .searching 0 false false) = true := by
  decide +kernel

/-- Drive 0 positioned for an order, its write-protect line reading as given. -/
def positioned (kind : OrderKind) (sampled protect : Bool) : Vol :=
  ((working .order .ready (some { order0 kind .write .routine 0 with sampled }) (withRequest (filing0 .opened 0 none))).vol).modCable
    0 (fun c => { c with protect })

theorem test_meets_PositioningGoesOn_work :
    (∀ k ∈ [OrderKind.write, .recalibrate], ∀ sampled protect,
      ((positioned k sampled protect).drive 0).seq.job = .order
        ∧ ((positioned k sampled protect).drive 0).sched.service = some { order0 k .write .routine 0 with sampled }
        ∧ ((positioned k sampled protect).drive 0).cable.protect = protect)
      ∧ ((tracking 883).vol.drive 0).seq.angle = 125 * 7 + 8 ∧ (∀ n : Fin 8, (0 : Nat) ≠ 125 * n.val + 8) := by decide +kernel

theorem test_positioned_work_begins :
    (((positioned .write false true).beginWork desk.bat 0).req 0).bind Request.outcome = some .writeProtected
      ∧ (((positioned .write false true).beginWork desk.bat 0).drive 0).seq.writeProtected = true
      ∧ (((positioned .write false false).beginWork desk.bat 0).drive 0).sched.service.any Order.sampled = true
      ∧ (((positioned .write true true).beginWork desk.bat 0).drive 0).seq.phase = .searching 0 false false
      ∧ (((positioned .recalibrate true true).beginWork desk.bat 0).req 0).bind Request.outcome = some .done
      ∧ (((tracking 883).vol.beginWork desk.bat 0).drive 0).seq.phase = .unitPass false true
      ∧ (((tracking 884).vol.beginWork desk.bat 0).drive 0).seq.phase = .waitAngle := by decide +kernel

/-! ## Headers, sectors and units: the hypotheses are met -/

/-- Drive 0 searching for a job's sector after some pulses. -/
def searching (job : Job) (pulses : Nat) (wrong : Bool) : State :=
  working job (.searching pulses false wrong) (some (order0 .read .read .routine 0)) (withRequest (request0 .fetch .reading))

/-- A header with its own check. -/
def header (c h n : Byte) : HeaderRead := ⟨c, h, n, 3, crc [c, h, n, 3]⟩

theorem test_meets_SearchesReadHeaders :
    (∀ j ∈ [Job.order, .loading (load0 0), .unit (unit0 .invalidate false [] [0])], ∀ n ∈ [1, 2],
      ((searching j n true).vol.drive 0).seq.phase = .searching n false true
        ∧ ((searching j n true).vol.drive 0).seq.job = j)
      ∧ ((searching .order 1 false).vol.drive 0).searchTarget = some (1, 0, 0)
      ∧ headerGood (header 1 0 0) = true ∧ (header 1 0 0).cyl.toNat = 1 ∧ (header 1 0 0).size.toNat = 3
      ∧ headerGood (header 1 0 7) = true ∧ (header 1 0 7).sector.toNat ≠ 0
      ∧ headerGood (header 76 0 0) = true ∧ (header 76 0 0).cyl.toNat ≠ 1
      ∧ headerGood { header 1 0 0 with check := 0 } = false := by decide +kernel

/-- Drive 0 with an order in service at an attempt, in a queue with another, with a pending preemption or none. -/
def attempting (attempt : Nat) (pending : Bool) (y : ServiceClass) : Vol :=
  (searching .order 2 false).vol.modSched 0 (fun x => { x with
    service := x.service.map (fun o => { o with tries := { o.tries with attempt } }), pending,
    queue := [order0 .write .write y 1] })

theorem test_meets_SearchesReadHeaders_attempts :
    (∀ n ∈ [1, 4], ∀ p, ((attempting n p .edition).drive 0).sched.service.any (fun o =>
        o.tries.attempt == n && o.progress == 0 && !(attempting n p .edition).endingOrder o) = true
        ∧ ((attempting n p .edition).drive 0).sched.pending = p)
      ∧ ((searching .order 2 false).vol.modReq 0 (fun q => { q with stage := .ending })).endingOrder
        (order0 .read .read .routine 0) = true
      ∧ (attempting 1 true .edition).higherWaiting 0 .routine = true
      ∧ (attempting 1 true .routine).higherWaiting 0 .routine = false := by decide +kernel

theorem test_attempts_run_out :
    (((attempting 4 false .routine).attemptFailed desk.bat 0 { order0 .read .read .routine 0 with
        tries := { Tries.fresh with attempt := 4 } } true false).req 0).any (fun q => q.outcome == some .readFault) = true
      ∧ ((((attempting 4 false .routine).modReq 0 (fun q => { q with stage := .ending })).attemptFailed
        desk.bat 0 { order0 .read .read .routine 0 with tries := { Tries.fresh with attempt := 4 } } true false).drive
          0).seq.retries = 1 := by decide +kernel

theorem test_header_begins_a_transfer :
    nextIs (exec (.headerFound 0 (header 1 0 0)) (searching .order 1 false)) (fun t =>
      (t.vol.drive 0).seq.phase == .transfer) = true := by decide +kernel

theorem test_search_limit_misses_and_misplaces :
    nextIs (exec (.searchLimit 0) (searching .order 2 false)) (fun t =>
      (t.vol.drive 0).seq.phase == .searching 0 false false
        && (t.vol.drive 0).sched.service.any (fun o => o.tries.attempt == 2 && !o.tries.mispositioned)) = true
      ∧ nextIs (exec (.searchLimit 0) (searching .order 2 true)) (fun t =>
        (t.vol.drive 0).sched.service.any (fun o => o.tries.attempt == 2 && o.tries.mispositioned)) = true := by
  decide +kernel

/-- A fetch of two sectors whose READ order carries buffers 0 and 1. -/
def fetching0 : Request :=
  { request0 .fetch .reading with
    version := some (.entry 0), chain := [0, 1], ordersMade := 1,
    info := { length := 2000, revision := 1, timestamp := [0, 1, 1, 0, 0, 0], extents := [⟨1, 0, 0, 2⟩] } }

/-- Drive 0 reading its sector into buffer 0 from a diskette that holds it, or not. -/
def reading0 (there : Bool) : State :=
  onVol (working .order .transfer (some { order0 .read .read .routine 0 with count := 2, buffers := [0, 1] })
    (withRequest fetching0)) (fun v => if there then v.modDisk 0 (fun m => { m with sectors := [(16, ⟨.good 1 0 0 3, .good [1, 2, 3]⟩)] }) else v)

/-- Drive 0 transferring a sector of LOADING, or the invalidation unit's. -/
def moving0 (job : Job) : State :=
  onVol (working job .transfer none (withRequest (request0 .format .running)))
    (fun v => v.modDisk 0 (fun m => m.format 0 0 0))

theorem test_meets_SectorBoundariesEndTransfers :
    (writing0.vol.drive 0).seq.phase = .transfer ∧ (order0 .write .write .routine 0).pass = .write
      ∧ (order0 .read .read .routine 0).pass = .read
      ∧ ((reading0 true).vol.drive 0).cable.disk.readField 1 0 0 .asStored = some [1, 2, 3]
      ∧ (order0 .read .read .routine 0).bufferFor 0 = some 0
      ∧ ((reading0 false).vol.drive 0).cable.disk.readField 1 0 0 .asStored = none
      ∧ ((moving0 (.loading (load0 0))).vol.drive 0).seq.job = .loading (load0 0)
      ∧ ((moving0 (.loading (load0 0))).vol.drive 0).cable.disk.readField 0 0 0 .asStored = some zeroSector
      ∧ ((moving0 (.loading (load0 1))).vol.drive 0).cable.disk.readField 0 0 1 .asStored = none
      ∧ ((moving0 (.unit (unit0 .invalidate false [] [0]))).vol.drive 0).seq.job
        = .unit (unit0 .invalidate false [] [0]) := by decide +kernel

/-- Drive 0 in the write pass of a unit of a FORMAT. -/
def unitWriting (kind : UnitKind) (found : Bool) (todo : List Nat) : State :=
  working (.unit (unit0 kind false [] todo)) (.unitPass false found) none (withRequest (request0 .format .running))

theorem test_meets_SectorBoundariesEndTransfers_units :
    (∀ k ∈ [UnitKind.track 0, .track 153, .catalog 1, .label], ∀ found, ∀ todo ∈ [[7], [6, 7]],
      ((unitWriting k found todo).vol.drive 0).seq.phase = .unitPass false found
        ∧ ((unitWriting k found todo).vol.drive 0).seq.job = .unit (unit0 k false [] todo)
        ∧ (unitWriting k found todo).vol.unitStops (unit0 k false [] todo) = false) := by decide +kernel

theorem test_unit_write_ends_sector_by_sector :
    nextIs (exec (.sectorBoundary 0 .asStored) (unitWriting (.track 153) true [7])) (fun t =>
      (t.vol.drive 0).seq.phase == .unitPass true false
        && (t.vol.drive 0).cable.disk.sector 76 1 7 == ⟨.good 76 1 7 3, .good zeroSector⟩) = true
      ∧ nextIs (exec (.sectorBoundary 0 .asStored) (unitWriting (.catalog 1) false [6, 7])) (fun t =>
        (t.vol.drive 0).seq.unit?.any (fun u => u.failed == [6] && u.todo == [7])) = true := by decide +kernel

/-- Drive 0 with an order in service at a place in its run, and a queue. -/
def atBoundary (progress : Nat) (pending : Bool) (pass : Pass) (y : ServiceClass) : Vol :=
  writing0.vol.modSched 0 (fun x => { x with
    service := some { order0 .write pass .routine 0 with count := 2, progress }, pending,
    queue := [order0 .write .write y 1] })

theorem test_meets_SectorBoundariesEndTransfers_boundaries :
    (∀ n ∈ [1, 2], ∀ p, ((atBoundary n p .write .edition).drive 0).sched.service.any (fun o => o.progress == n
        && !(atBoundary n p .write .edition).endingOrder o) = true
      ∧ ((atBoundary n p .write .edition).drive 0).sched.pending = p)
      ∧ (atBoundary 1 true .write .edition).higherWaiting 0 .routine = true
      ∧ (atBoundary 1 true .write .routine).higherWaiting 0 .routine = false
      ∧ ((atBoundary 1 true .write .edition).drive 0).sched.depth = 0
      ∧ (stacked.vol.drive 0).sched.depth = 3
      ∧ skipOver [1, 2] 0 8 1 = 3 ∧ skipOver [] 0 8 8 = 8 := by decide +kernel

theorem test_boundaries_are_decided :
    (((atBoundary 1 true .write .edition).boundary desk.bat 0).drive 0).sched.stack.length = 1
      ∧ (((atBoundary 1 true .write .routine).boundary desk.bat 0).drive 0).sched.pending = false
      ∧ ((((atBoundary 2 true .write .edition).modSeq 0 (fun q => { q with retries := 4 })).boundary desk.bat 0).drive
          0).seq.phase = .verify { rewrite := false, found := false, todo := [0, 1], failing := [], writes := 1,
                                     troubled := [] } := by decide +kernel

theorem test_sector_read_fills_its_buffer :
    nextIs (exec (.sectorBoundary 0 .asStored) (reading0 true)) (fun t =>
      (t.vol.buf 0).data == [1, 2, 3]
        && (t.vol.drive 0).sched.service.any (fun o => o.progress == 1 && o.tries.attempt == 1)) = true := by decide +kernel

theorem test_bad_data_fails_the_attempt :
    nextIs (exec (.sectorBoundary 0 .asStored) (reading0 false)) (fun t =>
      (t.vol.drive 0).sched.service.any (fun o => o.tries.attempt == 2 && o.tries.badData)) = true := by decide +kernel

set_option maxRecDepth 40000 in
theorem test_meets_SectorBoundariesEndTransfers_bad :
    ((reading0 true).vol.drive 0).cable.disk.readField 1 0 0 (.asRead zeroSector 0) = none
      ∧ ((reading0 true).vol.drive 0).seq.phase = .transfer
      ∧ ((reading0 false).vol.drive 0).cable.disk.readField 1 0 0 .asStored = none
      ∧ ({ order0 .read .read .routine 0 with count := 2, buffers := [0, 1] } : Order).bufferFor 0 = some 0 := by
  decide +kernel

set_option maxRecDepth 40000 in
theorem test_bad_data_is_in_the_buffer :
    nextIs (exec (.sectorBoundary 0 (.asRead (List.replicate 1024 7) 0)) (reading0 true)) (fun t =>
      (t.vol.buf 0).data == List.replicate 1024 7 && (t.vol.buf 1).data == zeroSector && t.vol.picks == 0
        && (t.vol.drive 0).sched.service.any (fun o => o.tries.attempt == 2 && o.tries.badData)) = true := by decide +kernel

theorem test_meets_WhatIsWrittenReadsBack :
    ({ notch := false, sectors := [] } : Diskette).wf = true ∧ addressOk 76 1 6 = true ∧ (76, 1, 6) ≠ (76, 1, 7)
      ∧ (List.replicate 1024 (0 : Byte)).length ≤ 1024
      ∧ ((spaces 8).length = 8 ∧ (List.range 16).length ≤ 16 ∧ ∀ x ∈ List.range 16, x < 1216)
      ∧ (image1.state = .filed ∧ image1.slug.length = 12 ∧ image1.timestamp.length = 6 ∧ image1.extents.length ≤ 12
        ∧ ∀ e ∈ image1.extents, e.inRange = true) := by decide +kernel

/-- A verify pass or rewrite of sectors 0 and 1, the header of 0 found. -/
def verify0 (rewrite : Bool) : VerifyWork :=
  { rewrite, found := true, todo := [0, 1], failing := [], writes := 1, troubled := [] }

/-- Drive 0 in that pass. -/
def verifying (rewrite : Bool) : State :=
  working .order (.verify (verify0 rewrite)) (some { order0 .write .verify .routine 0 with count := 2, buffers := [0, 1] })
    (withRequest (filing0 .opened 10 none))

/-- Drive 0 in the last sector of a revolution of a verify pass that has written its run some times. -/
def lastOf (rewrite found : Bool) (failing : List Nat) (writes : Nat) : State :=
  onVol (verifying rewrite) (fun v => v.modSeq 0 (fun q =>
    { q with phase := .verify { rewrite, found, todo := [1], failing, writes, troubled := [] } }))

/-- Drive 0 in the read-back of a unit. -/
def unitReading : State :=
  working (.unit (unit0 (.track 2) false [] [0, 1])) (.unitPass true true) none (withRequest (request0 .format .running))

/-- Drive 0 in the read-back of the label. -/
def labelReading : State :=
  onVol (working (.unit (unit0 .label false [] [0])) (.unitPass true false) none (withRequest (request0 .format .running)))
    (fun v => v.modDisk 0 (fun m => m.format 0 0 0))

theorem test_meets_VerifySectorsAreCounted :
    (∀ w, ((verifying w).vol.drive 0).seq.phase = .verify (verify0 w)
      ∧ ((verifying w).vol.drive 0).sched.service.any (fun o => !(verifying w).vol.endingOrder o) = true)
      ∧ (unitReading.vol.drive 0).seq.phase = .unitPass true true
      ∧ (unitReading.vol.drive 0).seq.job = .unit (unit0 (.track 2) false [] [0, 1])
      ∧ unitReading.vol.unitStops (unit0 (.track 2) false [] [0, 1]) = false
      ∧ labelReading.vol.unitStops (unit0 .label false [] [0]) = false
      ∧ (∀ w, ∀ n ∈ [2, 3], ∀ l ∈ [[], [0]], ((lastOf w true l n).vol.drive 0).seq.phase
          = .verify { rewrite := w, found := true, todo := [1], failing := l, writes := n, troubled := [] })
      ∧ ((lastOf false true [] 3).vol.modReq 0 (fun q => { q with stage := .ending })).endingOrder
        (order0 .write .verify .routine 0) = true := by decide +kernel

theorem test_a_verify_revolution_ends :
    nextIs (exec (.verifySectorEnd 0 .asStored) (lastOf true false [1] 1)) (fun t =>
      (t.vol.drive 0).seq.retries == 1 && (t.vol.drive 0).seq.phase
        == .verify { rewrite := false, found := false, todo := [1], failing := [], writes := 2, troubled := [1] }) = true
      ∧ nextIs (exec (.verifySectorEnd 0 .asStored) (lastOf false false [] 2)) (fun t => (t.vol.drive 0).seq.phase
        == .verify { rewrite := true, found := false, todo := [1], failing := [1], writes := 2, troubled := [] }) = true
      ∧ nextIs (exec (.verifySectorEnd 0 .asStored) (lastOf false false [0] 3)) (fun t =>
        (t.vol.mirror 0).any (fun m => m.suspect == [0, 1])
          && (t.vol.port 0).store.any (fun f => f.body == [0x80, 9, 0x42])) = true
      ∧ nextIs (exec (.verifySectorEnd 0 .asStored)
          (onVol (lastOf false false [] 3) (fun v => v.modReq 0 (fun q => { q with stage := .ending })))) (fun t =>
        (t.vol.mirror 0).any (fun m => m.suspect == [1])
          && (t.vol.port 0).store.any (fun f => f.body == [0x80, 9, 0x50])) = true
      ∧ nextIs (exec (.verifySectorEnd 0 .asStored) labelReading) (fun t =>
        (t.vol.drive 0).seq.phase == .unitDone && ((t.vol.drive 0).cable.disk.sector 0 0 0).data == .bad) = true := by
  decide +kernel

theorem test_failing_sectors_are_counted :
    nextIs (exec (.verifySectorEnd 0 .asStored) (verifying false)) (fun t =>
      (t.vol.drive 0).seq.phase == .verify { verify0 false with found := false, todo := [1], failing := [0] }) = true
      ∧ nextIs (exec (.verifySectorEnd 0 .asStored) unitReading) (fun t =>
        (t.vol.drive 0).seq.unit?.any (fun u => u.failed == [0] && u.todo == [1])) = true := by decide +kernel

theorem test_meets_TheIdleLimitEndsAFiling :
    (withRequest (filing0 .opened 0 none)).vol.live = true
      ∧ (withRequest (filing0 .opened 0 none)).vol.req 0 = some (filing0 .opened 0 none)
      ∧ (filing0 .opened 0 none).session = some (session0 0 none) ∧ (session0 0 none).idle = true
      ∧ ((withRequest (filing0 .opened 0 none)).vol.takeOut 0 0 0).2 = true
      ∧ (writing0.vol.takeOut 0 0 0).2 = false := by decide +kernel

theorem test_idle_limit_ends_a_filing :
    nextIs (exec (.idleLimitExpiry 0) (withRequest (filing0 .opened 0 none))) (fun t =>
      (t.vol.port 0).store == [⟨[0x80, 9, 0x50], .plain⟩]) = true := by decide +kernel

/-- A FORMAT of drive 0. -/
def format0 (bads : List Nat) : Request :=
  { request0 .format .running with format := some { volume := spaces 8, bads } }

theorem test_meets_FormatUnitsFollowEachOther :
    (∀ k ∈ [UnitKind.track 0, .track 153, .catalog 0, .catalog 1, .label],
      ((unitDone 0 (format0 []) (unit0 k false [] [])).vol.drive 0).seq.phase = .unitDone
        ∧ ((unitDone 0 (format0 []) (unit0 k false [] [])).vol.drive 0).seq.job = .unit (unit0 k false [] [])
        ∧ (unitDone 0 (format0 []) (unit0 k false [] [])).vol.req 0 = some (format0 []))
      ∧ (format0 (List.range 16)).format = some { volume := spaces 8, bads := List.range 16 }
      ∧ (List.range 16).length ≤ 16 ∧ (format0 []).stage ≠ .ending
      ∧ (∀ n ∈ [0, 1], n / 2 = 0) ∧ (2 : Nat) / 2 ≠ 0 ∧ ({ format0 [] with stage := .ending } : Request).stage = .ending
      ∧ 16 < (List.range 16 ++ ((List.range 8).filter (fun i => decide (i ∈ [3]))).map (dataIndex 76 1)).length := by
  decide +kernel

theorem test_a_unit_begins :
    (∀ k ∈ [UnitKind.track 153, .catalog 0, .label],
      (((copying true).vol.setReq 0 (some (format0 []))).beginUnit desk.bat 1 0 false k).mount 1 = .unformatted)
      ∧ (((copying true).vol.setReq 0 (some (format0 []))).beginUnit desk.bat 1 0 false .invalidate |>.mount 1) = .loading
      ∧ (((copying true).vol.setReq 0 (some (copy0 .tracks))).beginUnit desk.bat 1 0 true (.catalog 1) |>.req 0).bind
        Request.outcome = some .writeProtected
      ∧ ((((copying false).vol.setReq 0 (some (format0 [5]))).beginUnit desk.bat 1 0 false .label |>.drive 1).seq.unit?).any
        (fun u => u.image == labelBytes (spaces 8) [0, 0, 0, 0, 0, 0] 1 [5] && u.todo == [0]) = true
      ∧ ((((copying false).vol.setReq 0 (some (copy0 .catalog))).beginUnit desk.bat 1 0 true (.catalog 0) |>.drive 1).seq.unit?).any
        (fun u => u.todo == [1, 2, 3, 4, 5, 6, 7]) = true := by decide +kernel

theorem test_format_units_fail :
    (∀ k ∈ [UnitKind.track 1, .catalog 0, .label],
      nextIs (exec (.formatUnitEnd 0) (unitDone 0 (format0 []) (unit0 k false [2] []))) (fun t =>
        t.vol.mount 0 == .unformatted && (t.vol.port 0).store.any (fun f => f.body == [0x80, 9, 0x42])) = true)
      ∧ nextIs (exec (.formatUnitEnd 0) (unitDone 0 (format0 [3]) (unit0 (.track 153) false [2, 1] []))) (fun t =>
        (t.vol.req 0).any (fun q => q.format.any (fun w => w.bads == [3, 1209, 1210]))) = true
      ∧ nextIs (exec (.formatUnitEnd 0) (unitDone 0 (format0 (List.range 16)) (unit0 (.track 2) false [7] []))) (fun t =>
        (t.vol.port 0).store.any (fun f => f.body == [0x80, 9, 0x42])) = true
      ∧ nextIs (exec (.formatUnitEnd 0) (unitDone 0 { format0 [] with stage := .ending, outcome := some .cancelled }
          (unit0 (.track 2) false [7] []))) (fun t =>
        t.vol.mount 0 == .unformatted && (t.vol.port 0).store.any (fun f => f.body == [0x80, 9, 0x50])) = true := by
  decide +kernel

theorem test_format_goes_on_and_ends :
    nextIs (exec (.formatUnitEnd 0) (unitDone 0 (format0 []) (unit0 (.track 153) false [] []))) (fun t =>
      (t.vol.drive 0).seq.unit?.any (fun u => u.kind == .catalog 0)) = true
      ∧ nextIs (exec (.formatUnitEnd 0) (unitDone 0 (format0 [3]) (unit0 .label false [] []))) (fun t =>
        t.vol.mount 0 == .loading && t.vol.req 0 == none
          && (t.vol.port 0).store.any (fun f => f.body == [0x80, 9, 0, 1])) = true := by decide +kernel

theorem test_meets_FormatUnitsFollowEachOther_invalidation :
    (unit0 .invalidate false [] []).copy = false ∧ (unit0 .invalidate true [] []).copy = true
      ∧ (withRequest (format0 [])).vol.req 0 = some (format0 [])
      ∧ (withRequest { format0 [] with stage := .ending }).vol.req 0 = some { format0 [] with stage := .ending } := by
  decide +kernel

theorem test_an_invalidation_unit_ends :
    (((withRequest (format0 [])).vol.invalidateEnd desk.bat 0 (unit0 .invalidate false [] [])).drive 0).seq.unit?.any (fun u =>
        u.kind == .track 0) = true
      ∧ ((withRequest { format0 [] with stage := .ending }).vol.invalidateEnd desk.bat 0 (unit0 .invalidate false [] [])).mount 0
        = .unformatted
      ∧ (((withRequest (copy0 .opening)).vol.invalidateEnd desk.bat 1 (unit0 .invalidate true [] [])).drive 1).seq.phase
        = .unitDone := by decide +kernel

theorem test_meets_CopyUnitsFollowEachOther :
    (∀ k ∈ [UnitKind.invalidate, .catalog 0, .catalog 1, .label], ∀ failed ∈ [[], [2]],
      ((unitDone 1 (copy0 .catalog) (unit0 k true failed [])).vol.drive 1).seq.phase = .unitDone
        ∧ ((unitDone 1 (copy0 .catalog) (unit0 k true failed [])).vol.drive 1).seq.job = .unit (unit0 k true failed [])
        ∧ (unitDone 1 (copy0 .catalog) (unit0 k true failed [])).vol.req 0 = some (copy0 .catalog))
      ∧ (copy0 .opening).stage ≠ .ending ∧ (copy0 .ending).stage = .ending := by decide +kernel

/-- The COPY of slot 0 at an order that ends, its cursor at a place and these data sectors bad. -/
def tracks0 (kind : OrderKind) (cursor : Nat × Nat) (bads : List Nat) : Vol :=
  let q := { copy0 .tracks with copy := (copy0 .tracks).copy.map (fun c => { c with bads }) }
  (working .order .transfer (some { order0 kind .read .background 0 with buffers := [0, 1, 2, 3, 4, 5, 6, 7] })
    (withRequest q)).vol.modSched 0 (fun x => { x with cursor := some cursor })

theorem test_meets_CopyUnitsFollowEachOther_orders :
    (∀ k ∈ [OrderKind.copyRead, .copyWrite], ∀ bads ∈ [[], List.range 8],
      ((tracks0 k (1, 0) bads).drive 0).sched.service
          = some { order0 k .read .background 0 with buffers := [0, 1, 2, 3, 4, 5, 6, 7] }
        ∧ ((tracks0 k (1, 0) bads).req 0).bind Request.copy = (copy0 .tracks).copy.map (fun c => { c with bads := bads }))
      ∧ (List.range 8).filter (fun n => decide (dataIndex 1 0 n ∉ List.range 8)) = []
      ∧ ((tracks0 .copyWrite (76, 1) []).drive 0).sched.cursor = some (76, 1)
      ∧ ((tracks0 .copyWrite (75, 1) []).drive 0).sched.cursor = some (75, 1) ∧ (tracks0 .copyWrite (1, 0) []).mirror 0
        = some mirror0 := by decide +kernel

theorem test_copy_orders_follow_each_other :
    ((tracks0 .copyRead (1, 0) [0, 3]).orderEnd desk.bat 0 .done |>.drive 1).sched.queue.map (fun o =>
        (o.kind, o.first, o.count, o.skip)) = [(.copyWrite, 1, 7, [3])]
      ∧ ((tracks0 .copyRead (1, 0) (List.range 8)).orderEnd desk.bat 0 .done |>.drive 0).sched.cursor = some (1, 1)
      ∧ ((tracks0 .copyWrite (75, 1) []).orderEnd desk.bat 0 .done |>.drive 0).sched.cursor = some (76, 0)
      ∧ ((tracks0 .copyWrite (76, 1) []).orderEnd desk.bat 0 .done |>.req 0).map Request.stage = some .catalog
      ∧ ((tracks0 .copyWrite (76, 1) []).orderEnd desk.bat 0 .writeFault |>.req 0).bind Request.outcome = some .writeFault
      ∧ nextIs (exec (.copyCatalogUnitEnd 1) (unitDone 1 { copy0 .ending with outcome := some .cancelled }
          (unit0 (.catalog 0) true [2] []))) (fun t =>
        t.vol.mount 1 == .loading && (t.vol.port 0).store.any (fun f => f.body == [0x80, 9, 0x50])) = true := by
  decide +kernel

theorem test_copy_reads_its_first_track_side :
    nextIs (exec (.copyOpeningEnd 1) (unitDone 1 (copy0 .opening) (unit0 .invalidate true [] []))) (fun t =>
      (t.vol.req 0).any (fun q => q.stage == .tracks)) = true := by decide +kernel

theorem test_copy_ends :
    nextIs (exec (.copyCatalogUnitEnd 1) (unitDone 1 (copy0 .catalog) (unit0 (.catalog 1) true [] []))) (fun t =>
      (t.vol.req 0).any (fun q => q.stage == .label)) = true
      ∧ nextIs (exec (.copyLabelVerified 1) (unitDone 1 (copy0 .label) (unit0 .label true [] []))) (fun t =>
        t.vol.mount 1 == .loading && (t.vol.port 0).store.any (fun f => f.body == [0x80, 9, 0])) = true := by
  decide +kernel

/-! ## Arithmetic, choice and layout: the hypotheses are met -/

theorem test_meets_TheWaitAndCostOfAnOrder :
    (7 : Nat) ≤ 7 ∧ waitFor 0 0 0 = 8 ∧ waitFor 9 0 0 = 999 ∧ (∀ h, some 76 = some h → h ≤ 76)
      ∧ effectiveCost { step := 90, settle := 180, load := 360 } none true 149
        { order0 .read .read .routine 0 with cyl := 76 } = 14859 := by decide +kernel

/-- An order with a bypass count and a place in the order of arrival. -/
def passed (bypass arrival : Nat) : Order := { order0 .read .read .routine arrival with bypass }

theorem test_meets_TheChoiceOfAnOrder :
    chooseOrder (fun o => o.arrival) [passed 7 2, passed 8 1, passed 8 0] = some (passed 8 1)
      ∧ chooseOrder (fun o => o.arrival / 2) [passed 0 2, passed 7 1, passed 0 0] = some (passed 7 1)
      ∧ passedOver (passed 0 0) [passed 0 0, passed 8 1] [passed 0 0, passed 8 1, passed 7 2]
        = [passed 8 1, passed 7 2] := by decide +kernel

/-- The queue of drive 0 with a suspended order on its stack or none. -/
def choosing (queue : List ServiceClass) (stack : List Order) : Vol :=
  desk.vol.modSched 0 (fun x => { x with queue := queue.mapIdx (fun i c => order0 .write .write c (i + 1)), stack })

theorem test_meets_TheChoiceOfAnOrder_selections :
    ((choosing [.routine, .edition, .edition] []).drive 0).sched.stack = []
      ∧ ((choosing [.routine] [order0 .read .read .routine 0]).drive 0).sched.stack = [] ++ [order0 .read .read .routine 0]
      ∧ ((choosing [.routine, .edition, .edition] []).eligibleOrders 0).length = 3 := by decide +kernel

theorem test_selections :
    (((choosing [.routine, .edition, .edition] []).select desk.bat 0).drive 0).sched.service.any (fun o => o.arrival == 2) = true
      ∧ (((choosing [.routine, .edition, .edition] []).select desk.bat 0).drive 0).sched.queue.map (fun o => o.bypass) = [0, 1]
      ∧ (((choosing [.routine] [order0 .read .read .routine 0]).select desk.bat 0).drive 0).sched.service.any (fun o =>
        o.arrival == 0) = true
      ∧ (((choosing [.edition] [order0 .read .read .routine 0]).select desk.bat 0).drive 0).sched.service.any (fun o =>
        o.arrival == 1) = true := by decide +kernel

/-- An order without buffers for sectors of cylinder 1. -/
def unserved (kind : OrderKind) (first count : Nat) : Order :=
  { order0 kind .read .routine 5 with first, count, buffers := [] }

theorem test_meets_TheChoiceOfAnOrder_service :
    (∀ k ∈ [OrderKind.write, .catalogWrite, .copyWrite, .recalibrate], k ≠ .read ∧ k ≠ .copyRead)
      ∧ (order0 .read .read .routine 0).buffers ≠ [] ∧ (unserved .read 0 2).buffers = []
      ∧ (unserved .copyRead 0 0).count = 0 ∧ (unserved .copyRead 3 2).count ≠ 0 := by decide

theorem test_eligible_orders :
    (withRequest fetching0).vol.eligible (unserved .read 0 8) = true ∧ (noBuffers desk.vol).eligible (unserved .read 0 1) = false
      ∧ (noBuffers desk.vol).eligible (order0 .read .read .routine 0) = true
      ∧ (noBuffers desk.vol).eligible (unserved .copyRead 0 0) = false ∧ (noBuffers desk.vol).eligible (unserved .write 0 1) = true
      ∧ ((withRequest fetching0).vol.setBuf 0 { owner := some 0, data := [] }).eligible (unserved .read 0 8) = false := by
  decide +kernel

theorem test_orders_are_placed_in_service :
    (((withRequest fetching0).vol.placeInService desk.bat 0 (unserved .read 0 2)).req 0).any (fun q => q.chain == [0, 1, 0, 1])
      = true
      ∧ (((withRequest fetching0).vol.placeInService desk.bat 0 (unserved .read 0 2)).drive 0).sched.service.any (fun o =>
        o.buffers == [0, 1] && !o.sampled) = true
      ∧ ((((withRequest (copy0 .tracks)).vol.setBuf 3 { owner := none, data := [9] }).setBuf 4 { owner := none, data := [9] }
          |>.placeInService desk.bat 0 (unserved .copyRead 3 1)).buf 3).data = [9]
      ∧ ((((withRequest (copy0 .tracks)).vol.setBuf 3 { owner := none, data := [9] }).setBuf 4 { owner := none, data := [9] }
          |>.placeInService desk.bat 0 (unserved .copyRead 3 1)).buf 4) = { owner := some 0, data := zeroSector }
      ∧ (((withRequest (copy0 .tracks)).vol.placeInService desk.bat 0 (unserved .copyRead 0 0)).drive 1).sched.queue.map (fun o =>
        (o.kind, o.count)) = [(.copyWrite, 8)] := by decide +kernel

/-- Drive 0 serving the first order with the second in its queue, in a phase. -/
def contest (x y : Order) (phase : Phase) : Vol :=
  (desk.vol.modSched 0 (fun s => { s with service := some x, queue := [y] })).modSeq 0 (fun q => { q with job := .order, phase })

theorem test_meets_ThePreemptionTest :
    ((contest (order0 .read .read .routine 0) (order0 .write .write .edition 1) .positioning).drive 0).sched.service
        = some (order0 .read .read .routine 0)
      ∧ ((contest (order0 .read .read .routine 0) (order0 .write .write .edition 1) .positioning).drive
        0).sched.queue.find? (fun o => o.arrival == 1) = some (order0 .write .write .edition 1)
      ∧ (contest (order0 .read .read .routine 0) (order0 .write .write .edition 1) .positioning).preempts desk.bat 0 1
        = true
      ∧ (contest (order0 .read .verify .routine 0) (order0 .write .write .edition 1) .positioning).preempts desk.bat 0 1
        = false
      ∧ ((contest (order0 .read .read .routine 0) (order0 .write .write .edition 1) .positioning).drive 0).early = true
      ∧ ((contest (order0 .read .read .routine 0) (order0 .write .write .edition 1) .transfer).drive 0).early = false := by
  decide +kernel

theorem test_preempted_order_keeps_its_place :
    (insertByArrival (order0 .read .read .routine 1) [order0 .write .write .routine 0, order0 .write .write .edition 2]).map
        Order.arrival = [0, 1, 2]
      ∧ [order0 .write .write .routine 0, order0 .write .write .edition 2].Pairwise (fun p q => p.arrival < q.arrival) := by
  decide

/-- A commit or a spike of slot 0 with its catalog write in flight. -/
def catalogWriting (kind : ReqKind) (stage : Stage) : Vol :=
  ((withRequest (request0 kind stage)).vol).modEntry 0 0 (fun e => { e with
    catWrite := some { req := 0, spike := kind == .spike, image := image1, record := none } })

/-- Drive 0 composing the catalog sector of slot 0 for its order in service. -/
def composing : Vol :=
  (catalogWriting .file .committing).modSched 0 (fun x => { x with
    service := some (order0 .catalogWrite .write .routine 0) })

/-- Drive 0 in a pass of a unit. -/
def inUnit (kind : UnitKind) (verify : Bool) : State :=
  working (.unit (unit0 kind false [] [0, 1])) (.unitPass verify false) none (withRequest (request0 .format .running))

theorem test_meets_SearchesReadHeaders_passes :
    (∀ w, ((verifying w).vol.drive 0).seq.phase = .verify (verify0 w)
        ∧ ((verifying w).vol.drive 0).sched.service.any (fun o => o.cyl == 1 && o.side == 0) = true)
      ∧ (∀ k ∈ [UnitKind.track 2, .catalog 0, .label], ∀ verify,
        ((inUnit k verify).vol.drive 0).seq.phase = .unitPass verify false
          ∧ ((inUnit k verify).vol.drive 0).seq.job = .unit (unit0 k false [] [0, 1]))
      ∧ (composing.drive 0).sched.service = some (order0 .catalogWrite .write .routine 0)
      ∧ composing.req 0 = some (request0 .file .committing) ∧ (composing.mirror 0).isSome = true
      ∧ (withRequest (copy0 .catalog)).vol.req 0 = some (copy0 .catalog)
      ∧ (withRequest (copy0 .catalog)).vol.mirror 0 = some mirror0 := by decide +kernel

theorem test_headers_are_found_in_passes :
    nextIs (exec (.headerFound 0 (header 1 0 0)) (inUnit (.track 2) true)) (fun t =>
      (t.vol.drive 0).seq.phase == .unitPass true true) = true
      ∧ nextIs (exec (.headerFound 0 (header 1 0 0)) (inUnit (.track 2) false)) (fun t =>
        (t.vol.drive 0).seq.phase == .unitPass false false) = true
      ∧ nextIs (exec (.headerFound 0 (header 0 0 1)) (inUnit .label false)) (fun t =>
        (t.vol.drive 0).seq.phase == .unitPass false false) = true
      ∧ nextIs (exec (.headerFound 0 (header 1 0 0)) (verifying true)) (fun t =>
        (t.vol.drive 0).seq.phase == .verify (verify0 true)) = true
      ∧ ((composing.composeService 0).buf 0).data.take 64 = image1.bytes
      ∧ (((withRequest (copy0 .catalog)).vol.unitImage (unit0 (.catalog 0) true [] [1]) 1).drop 64).take 12 = name 0x42 := by
  decide +kernel

theorem test_meets_TheEndOfACatalogWrite :
    (catalogWriting .file .committing).req 0 = some (request0 .file .committing)
      ∧ ((catalogWriting .file .committing).entry 0 0).bind Entry.catWrite
        = some { req := 0, spike := false, image := image1, record := none }
      ∧ ((catalogWriting .spike .writing).entry 0 0).bind Entry.catWrite
        = some { req := 0, spike := true, image := image1, record := none }
      ∧ ((catalogWriting .file .committing).catalogWriteEnd quiet.bat 0 .done).entry 0 0
        = some (Entry.ofImage image1)
      ∧ (((catalogWriting .spike .writing).catalogWriteEnd quiet.bat 0 .seekFault).drive 0).cat.fault = true
      ∧ ((request0 .file .committing).kind ≠ .spike ∧ (filing0 .committing 0 none).session = some (session0 0 none)
        ∧ (filing0 .committing 0 none).version = none ∧ (filing0 .committing 0 none).kind = .file) := by
  decide +kernel

/-- A catalog write of slot 0 with a record claimed. -/
def claiming : CatWrite := { req := 0, spike := false, image := image1, record := some 7 }

theorem test_old_versions_are_retired :
    (((catalogWriting .file .committing).retireOld 0 0 (filed 0x41 [⟨1, 0, 0, 1⟩] 10) { claiming with record := none }).mirror
        0).any (fun m => m.free == [0, 1, 2, 3, 4, 5, 6, 7]) = true
      ∧ ((catalogWriting .file .committing).retireOld 0 0 { filed 0x41 [⟨1, 0, 0, 1⟩] 10 with readers := 2 } claiming).record 7
        = .inUse 0 [⟨1, 0, 0, 1⟩] 2
      ∧ ((catalogWriting .file .committing).retireOld 0 0 (filed 0x41 [⟨1, 0, 0, 1⟩] 10) claiming).record 7 = .free
      ∧ (((withRequest { filing0 .committing 0 none with
          session := some { session0 0 none with pending := [⟨2, 0, 0, 2⟩] } }).vol.letGo 0 .writeFault).mirror 0).any (fun m =>
        m.free == [1, 2, 3, 4, 5, 6, 7, 16, 17]) = true := by decide +kernel

theorem test_meets_TheRunTakenForAWrite :
    [0, 1, 5, 7, 8].Pairwise (fun (x y : Nat) => x < y) ∧ [5].Pairwise (fun (x y : Nat) => x < y) ∧ chooseRun [0, 1, 5, 7, 8] 2 8 = some (0, 2)
      ∧ chooseRun [5] 1215 1 = some (5, 1) ∧ chooseRun [0, 1, 2, 10] 0 8 = some (0, 3)
      ∧ chooseRun [1, 2, 3, 8, 9, 10] 3 3 = some (8, 3) ∧ chooseRun [1, 2, 3] 2 2 = some (2, 2) := by decide +kernel

theorem test_meets_DataIndicesAreTheirOwn :
    dataIndex 1 0 0 = 0 ∧ dataIndex 76 1 7 = 1215 ∧ dataIndex 30 1 5 = dataIndex 30 1 5 := by decide

theorem test_meets_TheArcsOfAnEdition :
    Edition.ok { enabled := true, opens := 1439, closes := 0, lead := 0, state := .opened } = true
      ∧ Edition.ok { enabled := true, opens := 600, closes := 599, lead := 59, state := .closed } = true
      ∧ Edition.span { enabled := true, opens := 600, closes := 599, lead := 59, state := .closed } = 1439
      ∧ Edition.arcState { enabled := true, opens := 600, closes := 599, lead := 59, state := .closed } 540 = .warning
      ∧ Edition.arcState { enabled := true, opens := 600, closes := 599, lead := 59, state := .closed } 599 = .closed := by
  decide

theorem test_meets_CarriesThroughTheCalendar :
    (∀ c ∈ [Clock.default, { Clock.default with mi := 59 }, { Clock.default with mi := 59, hh := 23 },
        { Clock.default with mi := 59, hh := 23, dd := 31 }, { Clock.default with mi := 59, hh := 23, dd := 31, mm := 12 }],
      c.validDate = true)
      ∧ monthDays 0 1 = 31 ∧ monthDays 0 12 = 31 ∧ Clock.default.mi ≠ 59 := by decide

theorem test_meets_AnEnvelopeIsTakenAsItsBody :
    2 ≤ [(0x0A : Byte), 5].length ∧ (List.replicate 260 (0 : Byte)).length ≤ 260 ∧ (quiet.vol.port 0).detector = .idle
      ∧ (quiet.vol.port 0).assembler = .hunt
      ∧ (envelope [0x0A, 5]).foldl (fun p x => takeByte 0 x p.1 p.2) (quiet.bat, quiet.vol)
        = takeBody 0 [0x0A, 5] quiet.bat quiet.vol := by decide +kernel

/-! ## Positioning, recalibration and the ends of requests: the hypotheses are met -/

/-- Drive 0 recalibrating for a RECAL at a stage, a step in progress or none. -/
def recalling (step : Bool) (stage : Stage) (outcome : Option OutcomeCode) : State :=
  onVol (working .order .positioning
      (some { order0 .recalibrate .read .edition 0 with cyl := 0, count := 0, buffers := [] })
      (withRequest { request0 .recal stage with outcome })) (fun v => v.modSeq 0 (fun q =>
    { q with cyl := none, recal := some 3, settleOwed := true,
             step := if step then some { inward := false, units := 36 } else none }))

theorem test_meets_CancelEndsItsRequest_recalibrations :
    (∀ step, ((recalling step .running none).vol.drive 0).sched.service.any (fun o =>
        o.kind == .recalibrate && o.pass == .read && o.req == 0) = true
      ∧ ((recalling step .running none).vol.drive 0).seq.phase = .positioning
      ∧ ((recalling step .running none).vol.takeOut 0 0 0).2 = !step)
      ∧ ((recalling true .running none).vol.drive 0).seq.step = some { inward := false, units := 36 }
      ∧ ((recalling false .running none).vol.drive 0).seq.step = none := by decide +kernel

theorem test_a_recalibration_is_cancelled :
    nextIs (exec (.cancel 0 7 9) (recalling true .running none)) (fun t =>
      (t.vol.req 0).any (fun q => q.stage == .ending && q.outcome == some .cancelled)
        && (t.vol.drive 0).sched.service.isSome) = true
      ∧ nextIs (exec (.cancel 0 7 9) (recalling false .running none)) (fun t =>
        t.vol.req 0 == none && (t.vol.drive 0).sched.service == none
          && (t.vol.port 0).store == [⟨[0x80, 9, 0x50], .plain⟩, ⟨[0x80, 7, 0], .plain⟩]) = true := by decide +kernel

theorem test_meets_PositioningGoesOn_cancelled :
    ((recalling true .ending (some .cancelled)).vol.req 0).any (fun q => q.stage == .ending) = true
      ∧ ((recalling true .ending (some .cancelled)).vol.drive 0).sched.service.any (fun o => o.kind == .recalibrate)
        = true := by decide +kernel

theorem test_a_cancelled_recalibration_ends_with_its_step : ∀ track0,
    nextIs (exec (.stepDone 0 track0) (recalling true .ending (some .cancelled))) (fun t =>
      (t.vol.drive 0).seq.cyl == none && (t.vol.drive 0).seq.recal == none && !(t.vol.drive 0).seq.settleOwed
        && (t.vol.drive 0).sched.service == none && (t.vol.port 0).store == [⟨[0x80, 9, 0x50], .plain⟩]) = true := by
  decide +kernel

/-- A sequencer of drive 0 with what positioning looks at. -/
def seqAt (step : Option StepMove) (cyl : Option Nat) (settle : Option Nat) (settleOwed : Bool) (head : HeadLoad) : Sequencer :=
  { (desk.vol.drive 0).seq with step, cyl, settle, settleOwed, head }

theorem test_meets_PositioningGoesOn_goes :
    (seqAt (some { inward := true, units := 3 }) none none true .loaded).step ≠ none
      ∧ (∀ owed, (seqAt none (some 5) (some 7) owed .loaded).settle ≠ none ∧ (seqAt none (some 5) none owed .unloaded).head ≠ .loaded
        ∧ (seqAt none (some 5) none owed .loaded).settle = none)
      ∧ (180 : Nat) ≠ 0 ∧ (5 : Nat) ≠ 4 ∧ (seqAt none none none false .loaded).cyl = none
      ∧ ((tracking 0).vol.drive 0).seq.job = .unit (unit0 (.track 2) false [] [])
      ∧ ((moving0 (.loading (load0 8))).vol.drive 0).seq.job = .loading (load0 8)
      ∧ (writing0.vol.drive 0).seq.job = .order ∧ (writing0.vol.drive 0).sched.service = some (order0 .write .write .routine 0)
      ∧ ((recalling false .running none).vol.drive 0).sched.service.any (fun o => o.kind == .recalibrate) = true := by
  decide +kernel

theorem test_positioning_is_decided :
    let t : Timing := { step := 36, settle := 180, load := 210 }
    (Sequencer.go t false 5 true (seqAt (some { inward := true, units := 3 }) (some 4) none true .loaded)).step
        = some { inward := true, units := 3 }
      ∧ (Sequencer.go t false 5 true (seqAt none (some 5) none true .loaded)).settle = some 180
      ∧ (Sequencer.go { t with settle := 0 } false 5 true (seqAt none (some 5) none true .loaded)).phase = .ready
      ∧ (Sequencer.go t false 5 true (seqAt none (some 5) (some 7) false .loaded)).phase = .positioning
      ∧ (Sequencer.go t false 5 true (seqAt none (some 5) none false (.loading 9))).phase = .positioning
      ∧ (Sequencer.go t false 5 false (seqAt none (some 5) none false (.loading 9))).phase = .ready
      ∧ (Sequencer.go t false 5 true (seqAt none (some 6) none false .loaded)).step = some { inward := false, units := 36 }
      ∧ (Sequencer.go t false 5 true (seqAt none none none false .loaded)).recal = some 1
      ∧ (Sequencer.go t true 5 true (seqAt none none none false .loaded)).step = some { inward := true, units := 36 }
      ∧ (Sequencer.lower t (seqAt none none none false .unloaded)).head = .loading 210
      ∧ (Sequencer.lower { t with load := 0 } (seqAt none none none false .unloaded)).head = .loaded
      ∧ (Sequencer.lower t (seqAt none none none false (.loading 9))).head = .loading 9 := by decide +kernel

/-- Where drive 0 goes for a job: the side selected and the first step. -/
def goesFor (job : Job) : Nat × Option Bool :=
  let q := ((onVol (working job .positioning (some (order0 .write .write .routine 0)) desk) (fun v => v.modSeq 0 (fun q =>
    { q with cyl := some 1 }))).vol.go desk.bat 0 |>.drive 0).seq
  (q.side, q.step.map StepMove.inward)

theorem test_positioning_targets :
    goesFor .order = (0, none) ∧ goesFor (.loading (load0 7)) = (0, some false) ∧ goesFor (.loading (load0 8)) = (1, some false)
      ∧ goesFor (.unit (unit0 (.track 3) false [] [])) = (1, none)
      ∧ goesFor (.unit (unit0 (.track 153) false [] [])) = (1, some true)
      ∧ goesFor (.unit (unit0 (.catalog 1) false [] [])) = (1, some false)
      ∧ goesFor (.unit (unit0 .label false [] [])) = (0, some false) := by decide +kernel

theorem test_set_restarts_an_unload_count :
    (((seq0 (fun q => { q with unload := some 3 })).vol.noteSet (.cabinet 0 3) 9).drive 0).seq.unload = some 0
      ∧ (((seq0 (fun q => { q with unload := some 3 })).vol.noteSet (.cabinet 0 3) 0).drive 0).seq.unload = none
      ∧ (desk.vol.noteSet (.cabinet 0 3) 9 |>.drive 0).seq.unload = none
      ∧ (((seq0 (fun q => { q with unload := some 3 })).vol.noteSet (.cabinet 0 2) 9).drive 0).seq.unload = some 3
      ∧ nextIs (exec (.set 8 1 67 9) (seq0 (fun q => { q with unload := some 3 }))) (fun t =>
        (t.vol.drive 0).seq.unload == some 0) = true := by decide +kernel

/-- Drive 0's catalog of story A and seven stories that line 0 holds, A served under a catalog write that has ended, and
a request of line 0 that waited on it. -/
def awaiting (kind : ReqKind) (held : Nat) (slug : Byte) : Vol :=
  (withRequest { request0 kind .waiting with slug := name slug }).vol.modMirror 0 (fun m => { m with
    slots := some (filed 0x41 [⟨1, 0, 0, 1⟩] 10) :: some (filed 0x45 [] 0) ::
      List.replicate held (some { filed 0x42 [] 0 with holder := some 0 }) })

theorem test_meets_FetchAndDrawOpenTheirRequests_proceed :
    (∀ k ∈ [ReqKind.fetch, .draw], ∀ n ∈ [7, 8], ∀ x ∈ [0x41, 0x45],
      ((awaiting k n x).req 0).any (fun q => q.kind == k && q.slug == name x && q.ordersMade == 0) = true
        ∧ (awaiting k n x).holdCount 0 = n)
      ∧ ((awaiting .draw 8 0x41).mirror 0).any (fun m => m.lookup (name 0x41) == some 0 && m.lookup (name 0x5A) == none
        && m.lookup (name 0x45) == some 1) = true := by decide +kernel

theorem test_a_waiting_request_goes_on :
    (((awaiting .fetch 8 0x5A).proceed desk.bat 0).req 0).bind Request.outcome = some .notFound
      ∧ (((awaiting .draw 8 0x41).proceed desk.bat 0).req 0).bind Request.outcome = some .noSlot
      ∧ (((awaiting .fetch 8 0x41).proceed desk.bat 0).req 0).any (fun q => q.stage == .reading && q.ordersMade == 1) = true
      ∧ (((awaiting .draw 7 0x41).proceed desk.bat 0).entry 0 0).any (fun e => e.readers == 1 && e.holder == some 0) = true
      ∧ (((awaiting .draw 7 0x45).proceed desk.bat 0).req 0).bind Request.outcome = some .done
      ∧ (((awaiting .draw 7 0x45).proceed desk.bat 0).entry 0 1).any (fun e => e.readers == 0 && e.holder == some 0) = true := by
  decide +kernel

/-- Two requests that wait on slot 0, the second admitted first. -/
def waitingTwo : Vol :=
  ((awaiting .fetch 7 0x41).setReq 2 (some { request0 .draw .waiting with admitted := 4 })).modReq 0 (fun q =>
    { q with admitted := 5 })

theorem test_waiting_requests_wake_in_their_order :
    ((waitingTwo.wake desk.bat 0 0).drive 0).sched.queue.map Order.req = [2, 0]
      ∧ ((waitingTwo.wake desk.bat 0 0).entry 0 0).map Entry.readers = some 2
      ∧ waitingTwo.wake desk.bat 0 1 = waitingTwo := by decide +kernel

/-- A request of line 0 that has buffer 3 and stands on story B, with what it has set in B's entry. -/
def ending0 (kind : ReqKind) (silent : Bool) : Vol :=
  ((withRequest { request0 kind .reading with slot := 1, onEntry := true, silent }).vol.modEntry 0 1 (fun e =>
    { e with spike := some 0 })).setBuf 3 { owner := some 0, data := [7] }

theorem test_ending_requests_let_go :
    (((ending0 .draw false).finish 0 .readFault [] false).entry 0 1).any (fun e => e.holder == none && e.spike == some 0) = true
      ∧ (((ending0 .draw false).finish 0 .done [] false).entry 0 1).any (fun e => e.holder == some 0) = true
      ∧ (((ending0 .spike false).finish 0 .writeFault [] false).entry 0 1).any (fun e => e.holder == some 0 && e.spike == none)
        = true
      ∧ ((ending0 .draw false).finish 0 .readFault [] false).buf 3 = { owner := none, data := [7] }
      ∧ (((ending0 .draw false).finish 0 .readFault [1] true).req 0).any (fun q => q.stage == .answered
        && q.replies.map Waiting.body == [.single [0x80, 9, 0x40, 1]] && q.replies.all Waiting.direct) = true
      ∧ ((ending0 .draw true).finish 0 .readFault [] false).req 0 = none
      ∧ ((ending0 .draw false).req 0).any (fun q => q.kind == .draw && q.onEntry && !q.silent) = true := by decide +kernel

/-! ## A COPY whose drive is discarded: the hypotheses are met -/

/-- The COPY of slot 0 at a stage, drive 1 RECEIVING with a job of it in a phase, and an order of it in service or none. -/
def copyingAt (stage : Stage) (job : Job) (phase : Phase) (o : Option Order) : Vol :=
  (((withRequest (copy0 stage)).vol.modSeq 1 (fun q => { q with job, phase, mount := .receiving })).modSched 1 (fun x =>
    { x with service := o })).modCat 0 (fun c => { c with copySource := true })

/-- What a discard of a drive, all its work elsewhere, makes of that COPY: its stage, its outcome, its stop and drive 1. -/
def discarded (d : DriveNo) (v : Vol) : Option Stage × Option OutcomeCode × Bool × MountState :=
  let w := v.discardRequest desk.bat d (v.drive d) .driveFault 0
  ((w.req 0).map Request.stage, (w.req 0).bind Request.outcome, (w.req 0).any (fun q => q.copy.any CopyWork.stop), w.mount 1)

/-- A unit of that COPY. -/
def copyUnit (kind : UnitKind) : Job := .unit (unit0 kind true [] [3, 4])

theorem test_meets_StallsAndDoorOpeningsDiscardTheWork_copies :
    (∀ s ∈ [Stage.catalog, .ending], (copyingAt s (copyUnit (.catalog 0)) (.unitPass false true) none).req 0 = some (copy0 s)
        ∧ (copy0 s).dest = 1 ∧ (copy0 s).drive = 0 ∧ (copy0 s).copy.any CopyWork.holdsSource = true
        ∧ (copy0 s).stage ≠ .answered ∧ (copy0 s).stage ≠ .delivering)
      ∧ ((copyingAt .catalog (copyUnit (.catalog 0)) (.unitPass false true) none).drive 1).seq.phase = .unitPass false true
      ∧ ((copyingAt .catalog (copyUnit (.catalog 0)) (.unitPass false true) none).drive 0).sched.hasOrder 0 = false
      ∧ (copyingAt .tracks .order .transfer (some (order0 .copyWrite .write .background 0)) |>.drive 1).sched.hasOrder 0 = true
      ∧ (busy.drive 0).sched.hasOrder 16 = true := by decide +kernel

theorem test_a_copy_whose_order_is_elsewhere :
    [discarded 0 (copyingAt .tracks .order .transfer (some (order0 .copyWrite .write .background 0))),
      discarded 0 (copyingAt .tracks .order .positioning (some (order0 .copyWrite .write .background 0))),
      discarded 1 (copyingAt .tracks .order .transfer (some (order0 .copyWrite .write .background 0))),
      discarded 0 (copyingAt .ending .order .transfer (some (order0 .copyWrite .write .background 0)))]
    = [(some .ending, some .driveFault, false, .receiving), (some .answered, some .driveFault, false, .loading),
      (some .answered, some .driveFault, false, .receiving), (some .ending, none, false, .receiving)] := by decide +kernel

theorem test_a_copy_whose_unit_is_elsewhere :
    [discarded 0 (copyingAt .catalog (copyUnit (.catalog 0)) (.unitPass false true) none),
      discarded 0 (copyingAt .catalog (copyUnit (.catalog 0)) (.unitPass true false) none),
      discarded 0 (copyingAt .ending (copyUnit (.catalog 0)) (.unitPass true false) none),
      discarded 0 (copyingAt .opening (copyUnit .invalidate) .transfer none),
      discarded 2 (copyingAt .catalog (copyUnit (.catalog 0)) (.unitPass true false) none)]
    = [(some .ending, some .driveFault, true, .receiving), (some .answered, some .driveFault, true, .loading),
      (some .answered, some .cancelled, true, .loading), (some .ending, some .driveFault, false, .receiving),
      (some .catalog, none, false, .receiving)] := by decide +kernel

/-- That COPY, stopped, in the middle of a sector of its catalog unit. -/
def stopped (verify : Bool) : State :=
  { desk with vol := (copyingAt .ending (copyUnit (.catalog 0)) (.unitPass verify true) none).modReq 0 (fun q =>
      { q with outcome := some .driveFault, copy := q.copy.map (fun c => { c with stop := true }) }) }

theorem test_meets_SectorBoundariesEndTransfers_stopped : ∀ verify,
    (stopped verify).vol.live = true ∧ ((stopped verify).vol.drive 1).seq.phase = .unitPass verify true
      ∧ ((stopped verify).vol.drive 1).seq.job = .unit (unit0 (.catalog 0) true [] [3, 4])
      ∧ (stopped verify).vol.unitStops (unit0 (.catalog 0) true [] [3, 4]) = true := by decide +kernel

theorem test_a_stopped_unit_ends_its_copy : ∀ verify,
    nextIs (exec (if verify then .verifySectorEnd 1 .asStored else .sectorBoundary 1 .asStored) (stopped verify)) (fun t =>
      t.vol.mount 1 == .loading && t.vol.req 0 == none && !(t.vol.drive 0).cat.copySource
        && (t.vol.port 0).store.any (fun f => f.body == [0x80, 9, 0x45])) = true := by decide +kernel

theorem test_characters_in_a_break_do_nothing :
    (∀ c ∈ [Instr.characterReceived 0 0x02, .frameComplete 0 0xCE, .frameFault 0 .framingFault],
      nextIs (exec c (onVol (lastByte [0x0A, 5] 0x55) (fun v => v.modPort 0 (fun p => { p with detector := .timing })))) (fun t =>
        t == onVol (lastByte [0x0A, 5] 0x55) (fun v => v.modPort 0 (fun p => { p with detector := .timing }))) = true)
      ∧ ((onVol quiet (fun v => v.modPort 0 (fun p => { p with detector := .timing }))).vol.port 0).detector = .timing := by
  decide +kernel

end Sys2Proof.Tests
end

section
/-! PROOFS. The diskette: its canonical form, where a command stores, the data indices and the cyclic check. -/

namespace Sys2Proof.Machine

/-! ## The diskettes -/

theorem insertsDisk_eq_false {c : Instr}
    (h : match c with
      | .doorLineChange _ _ (some _) => False
      | _ => True) : insertsDisk c = false := by
  unfold insertsDisk
  split
  · exact h.elim
  · rfl

theorem reachesDisk_eq_false {c : Instr}
    (h : match c with
      | .sectorBoundary .. => False
      | .verifySectorEnd .. => False
      | .indexStall _ => False
      | .doorOpening _ => False
      | .stepDone .. => False
      | .frameSent _ => False
      | .powerOn _ => False
      | .resetHold => False
      | .mainPowerLoss => False
      | .doorLineChange .. => False
      | _ => True) : reachesDisk c = false := by
  cases c
  case sectorBoundary | verifySectorEnd | indexStall | doorOpening | stepDone | frameSent | powerOn | resetHold
      | mainPowerLoss | doorLineChange => exact h.elim
  all_goals rfl

/-- A diskette put in is the one the command brings, where the door's reading changes at all. -/
theorem Cable.disk_doorLine (closed : Bool) (m : Diskette) (c : Cable) :
    (c.doorLine closed (some m)).disk = c.disk ∨ (c.doorLine closed (some m)).disk = m := by
  unfold Cable.doorLine
  split
  · exact .inl rfl
  · exact .inr rfl

/-- Log 8: a command's own effects keep the diskettes in their canonical form, the command being well formed. -/
theorem wf_ownEffect (c : Instr) (b : Battery) (v : Vol) (hc : c.wellFormed = true)
    (h : ∀ d, (v.drive d).cable.disk.wf = true) (d : DriveNo) :
    ((ownEffect c b v).2.drive d).cable.disk.wf = true := by
  by_cases hi : insertsDisk c = false
  · exact (disksFrom_ownEffect c b v hi d).2 (h d)
  · unfold insertsDisk at hi
    split at hi
    · next e closed m =>
      change ((v.modCable e (Cable.doorLine closed (some m))).drive d).cable.disk.wf = true
      by_cases hd : d = e
      · subst hd
        rw [Vol.drive_modCable_self]
        change ((v.drive d).cable.doorLine closed (some m)).disk.wf = true
        rcases Cable.disk_doorLine closed m (v.drive d).cable with hm | hm <;> rw [hm]
        · exact h d
        · exact hc
      · rw [Vol.drive_modCable_ne _ _ _ _ hd]
        exact h d
    · exact absurd rfl hi

/-- The follow-on work keeps every diskette (log 5). -/
theorem State.disk_finish (s : State) (p : Battery × Vol) (d : DriveNo) :
    ((s.finish p).vol.drive d).cable.disk = (p.2.drive d).cable.disk := by
  rw [(s.placedOnly_finish p).2.2.1 d]

/-- Settles O9, from what a command's own effects can store and what the follow-on work leaves alone. -/
theorem stepKeepsDiskettesCanonical : Obligations.StepKeepsDiskettesCanonical := by
  intro s t hs h
  rcases step_cases h with rfl | ⟨c, rest, hp, he⟩
  · exact hs
  · obtain ⟨hw, hd⟩ := hs
    rw [hp] at hw
    have hrest : ∀ x ∈ rest, x.wellFormed = true := fun x hx => hw x (List.mem_cons_of_mem _ hx)
    rcases exec_cases he with rfl | ⟨_, rfl⟩
    · exact ⟨hrest, hd⟩
    · refine ⟨hrest, fun d => ?_⟩
      rw [State.disk_finish]
      exact wf_ownEffect c _ _ (hw c List.mem_cons_self) hd d

/-- Settles O14: a command's own effects store where its drive writes, and the follow-on work nowhere. -/
theorem diskettesChangeOnlyWhereTheyAreWritten : Obligations.DiskettesChangeOnlyWhereTheyAreWritten := by
  constructor
  · intro c s t h hc d
    rcases exec_cases h with rfl | ⟨_, rfl⟩
    · exact agreeBut_refl ..
    · rw [State.disk_finish]
      exact (disksFrom_ownEffect c _ _ (insertsDisk_eq_false hc) d).1
  · intro c s t h hc d
    rcases exec_cases h with rfl | ⟨_, rfl⟩
    · rfl
    · rw [State.disk_finish]
      exact disksKept_ownEffect c _ _ (reachesDisk_eq_false hc) d

/-- Settles O57. -/
theorem dataIndicesAreTheirOwn : Obligations.DataIndicesAreTheirOwn := by
  refine ⟨fun c h n _ _ _ _ => ?_, fun c h n c' h' n' _ _ _ _ _ _ _ _ e => ?_, rfl, rfl⟩
  · unfold dataIndex
    omega
  · unfold dataIndex at e
    omega

/-! ## The cyclic check (R5) -/

/-- R5: one bit of data taken into the check register, as the rule says it. -/
def crcStep (r : Word16) (bit : Bool) : Word16 := if r.msb != bit then (r <<< 1) ^^^ 0x1021 else r <<< 1

/-- A data bit taken with the register's top bit is the data added to the register first. -/
theorem crcBit_xor (r x : Word16) : crcBit (r ^^^ x) = crcStep r x.msb ^^^ (x <<< 1) := by
  unfold crcBit crcStep
  rw [BitVec.msb_xor, BitVec.shiftLeft_xor_distrib]
  cases r.msb <;> cases x.msb <;> simp <;> ac_rfl

/-- The bit of a byte that stands at the top of the register after some shifts. -/
theorem msb_byteHigh (b : Byte) (i : Nat) (h : i < 8) : ((b.setWidth 16 <<< 8) <<< i).msb = b.getLsbD (7 - i) := by
  rw [BitVec.msb_eq_getLsbD_last, BitVec.getLsbD_shiftLeft, BitVec.getLsbD_shiftLeft, BitVec.getLsbD_setWidth]
  have h1 : 16 - 1 - i - 8 = 7 - i := by omega
  have h2 : ¬ 15 - i < 8 := by omega
  have h3 : 7 - i < 16 := by omega
  have h4 : 15 - i < 16 := by omega
  have h5 : ¬ 15 < i := by omega
  simp [h1, h2, h3, h4, h5]

/-- R5: a byte is taken most-significant bit first. -/
theorem crcByte_eq_steps (r : Word16) (b : Byte) :
    crcByte r b = (List.range 8).foldl (fun r i => crcStep r (b.getLsbD (7 - i))) r := by
  have step : ∀ (s : Word16) (i : Nat), i < 8 →
      crcBit (s ^^^ ((b.setWidth 16 <<< 8) <<< i)) = crcStep s (b.getLsbD (7 - i)) ^^^ ((b.setWidth 16 <<< 8) <<< (i + 1)) := by
    intro s i hi
    rw [crcBit_xor, msb_byteHigh b i hi, BitVec.shiftLeft_add]
  have first := step r 0 (by omega)
  rw [BitVec.shiftLeft_zero] at first
  have last : (b.setWidth 16 <<< 8) <<< 8 = (0 : Word16) := by
    rw [← BitVec.shiftLeft_add]
    exact BitVec.shiftLeft_eq_zero (by omega)
  unfold crcByte
  rw [first, step _ 1 (by omega), step _ 2 (by omega), step _ 3 (by omega), step _ 4 (by omega), step _ 5 (by omega),
    step _ 6 (by omega), step _ 7 (by omega), last]
  simp [List.range, List.range.loop]

/-- The last bit of the register is the bit that was shifted out, as the polynomial's last term is 1. -/
theorem getLsbD_crcBit (r : Word16) : (crcBit r).getLsbD 0 = r.msb := by
  unfold crcBit
  cases h : r.msb <;> simp

theorem crcBit_injective : Function.Injective crcBit := by
  intro r s h
  have hm : r.msb = s.msb := by rw [← getLsbD_crcBit, ← getLsbD_crcBit, h]
  have hs : r <<< 1 = s <<< 1 := by
    unfold crcBit at h
    rw [hm] at h
    split at h
    · exact (BitVec.xor_left_inj _).mp h
    · exact h
  ext i hi
  rw [BitVec.msb_eq_getLsbD_last, BitVec.msb_eq_getLsbD_last] at hm
  have hb := congrArg (fun z : Word16 => z.getLsbD (i + 1)) hs
  simp only [BitVec.getLsbD_shiftLeft] at hb
  by_cases h15 : i = 15
  · subst h15
    simpa using hm
  · have : i + 1 < 16 := by omega
    simpa [this, BitVec.getLsbD_eq_getElem hi] using hb

/-- The register after eight bits. -/
def crcShift (r : Word16) : Word16 :=
  crcBit (crcBit (crcBit (crcBit (crcBit (crcBit (crcBit (crcBit r)))))))

theorem crcByte_eq_shift (r : Word16) (b : Byte) : crcByte r b = crcShift (r ^^^ (b.setWidth 16 <<< 8)) := rfl

theorem crcShift_injective : Function.Injective crcShift := by
  intro r s h
  unfold crcShift at h
  iterate 8 replace h := crcBit_injective h
  exact h

/-- Eight bits of a register whose upper byte is 0 shift its lower byte up. -/
theorem crcShift_lowByte : ∀ b : Byte, crcShift (b.setWidth 16) = b.setWidth 16 <<< 8 := by decide

theorem crcByte_eq_zero (r : Word16) (b : Byte) : crcByte r b = 0 ↔ r = b.setWidth 16 <<< 8 := by
  rw [crcByte_eq_shift, show (0 : Word16) = crcShift 0 from rfl, crcShift_injective.eq_iff]
  exact BitVec.xor_eq_zero_iff

/-- R5: a field followed by a check gives 0 exactly when the check is its own. -/
theorem crcByte_crcByte_eq_zero (r c : Word16) :
    crcByte (crcByte r (c.extractLsb' 8 8)) (c.extractLsb' 0 8) = 0 ↔ r = c := by
  rw [crcByte_eq_zero, crcByte_eq_shift, ← crcShift_lowByte (c.extractLsb' 0 8), crcShift_injective.eq_iff]
  have hc : c = (c.extractLsb' 0 8).setWidth 16 ^^^ ((c.extractLsb' 8 8).setWidth 16 <<< 8) := by
    ext i hi
    by_cases h8 : i < 8
    · simp [h8, BitVec.getLsbD_eq_getElem hi]
    · have h3 : i - 8 < 8 := by omega
      have h4 : 8 + (i - 8) = i := by omega
      simp [h8, h3, h4, BitVec.getLsbD_eq_getElem hi]
  constructor
  · intro h
    rw [hc, ← h, BitVec.xor_assoc, BitVec.xor_self, BitVec.xor_zero]
  · intro h
    rw [h]
    nth_rewrite 1 [hc]
    rw [BitVec.xor_assoc, BitVec.xor_self, BitVec.xor_zero]

theorem crc_append (bs : List Byte) (b : Byte) : crc (bs ++ [b]) = crcByte (crc bs) b := by
  unfold crc
  rw [List.foldl_append]
  rfl

/-- Settles O50. -/
theorem theCheckIsTheCyclicCheck : Obligations.TheCheckIsTheCyclicCheck := by
  refine ⟨rfl, rfl, by decide +kernel, fun bs b => ?_, fun bs c => ?_, fun h => ?_, fun m c h n bs x hl => ?_, fun _ => rfl⟩
  · rw [crc_append, crcByte_eq_steps]
    simp only [crcStep, BitVec.msb_eq_getLsbD_last]
  · rw [List.append_cons, crc_append, crc_append]
    exact crcByte_crcByte_eq_zero _ _
  · unfold headerGood
    exact beq_iff_eq
  · unfold Diskette.readField
    simp [hl, Config.sectorBytes]

end Sys2Proof.Machine
end

section
/-! PROOFS. What is written on a diskette reads back: data fields, labels and slot images. -/

namespace Sys2Proof.Machine

/-! ## Bytes by their place -/

theorem byteAt_append (a b : List Byte) (n : Nat) :
    byteAt (a ++ b) n = if n < a.length then byteAt a n else byteAt b (n - a.length) := by
  unfold byteAt
  split
  · next h => exact List.getD_append _ _ _ _ h
  · next h => exact List.getD_append_right _ _ _ _ (Nat.le_of_not_lt h)

theorem slice_append (a b : List Byte) (start count : Nat) (h : a.length ≤ start) :
    slice (a ++ b) start count = slice b (start - a.length) count := by
  unfold slice
  rw [List.drop_append, List.drop_eq_nil_of_le h, List.nil_append]

theorem slice_front (a b : List Byte) (n : Nat) (h : a.length = n) : slice (a ++ b) 0 n = a := by
  unfold slice
  rw [List.drop_zero]
  exact List.take_left' h

/-- A byte in a list of pieces of one length, by its piece and its place there. -/
theorem byteAt_flatMap {α : Type} (f : α → List Byte) (k : Nat) (hf : ∀ x, (f x).length = k) (j : Nat) (hj : j < k) :
    ∀ (l : List α) (c : List Byte) (i : Nat) (h : i < l.length),
      byteAt (l.flatMap f ++ c) (k * i + j) = byteAt (f l[i]) j
  | x :: l, c, 0, _ => by
    rw [List.flatMap_cons, List.append_assoc, byteAt_append, if_pos (by rw [hf]; omega)]
    simp
  | x :: l, c, i + 1, h => by
    have hk : k * (i + 1) + j - (f x).length = k * i + j := by
      rw [hf, Nat.mul_succ]
      omega
    rw [List.flatMap_cons, List.append_assoc, byteAt_append, if_neg (by rw [hf, Nat.mul_succ]; omega), hk,
      byteAt_flatMap f k hf j hj l c i (Nat.lt_of_succ_lt_succ h)]
    rfl

theorem length_flatMap_of {α : Type} (f : α → List Byte) (k : Nat) (hf : ∀ x, (f x).length = k) (l : List α) :
    (l.flatMap f).length = k * l.length := by
  simp [List.length_flatMap, hf, Nat.mul_comm]

theorem length_padTo (n : Nat) (bs : List Byte) (h : bs.length ≤ n) : (padTo n bs).length = n := by
  unfold padTo
  rw [List.length_append, List.length_replicate]
  omega

@[simp] theorem length_be16 (n : Nat) : (be16 n).length = 2 := rfl

theorem fromBe16_be16 (n : Nat) (h : n < 65536) : fromBe16 (byteAt (be16 n) 0) (byteAt (be16 n) 1) = n := by
  simp [fromBe16, byteAt, be16]
  omega

/-! ## Data fields -/

theorem sectorOf_of_le (bs : List Byte) (h : bs.length ≤ 1024) :
    sectorOf bs = bs ++ List.replicate (1024 - bs.length) 0 := by
  unfold sectorOf padTo Config.sectorBytes
  rw [List.take_of_length_le h]

theorem Diskette.sector_writeData {m : Diskette} {c h n : Nat} (bs : List Byte) (a : addressOk c h n = true)
    (w : m.wf = true) : (m.writeData c h n bs).sector c h n = { m.sector c h n with data := .good (sectorOf bs) } :=
  Diskette.sector_put_self a w

theorem Diskette.readField_writeData {m : Diskette} {c h n : Nat} (bs : List Byte) (a : addressOk c h n = true)
    (w : m.wf = true) : (m.writeData c h n bs).readField c h n .asStored = some (sectorOf bs) := by
  unfold Diskette.readField
  rw [Diskette.sector_writeData bs a w]

/-! ## Labels (R8, R189) -/

/-- R189: a label's 1024 bytes, field after field. -/
theorem labelBytes_eq (volume date : List Byte) (n : Nat) (bads : List Nat) :
    ∃ zeros, labelBytes volume date n bads
      = labelStamp ++ (volume ++ (date ++ ([BitVec.ofNat 8 n] ++ (bads.flatMap be16 ++ zeros)))) := by
  unfold labelBytes padTo
  simp only [List.append_assoc]
  exact ⟨_, rfl⟩

theorem length_labelBytes (volume date : List Byte) (n : Nat) (bads : List Nat) (hv : volume.length = 8)
    (hd : date.length = 6) (hb : bads.length ≤ 16) : (labelBytes volume date n bads).length = 1024 := by
  refine length_padTo _ _ ?_
  simp only [List.length_append, hv, hd, length_flatMap_of be16 2 length_be16]
  simp [labelStamp, Config.sectorBytes]
  omega

theorem badEntryAt_labelBytes (volume date : List Byte) (n : Nat) (bads : List Nat) (hv : volume.length = 8)
    (hd : date.length = 6) (hx : ∀ x ∈ bads, x < 1216) (i : Nat) (hi : i < bads.length) :
    badEntryAt (labelBytes volume date n bads) i = bads[i] := by
  obtain ⟨zeros, e⟩ := labelBytes_eq volume date n bads
  have place : ∀ j, j < 2 → byteAt (labelBytes volume date n bads) (19 + 2 * i + j) = byteAt (be16 bads[i]) j := by
    intro j hj
    have h1 : ¬ 19 + 2 * i + j < 4 := by omega
    have h2 : ¬ 19 + 2 * i + j - 4 < 8 := by omega
    have h3 : ¬ 19 + 2 * i + j - 4 - 8 < 6 := by omega
    have h4 : ¬ 19 + 2 * i + j - 4 - 8 - 6 < 1 := by omega
    have h5 : 19 + 2 * i + j - 4 - 8 - 6 - 1 = 2 * i + j := by omega
    rw [e]
    simp only [byteAt_append, hv, hd, show labelStamp.length = 4 from rfl, List.length_singleton, if_neg h1, if_neg h2,
      if_neg h3, if_neg h4, h5]
    rw [← byteAt_append, byteAt_flatMap be16 2 length_be16 j hj bads zeros i hi]
  have hb : bads[i] < 1216 := hx _ (List.getElem_mem hi)
  unfold badEntryAt
  rw [show 20 + 2 * i = 19 + 2 * i + 1 by omega, show 19 + 2 * i = 19 + 2 * i + 0 from rfl, place 0 (by omega),
    place 1 (by omega)]
  exact fromBe16_be16 _ (by omega)

theorem parseLabel_labelBytes (volume date : List Byte) (bads : List Nat) (hv : volume.length = 8)
    (hd : date.length = 6) (hb : bads.length ≤ 16) (hx : ∀ x ∈ bads, x < 1216) :
    parseLabel (labelBytes volume date bads.length bads)
      = some { volume := volume, date := date, badCount := bads.length, bads := bads } := by
  obtain ⟨zeros, e⟩ := labelBytes_eq volume date bads.length bads
  have hstamp : slice (labelBytes volume date bads.length bads) 0 4 = labelStamp := by
    rw [e]
    exact slice_front _ _ 4 rfl
  have hvol : slice (labelBytes volume date bads.length bads) 4 8 = volume := by
    rw [e, slice_append _ _ 4 8 (by decide)]
    exact slice_front _ _ 8 hv
  have hdate : slice (labelBytes volume date bads.length bads) 12 6 = date := by
    rw [e, slice_append _ _ 12 6 (by decide), slice_append _ _ _ 6 (by rw [hv]; decide), hv]
    exact slice_front _ _ 6 hd
  have hcount : natAt (labelBytes volume date bads.length bads) 18 = bads.length := by
    rw [natAt, e]
    simp only [byteAt_append, hv, hd, show labelStamp.length = 4 from rfl]
    simp [byteAt]
    omega
  have hbads : (List.range bads.length).map (badEntryAt (labelBytes volume date bads.length bads)) = bads := by
    refine List.ext_getElem (by simp) (fun i _ h => ?_)
    rw [List.getElem_map, List.getElem_range, badEntryAt_labelBytes _ _ _ _ hv hd hx i h]
  unfold parseLabel
  simp only [hstamp, hvol, hdate, hcount, hbads]
  rw [if_pos]
  simp only [Bool.and_eq_true, beq_self_eq_true, true_and, decide_eq_true_iff, List.all_eq_true]
  exact ⟨hb, hx⟩

/-! ## Slot images (R18, R189) -/

@[simp] theorem Extent.length_bytes (e : Extent) : e.bytes.length = 3 := rfl

theorem Extent.inRange_iff (e : Extent) :
    e.inRange = true ↔ 1 ≤ e.cyl ∧ e.cyl ≤ 76 ∧ e.side ≤ 1 ∧ e.first ≤ 7 ∧ 1 ≤ e.count ∧ e.count ≤ 8
      ∧ e.first + e.count ≤ 8 := by
  simp only [Extent.inRange, Bool.and_eq_true, decide_eq_true_iff, and_assoc]
  rfl

/-- R189: a filed slot's 64 bytes, field after field. -/
theorem SlotImage.bytes_eq (w : SlotImage) (h : w.state = .filed) :
    ∃ zeros, w.bytes = w.slug ++ ([EntryState.filed.code, BitVec.ofNat 8 w.edition] ++ (be16 w.revision ++ (w.timestamp
      ++ (be16 w.length ++ ([BitVec.ofNat 8 w.extents.length] ++ (w.extents.flatMap Extent.bytes ++ zeros)))))) := by
  unfold SlotImage.bytes padTo
  rw [h]
  simp only [List.append_assoc]
  exact ⟨_, rfl⟩

theorem SlotImage.length_bytes (w : SlotImage) (h : w.state = .filed) (hs : w.slug.length = 12)
    (ht : w.timestamp.length = 6) (hx : w.extents.length ≤ 12) : w.bytes.length = 64 := by
  unfold SlotImage.bytes
  rw [h]
  refine length_padTo _ _ ?_
  simp only [List.length_append, hs, ht, length_be16, length_flatMap_of _ 3 Extent.length_bytes, List.length_cons,
    List.length_nil]
  omega

theorem extentAt_bytes (w : SlotImage) (h : w.state = .filed) (hs : w.slug.length = 12) (ht : w.timestamp.length = 6)
    (i : Nat) (hi : i < w.extents.length) (hr : (w.extents[i]).inRange = true) : extentAt w.bytes i = w.extents[i] := by
  obtain ⟨zeros, e⟩ := w.bytes_eq h
  have place : ∀ j, j < 3 → byteAt w.bytes (25 + 3 * i + j) = byteAt (w.extents[i]).bytes j := by
    intro j hj
    have h1 : ¬ 25 + 3 * i + j < 12 := by omega
    have h2 : ¬ 25 + 3 * i + j - 12 < 2 := by omega
    have h3 : ¬ 25 + 3 * i + j - 12 - 2 < 2 := by omega
    have h4 : ¬ 25 + 3 * i + j - 12 - 2 - 2 < 6 := by omega
    have h5 : ¬ 25 + 3 * i + j - 12 - 2 - 2 - 6 < 2 := by omega
    have h6 : ¬ 25 + 3 * i + j - 12 - 2 - 2 - 6 - 2 < 1 := by omega
    have h7 : 25 + 3 * i + j - 12 - 2 - 2 - 6 - 2 - 1 = 3 * i + j := by omega
    rw [e]
    simp only [byteAt_append, hs, ht, length_be16, List.length_cons, List.length_nil, Nat.zero_add, Nat.reduceAdd,
      if_neg h1, if_neg h2, if_neg h3, if_neg h4, if_neg h5, if_neg h6, h7]
    rw [← byteAt_append, byteAt_flatMap _ 3 Extent.length_bytes j hj _ zeros i hi]
  obtain ⟨_, hcyl, hside, hfirst, _, hcount, _⟩ := (Extent.inRange_iff _).mp hr
  have p0 := place 0 (by omega)
  have p1 := place 1 (by omega)
  have p2 := place 2 (by omega)
  unfold extentAt natAt
  rw [show 25 + 3 * i = 25 + 3 * i + 0 from rfl, show 26 + 3 * i = 25 + 3 * i + 1 by omega,
    show 27 + 3 * i = 25 + 3 * i + 2 by omega, p0, p1, p2]
  generalize w.extents[i] = x at *
  obtain ⟨cyl, side, first, count⟩ := x
  simp [Extent.bytes, byteAt] at *
  omega

theorem rawSlot_bytes (w : SlotImage) (h : w.state = .filed) (hs : w.slug.length = 12) (he : w.edition < 256)
    (hr : w.revision < 65536) (ht : w.timestamp.length = 6) (hl : w.length < 65536) (hx : w.extents.length ≤ 12)
    (hi : ∀ e ∈ w.extents, e.inRange = true) :
    rawSlot w.bytes = { stateByte := 1, extentCount := w.extents.length, image := { w with state := .damaged } } := by
  obtain ⟨zeros, e⟩ := w.bytes_eq h
  have hslug : slice w.bytes 0 12 = w.slug := by
    rw [e]
    exact slice_front _ _ 12 hs
  have htime : slice w.bytes 16 6 = w.timestamp := by
    rw [e, slice_append _ _ 16 6 (by rw [hs]; decide), hs, slice_append _ _ _ 6 (by simp),
      slice_append _ _ _ 6 (by simp)]
    exact slice_front _ _ 6 ht
  have at' : ∀ n, byteAt w.bytes n = _ := fun n => by rw [e]
  simp only [byteAt_append, hs, ht, length_be16, List.length_cons, List.length_nil, Nat.zero_add, Nat.reduceAdd] at at'
  have hextents : (List.range (min w.extents.length 12)).map (extentAt w.bytes) = w.extents := by
    rw [Nat.min_eq_left hx]
    refine List.ext_getElem (by simp) (fun i _ hl' => ?_)
    rw [List.getElem_map, List.getElem_range, extentAt_bytes w h hs ht i hl' (hi _ (List.getElem_mem hl'))]
  have hstate : natAt w.bytes 12 = 1 := by
    rw [natAt, at']
    rfl
  have hedition : natAt w.bytes 13 = w.edition := by
    rw [natAt, at']
    simp [byteAt]
    omega
  have hcount : natAt w.bytes 24 = w.extents.length := by
    rw [natAt, at']
    simp [byteAt]
    omega
  have hrevision : fromBe16 (byteAt w.bytes 14) (byteAt w.bytes 15) = w.revision := by
    rw [at', at']
    exact fromBe16_be16 _ hr
  have hlength : fromBe16 (byteAt w.bytes 22) (byteAt w.bytes 23) = w.length := by
    rw [at', at']
    exact fromBe16_be16 _ hl
  unfold rawSlot
  simp only [hslug, htime, hstate, hedition, hcount, hrevision, hlength, hextents]

/-- Settles O45. -/
theorem whatIsWrittenReadsBack : Obligations.WhatIsWrittenReadsBack := by
  refine ⟨fun m c h n bs w hc hh hn hl => ?_, fun volume date bads hv hd hb hx => ?_, fun w h hs he hr ht hl hx hi => ?_⟩
  · have a : addressOk c h n = true := (addressOk_iff c h n).mpr ⟨hc, hh, hn⟩
    refine ⟨?_, ?_, fun c' h' n' a' e => Diskette.writeData_ne bs a' e⟩
    · rw [Diskette.readField_writeData bs a w, sectorOf_of_le bs hl]
    · rw [Diskette.sector_writeData bs a w]
  · exact ⟨length_labelBytes _ _ _ _ hv hd hb, parseLabel_labelBytes _ _ _ hv hd hb hx⟩
  · exact ⟨w.length_bytes h hs ht hx, rawSlot_bytes w h hs he hr ht hl hx hi⟩

end Sys2Proof.Machine
end

section
/-! PROOFS. Commits and spikes: the admission of a SPIKE, the entry into a catalog write, the records, and which waiters
can go on. -/

namespace Sys2Proof.Machine

/-! ## Entries of a mirror -/

theorem Mirror.entry_modEntry (m : Mirror) (i : Nat) (f : Entry → Entry) :
    (m.modEntry i f).entry i = (m.entry i).map f := by
  unfold Mirror.modEntry Mirror.entry
  by_cases h : i < m.slots.length
  · simp [h]
  · simp [h]

theorem Vol.mirror_modMirror_self (v : Vol) (d : DriveNo) (f : Mirror → Mirror) :
    (v.modMirror d f).mirror d = (v.mirror d).map f := by
  unfold Vol.mirror Vol.modMirror
  rw [Vol.drive_modCat_self]

theorem Vol.entry_modEntry_self (v : Vol) (d : DriveNo) (i : Nat) (f : Entry → Entry) :
    (v.modEntry d i f).entry d i = (v.entry d i).map f := by
  unfold Vol.entry Vol.modEntry
  rw [Vol.mirror_modMirror_self]
  cases v.mirror d with
  | none => rfl
  | some m => exact m.entry_modEntry i f

@[simp] theorem Vol.req_modEntry (v : Vol) (d : DriveNo) (i : Nat) (f : Entry → Entry) (r : ReqId) :
    (v.modEntry d i f).req r = v.req r := rfl

@[simp] theorem Vol.entry_openRequest (v : Vol) (r : ReqId) (q : Request) (d : DriveNo) (i : Nat) :
    (v.openRequest r q).entry d i = v.entry d i := rfl

theorem Vol.entry_of_mirror {v : Vol} {d : DriveNo} {i : Nat} {m : Mirror} (h : v.mirror d = some m) :
    v.entry d i = m.entry i := by
  unfold Vol.entry
  rw [h]
  rfl

/-! ## What a commit or spike needs (R34, R41) -/

theorem Vol.hasBuffer_iff (v : Vol) (q : Request) : v.hasBuffer q = true ↔ q.catBuf ≠ none ∨ 1 ≤ v.freeBufs := by
  simp [Vol.hasBuffer, Option.isSome_iff_ne_none]

theorem Vol.needsRecord_iff (v : Vol) (q : Request) :
    v.needsRecord q = true ↔ ∃ e, v.entry q.drive q.slot = some e ∧ 0 < e.readers := by
  unfold Vol.needsRecord
  cases v.entry q.drive q.slot <;> simp

theorem Vol.canWrite_iff (v : Vol) (q : Request) :
    v.canWrite q = true ↔ (q.catBuf ≠ none ∨ 1 ≤ v.freeBufs)
      ∧ ((∃ e, v.entry q.drive q.slot = some e ∧ 0 < e.readers) → v.freeRecord ≠ none) := by
  unfold Vol.canWrite
  rw [Bool.and_eq_true, v.hasBuffer_iff, Bool.or_eq_true, Bool.not_eq_true', ← Bool.not_eq_true, v.needsRecord_iff,
    Option.isSome_iff_ne_none, imp_iff_not_or]

/-! ## The retired-version pool (R26) -/

theorem mem_allRecords : ∀ k : RecNo, k ∈ allRecords := by decide

theorem Vol.freeRecord_eq_none_iff (v : Vol) : v.freeRecord = none ↔ ∀ k, v.record k ≠ .free := by
  unfold Vol.freeRecord
  rw [List.find?_eq_none]
  simp [mem_allRecords]

theorem Vol.record_of_freeRecord {v : Vol} {k : RecNo} (h : v.freeRecord = some k) : v.record k = .free := by
  unfold Vol.freeRecord at h
  simpa using List.find?_some h

/-! ## SPIKE -/

/-- R41: what SPIKE comes to where every check of R140 and R41 passes. -/
theorem Vol.takeSpike_admits {b : Battery} {v : Vol} {k : Line} {tag drive cls : Byte} {slug : List Byte}
    {f : StoryFields} {r : ReqId} {m : Mirror} {slot : Nat} {e : Entry} (hp : parseSpike tag drive cls slug = some f)
    (hmay : b.mayFile k f.drive = true) (hr : v.freeSlotOf k = some r) (ht : v.tagInUse k tag = false)
    (hg : v.writeGate f.drive = none) (hm : v.mirror f.drive = some m) (hl : m.lookup f.slug = some slot)
    (he : m.entry slot = some e) (hw : writeRefusal k e = none) :
    v.takeSpike b k tag drive cls slug = v.admitSpike b k tag f r slot := by
  simp only [Vol.takeSpike, Vol.writeChecks, hp, hmay, slotCheck_ok hr ht, hg, Vol.spikeLookup, hm, Option.bind_some, hl,
    Vol.entry_of_mirror hm, he, hw, Bool.not_true, Bool.false_eq_true, if_false]

/-- R41: a commit that is due or a spike admitted goes on or waits. -/
theorem Vol.writeDue_eq {b : Battery} {v : Vol} {r : ReqId} {q : Request} (h : v.req r = some q) :
    v.writeDue b r = if v.canWrite q then v.enterWrite b r else
      (v.modReq r (fun q =>
        { q with stage := if q.kind = .spike then .waiting else .commitWait, waitSince := v.stamp })).nextStamp := by
  unfold Vol.writeDue
  rw [h]

theorem Vol.modReq_congr {v : Vol} {r : ReqId} {q : Request} {f g : Request → Request} (h : v.req r = some q)
    (e : f q = g q) : v.modReq r f = v.modReq r g := by
  unfold Vol.modReq
  rw [h, Option.map_some, Option.map_some, e]

/-! ## Into the catalog write (R35, R41) -/

theorem Clock.snapshot_eq (c : Clock) : c.snapshot = if c.valid then c.fields else [0, 0, 0, 0, 0, 0] := rfl

theorem slotPlace_eq (slot : Nat) :
    slotPlace slot
      = (if slot / 16 + 1 ≤ 7 then 0 else 1, if slot / 16 + 1 ≤ 7 then slot / 16 + 1 else slot / 16 + 1 - 8) := by
  unfold slotPlace
  dsimp only
  split <;> rfl

theorem Vol.catalogBuffer_eq {v w : Vol} {r : ReqId} {q : Request} {x : BufNo}
    (h : q.catBuf = some x ∧ w = v ∨ q.catBuf = none ∧ v.takeBuf r = some (x, w)) :
    v.catalogBuffer r q = some (x, w) := by
  unfold Vol.catalogBuffer
  rcases h with ⟨h, rfl⟩ | ⟨h, g⟩
  · rw [h]
  · rw [h]
    exact g

/-- R35: the new image of a commit, its revision 1 for a reserved slot. -/
theorem commitImage_eq (e : Entry) (g : List Byte) (ses : Session) (stamp : List Byte) :
    commitImage e g ses stamp
      = { state := .filed, slug := g, edition := ses.edition,
          revision := if e.reserved ≠ none then 1 else min (e.image.revision + 1) 65535,
          timestamp := stamp, length := ses.length, extents := ses.pending } := by
  unfold commitImage
  cases e.reserved <;> rfl

/-! ## Who is offered a record (R27) -/

theorem mem_allReqs : ∀ r : ReqId, r ∈ allReqs := by decide

theorem Vol.mem_waitingWrites (v : Vol) (r : ReqId) :
    r ∈ v.waitingWrites ↔ ∃ q, v.req r = some q
      ∧ (q.stage = .commitWait ∨ q.kind = .spike ∧ q.stage = .waiting) ∧ v.canWrite q = true := by
  unfold Vol.waitingWrites
  rw [List.mem_filter]
  cases v.req r <;> simp [mem_allReqs]

theorem Vol.wantsRecord_eq {v : Vol} {r : ReqId} {q : Request} (h : v.req r = some q) :
    v.wantsRecord r = v.needsRecord q := by
  unfold Vol.wantsRecord
  rw [h]

theorem Vol.waitedSince_eq {v : Vol} {r : ReqId} {q : Request} (h : v.req r = some q) :
    v.waitedSince r = q.waitSince := by
  unfold Vol.waitedSince
  rw [h]
  rfl

theorem Vol.mem_offeredWrites (v : Vol) (r : ReqId) :
    r ∈ v.offeredWrites ↔ r ∈ v.waitingWrites ∧ (v.wantsRecord r = true → ∀ p ∈ v.waitingWrites,
      v.wantsRecord p = true → v.waitedSince r ≤ v.waitedSince p) := by
  unfold Vol.offeredWrites
  simp [List.mem_filter, imp_iff_not_or]

/-- Settles O23. -/
theorem spikesAndCommitsEnterTheirCatalogWrite : Obligations.SpikesAndCommitsEnterTheirCatalogWrite := by
  refine ⟨?_, ?_, fun v => ⟨v.freeRecord_eq_none_iff, fun k => Vol.record_of_freeRecord⟩, ?_⟩
  · intro s k tag drive cls slug f r m slot e hk hp hmay hr ht hready hwp hfault hcopy hm hl he hholder hfil hspk hcat q v ready
    have hexec : exec (.spike k tag drive cls slug) s
        = .next (s.finish (s.bat, v.writeDue s.bat r)) := by
      change s.onLine k (fun b v => (b, v.takeSpike b k tag drive cls slug)) = _
      rw [onLine_hears _ hk.1 hk.2, Vol.takeSpike_admits hp hmay hr ht (writeGate_ok hready hwp hfault hcopy) hm hl he
        (writeRefusal_none hholder hfil hspk hcat)]
      rfl
    have hq : v.req r = some q := req_openRequest ..
    have hentry : v.entry q.drive q.slot = some { e with spike := some r } := by
      change v.entry f.drive slot = _
      rw [Vol.entry_modEntry_self, Vol.entry_openRequest, Vol.entry_of_mirror hm, he]
      rfl
    have hcan : v.canWrite q = true ↔ ready := by
      rw [Vol.canWrite_iff, hentry]
      have hb : v.freeBufs = s.vol.freeBufs := rfl
      have hf : v.freeRecord = s.vol.freeRecord := rfl
      rw [hb, hf]
      have hc : q.catBuf = none := rfl
      simp only [hc, ready, Option.some.injEq, exists_eq_left', ne_eq, not_true, false_or]
      refine and_congr_right fun _ => ?_
      rw [imp_iff_not_or, Nat.pos_iff_ne_zero, not_not]
    rw [hexec, Vol.writeDue_eq hq]
    refine ⟨fun h => ?_, fun h => ?_⟩
    · rw [if_pos (hcan.mpr h)]
    · rw [if_neg (fun g => h (hcan.mp g)), Vol.modReq_congr hq (g := fun q => { q with stage := .waiting, waitSince := v.stamp }) rfl]
  · intro b v w r q e x hq he hx record claimed image n
    have himage : image = match q.session with
        | some ses => commitImage e q.slug ses b.clock.snapshot
        | none => SlotImage.freeImage := by
      cases h : q.session <;> simp only [image, h, commitImage_eq, Clock.snapshot_eq]
    have hspike : decide (q.kind = .spike) = (q.kind == .spike) := by
      cases q.kind <;> rfl
    rw [himage, hspike]
    unfold Vol.enterWrite
    rw [hq]
    dsimp only
    rw [he, Vol.catalogBuffer_eq hx]
    dsimp only
    rw [slotPlace_eq] <;> rfl
  · intro v r needs ready
    have hready : ∀ r q, ready r q ↔ v.req r = some q
        ∧ (q.stage = .commitWait ∨ q.kind = .spike ∧ q.stage = .waiting) ∧ v.canWrite q = true := by
      intro r q
      rw [Vol.canWrite_iff]
    have hneeds : ∀ r q, v.req r = some q → (v.wantsRecord r = true ↔ needs q) := by
      intro r q h
      rw [Vol.wantsRecord_eq h, Vol.needsRecord_iff]
    rw [Vol.mem_offeredWrites]
    constructor
    · rintro ⟨hr, hall⟩
      obtain ⟨q, hq⟩ := (v.mem_waitingWrites r).mp hr
      refine ⟨q, (hready r q).mpr hq, fun hn r' q' hr' hn' => ?_⟩
      have hq' := (hready r' q').mp hr'
      rw [← Vol.waitedSince_eq hq.1, ← Vol.waitedSince_eq hq'.1]
      exact hall ((hneeds r q hq.1).mpr hn) r' ((v.mem_waitingWrites r').mpr ⟨q', hq'⟩) ((hneeds r' q' hq'.1).mpr hn')
    · rintro ⟨q, hr, hall⟩
      have hq := (hready r q).mp hr
      refine ⟨(v.mem_waitingWrites r).mpr ⟨q, hq⟩, fun hn r' hr' hn' => ?_⟩
      obtain ⟨q', hq'⟩ := (v.mem_waitingWrites r').mp hr'
      rw [Vol.waitedSince_eq hq.1, Vol.waitedSince_eq hq'.1]
      exact hall ((hneeds r q hq.1).mp hn) r' q' ((hready r' q').mpr hq') ((hneeds r' q' hq'.1).mp hn')

end Sys2Proof.Machine
end

section
/-! PROOFS. The end of a request (R103), of an order of a request in ENDING, and of a COPY; CANCEL. -/

namespace Sys2Proof.Machine

/-! ## What the end of a request leaves alone -/

theorem Vol.req_of_reqs {v w : Vol} (h : w.reqs = v.reqs) (r : ReqId) : w.req r = v.req r := by
  unfold Vol.req
  rw [h]

/-- R25, R26: a reader's release touches mirrors and records alone. -/
theorem Vol.releaseVersion_frame (v : Vol) (d : DriveNo) (x : VersionRef) :
    (v.releaseVersion d x).reqs = v.reqs ∧ (v.releaseVersion d x).stamp = v.stamp := by
  unfold Vol.releaseVersion
  repeat' split
  all_goals exact ⟨rfl, rfl⟩

theorem Vol.req_releaseReader_self {v : Vol} {r : ReqId} {q : Request} (h : v.req r = some q) :
    (v.releaseReader r).req r = some { q with version := none } := by
  unfold Vol.releaseReader
  rw [h]
  dsimp only
  cases hv : q.version with
  | none =>
    obtain ⟨⟩ := q
    simp_all
  | some x =>
    rw [Vol.req_modReq_self, Vol.req_of_reqs (v.releaseVersion_frame _ _).1, h]
    rfl

@[simp] theorem Vol.stamp_releaseReader (v : Vol) (r : ReqId) : (v.releaseReader r).stamp = v.stamp := by
  unfold Vol.releaseReader
  repeat' split
  · rfl
  · rfl
  · exact (v.releaseVersion_frame _ _).2

theorem Vol.dropDraw_frame (r : ReqId) (q : Request) (oc : OutcomeCode) (v : Vol) :
    (v.dropDraw r q oc).reqs = v.reqs ∧ (v.dropDraw r q oc).stamp = v.stamp := by
  unfold Vol.dropDraw
  split <;> exact ⟨rfl, rfl⟩

theorem Vol.dropFiling_frame (r : ReqId) (q : Request) (v : Vol) :
    (v.dropFiling r q).reqs = v.reqs ∧ (v.dropFiling r q).stamp = v.stamp := by
  unfold Vol.dropFiling
  split <;> exact ⟨rfl, rfl⟩

theorem removeSectors_eq (set xs : List Nat) : removeSectors set xs = set.filter (fun x => decide (x ∉ xs)) := by
  unfold removeSectors
  simp

/-- R33, R118: what a filing that ends gives back. -/
theorem Vol.dropFiling_eq (r : ReqId) (q : Request) (v : Vol) :
    v.dropFiling r q = match q.session with
      | none => v
      | some ses => (v.modMirror q.drive (fun m => { m with
          free := addSectors m.free ((extentSectors ses.pending).filter (fun x => decide (x ∉ m.suspect))) })).modEntry
        q.drive q.slot (fun e => if e.filing = some r then { e with filing := none, reserved := none } else e) := by
  unfold Vol.dropFiling
  simp only [removeSectors_eq] <;> rfl

theorem Vol.dropSpike_frame (r : ReqId) (q : Request) (v : Vol) :
    (v.dropSpike r q).reqs = v.reqs ∧ (v.dropSpike r q).stamp = v.stamp := by
  unfold Vol.dropSpike
  split <;> exact ⟨rfl, rfl⟩

/-! ## Buffers returned (R103, R104) -/

theorem Vol.pool_ofFn_congr (v : Vol) (f g : BufNo → Buffer) (h : ∀ x, f x = g x) :
    ({ v with pool := Vector.ofFn f } : Vol) = { v with pool := Vector.ofFn g } := by
  rw [funext h]

/-- R104: buffers returned have no owner and keep their bytes. -/
theorem Vol.returnBufs_eq (bs : List BufNo) (v : Vol) :
    v.returnBufs bs = { v with pool := Vector.ofFn (fun x =>
      if x ∈ bs then { v.buf x with owner := none } else v.buf x) } := by
  induction bs generalizing v with
  | nil =>
    simp only [List.not_mem_nil, if_false, Vol.ofFn_buf]
    rfl
  | cons y ys ih =>
    change (v.returnBuf y).returnBufs ys = _
    rw [ih]
    change ({ v with pool := _ } : Vol) = _
    refine Vol.pool_ofFn_congr v _ _ (fun x => ?_)
    by_cases hx : x = y
    · subst hx
      simp [Vol.returnBuf]
    · simp [Vol.returnBuf, Vol.buf_setBuf_ne _ _ _ _ hx, hx]

theorem mem_allBufs (x : BufNo) : x ∈ allBufs := List.mem_finRange x

/-- R103: every buffer a request owns returns to the pool. -/
theorem Vol.returnAll_eq (v : Vol) (r : ReqId) :
    v.returnAll r = { v with pool := Vector.ofFn (fun x =>
      if (v.buf x).owner = some r then { v.buf x with owner := none } else v.buf x) } := by
  unfold Vol.returnAll
  rw [Vol.returnBufs_eq]
  refine Vol.pool_ofFn_congr v _ _ (fun x => ?_)
  simp [mem_allBufs]

theorem Vol.returnAll_frame (v : Vol) (r : ReqId) : (v.returnAll r).reqs = v.reqs ∧ (v.returnAll r).stamp = v.stamp := by
  rw [Vol.returnAll_eq]
  exact ⟨rfl, rfl⟩

/-! ## The end of a request (R103) -/

theorem Vol.letGo_eq {v : Vol} {r : ReqId} {q : Request} (oc : OutcomeCode) (h : v.req r = some q) :
    v.letGo r oc = ((((v.releaseReader r).dropDraw r q oc).dropFiling r q).dropSpike r q).returnAll r := by
  unfold Vol.letGo
  rw [h]

theorem Vol.letGo_frame (v : Vol) (r : ReqId) (oc : OutcomeCode) :
    (v.letGo r oc).reqs = (v.releaseReader r).reqs ∧ (v.letGo r oc).stamp = v.stamp := by
  cases h : v.req r with
  | none =>
    unfold Vol.letGo Vol.releaseReader
    rw [h]
    exact ⟨rfl, rfl⟩
  | some q =>
    rw [Vol.letGo_eq oc h, (Vol.returnAll_frame _ r).1, (Vol.dropSpike_frame r q _).1, (Vol.dropFiling_frame r q _).1,
      (Vol.dropDraw_frame r q oc _).1, (Vol.returnAll_frame _ r).2, (Vol.dropSpike_frame r q _).2,
      (Vol.dropFiling_frame r q _).2, (Vol.dropDraw_frame r q oc _).2]
    exact ⟨rfl, Vol.stamp_releaseReader v r⟩

theorem Vol.req_letGo_self {v : Vol} {r : ReqId} {q : Request} (oc : OutcomeCode) (h : v.req r = some q) :
    (v.letGo r oc).req r = some { q with version := none } := by
  rw [Vol.req_of_reqs (v.letGo_frame r oc).1]
  exact Vol.req_releaseReader_self h

/-- A request that has ended, with its final answer waiting (R101, R103). -/
def Request.ended (q : Request) (oc : OutcomeCode) (data : List Byte) (direct : Bool) (made : Nat) : Request :=
  { q with stage := .answered, outcome := some oc, chain := [], filled := 0, session := none, catBuf := none,
           replies := q.replies ++ [{ body := .single ([0x80, q.tag, oc.code] ++ data), direct := direct, final := true,
                                      mark := .plain, made := made }] }

theorem Vol.setReq_setReq (v : Vol) (r : ReqId) (p q : Option Request) : (v.setReq r p).setReq r q = v.setReq r q := by
  unfold Vol.setReq
  simp only [Vector.set_set]

theorem Vol.modReq_eq {v : Vol} {r : ReqId} {q : Request} (f : Request → Request) (h : v.req r = some q) :
    v.modReq r f = v.setReq r (some (f q)) := by
  unfold Vol.modReq
  rw [h]
  rfl

/-- R103, R133: the final answer of a request that is heard joins its waiting replies as the request ends. -/
theorem Vol.finish_heard {v : Vol} {r : ReqId} {q : Request} (oc : OutcomeCode) (data : List Byte) (direct : Bool)
    (h : v.req r = some q) (hs : q.silent = false) :
    v.finish r oc data direct
      = { (v.letGo r oc).modReq r (fun p => p.ended oc data direct v.stamp) with stamp := v.stamp + 1 } := by
  have hl := Vol.req_letGo_self oc h
  unfold Vol.finish
  rw [h]
  dsimp only
  rw [if_neg (by rw [hs]; decide)]
  unfold Vol.reqAnswer
  rw [Vol.modReq_eq _ hl, Vol.req_setReq_self]
  dsimp only
  unfold Vol.addReqReply
  rw [Vol.modReq_eq _ (Vol.req_setReq_self ..), Vol.setReq_setReq, Vol.modReq_eq _ hl]
  dsimp only
  rw [if_neg (by rw [hs]; decide)]
  unfold Vol.nextStamp
  rw [Vol.stamp_setReq, Vol.stamp_setReq, (v.letGo_frame r oc).2]
  rfl

theorem Vol.finish_silent {v : Vol} {r : ReqId} {q : Request} (oc : OutcomeCode) (data : List Byte) (direct : Bool)
    (h : v.req r = some q) (hs : q.silent = true) : v.finish r oc data direct = (v.letGo r oc).setReq r none := by
  unfold Vol.finish
  rw [h]
  dsimp only
  rw [if_pos hs]

/-! ## Orders taken out (R73, R100) -/

theorem bne_eq_decide_ne {α : Type} [DecidableEq α] (a b : α) : (a != b) = decide (a ≠ b) := by
  by_cases h : a = b <;> simp [h]

theorem Drive.takeOut_other {x : Drive} {r : ReqId} (h : ∀ o, x.sched.service = some o → o.req ≠ r) :
    x.takeOut r = ({ x with sched := { x.sched with queue := x.sched.queue.filter (fun o => decide (o.req ≠ r)),
                                                    stack := x.sched.stack.filter (fun o => decide (o.req ≠ r)) } }, true) := by
  unfold Drive.takeOut
  simp only [bne_eq_decide_ne]
  cases hs : x.sched.service with
  | none => rfl
  | some o => exact if_neg (h o hs)

theorem Drive.mustReachBoundary_iff {x : Drive} {o : Order} (h : x.sched.service = some o) :
    x.mustReachBoundary = true
      ↔ o.pass = .verify ∨ x.seq.phase = .transfer ∨ (o.kind = .recalibrate ∧ x.seq.step ≠ none) := by
  unfold Drive.mustReachBoundary
  rw [h]
  simp [Option.isSome_iff_ne_none, or_assoc]

theorem Drive.takeOut_service {x : Drive} {r : ReqId} {o : Order} (h : x.sched.service = some o) (hr : o.req = r) :
    x.takeOut r = if x.mustReachBoundary then (x, false) else (x.leaveService, true) := by
  unfold Drive.takeOut
  rw [h]
  exact if_pos hr

theorem Vol.takeOut_same (v : Vol) (r : ReqId) (d : DriveNo) :
    v.takeOut r d d = (v.modDrive d (fun _ => ((v.drive d).takeOut r).1), ((v.drive d).takeOut r).2) := by
  unfold Vol.takeOut
  exact if_pos rfl

theorem Vol.takeOut_two (v : Vol) (r : ReqId) {d e : DriveNo} (h : d ≠ e) :
    v.takeOut r d e
      = ((v.modDrive d (fun _ => ((v.drive d).takeOut r).1)).modDrive e (fun _ => ((v.drive e).takeOut r).1),
        ((v.drive d).takeOut r).2 && ((v.drive e).takeOut r).2) := by
  unfold Vol.takeOut
  dsimp only
  rw [if_neg h, Vol.drive_modDrive_ne _ _ _ _ (Ne.symm h)]

/-! ## The ends of orders and of a COPY (R59, R102, R185) -/

/-- R59: an order that ends leaves service, and its request takes the outcome. -/
theorem Vol.orderEnd_eq {v : Vol} {d : DriveNo} {o : Order} (b : Battery) (oc : OutcomeCode)
    (h : (v.drive d).sched.service = some o) :
    v.orderEnd b d oc = (v.modDrive d Drive.leaveService).respond b o oc := by
  unfold Vol.orderEnd
  rw [h]

theorem Vol.respond_ending {v : Vol} {o : Order} {q : Request} (b : Battery) (oc : OutcomeCode)
    (h : v.req o.req = some q) (he : q.stage = .ending) :
    v.respond b o oc = if q.kind = .copy then v.copyEnd b o.req q.decided false else v.finish o.req q.decided [] false := by
  unfold Vol.respond
  rw [h]
  exact if_pos he

/-- R53, R184, R185: a COPY ends. -/
theorem Vol.copyEnd_eq {v : Vol} {r : ReqId} {q : Request} {c : CopyWork} (b : Battery) (oc : OutcomeCode) (direct : Bool)
    (h : v.req r = some q) (hc : q.copy = some c) :
    v.copyEnd b r oc direct =
      let ended := (if c.holdsSource then v.releaseSource q.drive else v).finish r oc [] direct
      if c.holdsDest && ended.mount q.dest == .receiving then (ended.modSeq q.dest Sequencer.letGo).startLoading b q.dest
      else ended := by
  unfold Vol.copyEnd
  rw [h]
  dsimp only
  rw [hc]

/-! ## CANCEL (R119, R120) -/

theorem Vol.inLabelUnit_iff (v : Vol) (q : Request) :
    v.inLabelUnit q = true
      ↔ (q.kind = .format ∧ ∃ u, (v.drive q.drive).seq.job = .unit u ∧ u.kind = .label)
        ∨ (q.kind = .copy ∧ q.stage = .label) := by
  unfold Vol.inLabelUnit
  cases q.kind <;> simp
  cases (v.drive q.drive).seq.job <;> simp

theorem Vol.tooLate_iff (v : Vol) (q : Request) :
    v.tooLate q = true ↔ q.stage = .answered ∨ q.stage = .committing ∨ q.stage = .writing
      ∨ (q.kind = .format ∧ ∃ u, (v.drive q.drive).seq.job = .unit u ∧ u.kind = .label)
      ∨ (q.kind = .copy ∧ q.stage = .label) := by
  unfold Vol.tooLate
  simp only [Bool.or_eq_true, beq_iff_eq, v.inLabelUnit_iff, or_assoc]

/-- R119, R120: CANCEL of a request of the line. -/
theorem Vol.takeCancel_eq {v : Vol} {k : Line} {tag target : Byte} {r : ReqId} {q : Request} (b : Battery)
    (ht : tag ≠ 0) (hr : v.tagged k target = some r) (hq : v.req r = some q) :
    v.takeCancel b k tag target = if v.tooLate q then v.answer k tag .tooLate []
      else if q.stage = .ending then v.answer k tag .done [] else (v.cancelRequest b r).answer k tag .done [] := by
  unfold Vol.takeCancel
  rw [tagOk_of ht, hr]
  dsimp only
  rw [hq]
  rfl

theorem Vol.cancelRequest_unit {v : Vol} {r : ReqId} {q : Request} (b : Battery) (hq : v.req r = some q)
    (h : q.kind = .format ∨ (q.kind = .copy ∧ q.stage ≠ .tracks)) : v.cancelRequest b r = v.setEnding r .cancelled := by
  unfold Vol.cancelRequest
  rw [hq]
  rcases h with h | ⟨h, hs⟩
  · simp [h]
  · simp [h, hs]

theorem Vol.cancelRequest_tracks {v : Vol} {r : ReqId} {q : Request} (b : Battery) (hq : v.req r = some q)
    (h : q.kind = .copy) (hs : q.stage = .tracks) :
    v.cancelRequest b r = if (v.takeOut r q.drive q.dest).2 then (v.takeOut r q.drive q.dest).1.copyEnd b r .cancelled true
      else (v.takeOut r q.drive q.dest).1.setEnding r .cancelled := by
  unfold Vol.cancelRequest
  rw [hq]
  simp only [h, hs, if_true]
  unfold Vol.copyStops
  rw [hq]

theorem Vol.cancelRequest_order {v : Vol} {r : ReqId} {q : Request} (b : Battery) (hq : v.req r = some q)
    (hf : q.kind ≠ .format) (hc : q.kind ≠ .copy) :
    v.cancelRequest b r = if (v.takeOut r q.drive q.dest).2 then (v.takeOut r q.drive q.dest).1.finish r .cancelled [] true
      else (v.takeOut r q.drive q.dest).1.setEnding r .cancelled := by
  have he : v.cancelRequest b r = v.endWithOrder r .cancelled true := by
    unfold Vol.cancelRequest
    rw [hq]
    cases h : q.kind
    case format => exact absurd h hf
    case copy => exact absurd h hc
    all_goals simp only [h]
  rw [he]
  unfold Vol.endWithOrder
  rw [hq]

/-- Settles O28. -/
theorem cancelEndsItsRequest : Obligations.CancelEndsItsRequest := by
  refine ⟨?_, ?_, ?_, ?_, ?_, ?_⟩
  · intro s k tag target r q hk ht hr hq late p ending
    have hexec : exec (.cancel k tag target) s
        = .next (s.finish (s.bat, s.vol.takeCancel s.bat k tag target)) := by
      change s.onLine k (fun b v => (b, v.takeCancel b k tag target)) = _
      rw [onLine_hears _ hk.1 hk.2]
    rw [hexec, Vol.takeCancel_eq s.bat ht hr hq]
    have hlate := s.vol.tooLate_iff q
    refine ⟨fun h => ?_, fun h he => ?_, fun h he hu => ?_, fun h he hc hs => ?_, fun h he hf hc => ?_⟩
    · rw [if_pos (hlate.mpr h)]
    · rw [if_neg (mt hlate.mp h), if_pos he]
    · rw [if_neg (mt hlate.mp h), if_neg he, Vol.cancelRequest_unit s.bat hq hu]
      rfl
    · rw [if_neg (mt hlate.mp h), if_neg he, Vol.cancelRequest_tracks s.bat hq hc hs]
      rfl
    · rw [if_neg (mt hlate.mp h), if_neg he, Vol.cancelRequest_order s.bat hq hf hc]
      rfl
  · intro x r out
    refine ⟨fun h => Drive.takeOut_other h, ?_⟩
    intro o ho hr stays
    have hstays : x.mustReachBoundary = true ↔ stays := Drive.mustReachBoundary_iff ho
    rw [Drive.takeOut_service ho hr]
    refine ⟨fun h => ?_, fun h => ?_⟩
    · rw [if_pos (hstays.mpr h)]
    · rw [if_neg (mt hstays.mp h)]
      rfl
  · intro v r d e x y
    refine ⟨?_, fun h => Vol.takeOut_two v r h⟩
    rintro rfl
    exact Vol.takeOut_same v r d
  · intro b v d o q oc hs hq he w
    have hw : w.req o.req = some q := hq
    rw [Vol.orderEnd_eq b oc hs]
    change (_ → w.respond b o oc = _) ∧ (_ → w.respond b o oc = _)
    rw [Vol.respond_ending b oc hw he]
    exact ⟨fun h => if_neg h, fun h => if_pos h⟩
  · intro b v r q c oc direct hq hc released ended
    rw [Vol.copyEnd_eq b oc direct hq hc]
    simp only [Bool.and_eq_true, beq_iff_eq]
    rfl
  · intro v r q oc data direct hq line unread unheld unfiled unmarked gone
    have hgone : v.letGo r oc = gone := by
      rw [Vol.letGo_eq oc hq, Vol.returnAll_eq, Vol.dropFiling_eq]
      rfl
    refine ⟨fun h => ?_, fun h => ?_⟩
    · rw [Vol.finish_silent oc data direct hq h, hgone]
    · have hreq : gone.req r = some { q with version := none } := hgone ▸ Vol.req_letGo_self oc hq
      rw [Vol.finish_heard oc data direct hq h, hgone, Vol.modReq_eq _ hreq, Vol.modReq_eq _ hreq]
      rfl

end Sys2Proof.Machine
end

section
/-! PROOFS. The units of a FORMAT and of a COPY's destination: how they begin and how a FORMAT's follow each other. -/

namespace Sys2Proof.Machine

/-! ## Notices and mount states -/

theorem Vol.reqs_modNotices (v : Vol) (f : Notice → Notice) : (v.modNotices f).reqs = v.reqs := by
  unfold Vol.modNotices
  generalize allLines = ks
  induction ks generalizing v with
  | nil => rfl
  | cons k ks ih => exact ih (v.modNotice k f)

@[simp] theorem Vol.req_changeMount (v : Vol) (d : DriveNo) (m : MountState) (r : ReqId) :
    (v.changeMount d m).req r = v.req r := by
  unfold Vol.changeMount Vol.driveChange
  rw [Vol.req_of_reqs (Vol.reqs_modNotices _ _)]
  rfl

theorem Vol.cable_of_outside {v w : Vol} (h : w.outside = v.outside) (d : DriveNo) :
    (w.drive d).cable = (v.drive d).cable :=
  ((Vol.outside_iff v w).mp h).2.2.1 d

/-! ## A unit begins (R82) -/

/-- R14, R184: what a unit writes: a label the label of its request, any other zeros, a catalog unit's sectors being
composed as their writes begin. -/
def unitBytes (b : Battery) (q : Request) : UnitKind → List Byte
  | .label => unitLabel b q
  | _ => zeroSector

/-- A unit not begun yet: every sector to do, none failed. -/
def newUnit (b : Battery) (r : ReqId) (q : Request) (copy : Bool) (kind : UnitKind) : UnitWork :=
  { kind, req := r, copy, sectors := kind.sectors, todo := kind.sectors, failed := [], image := unitBytes b q kind }

theorem Vol.beginUnit_eq {v : Vol} {r : ReqId} {q : Request} (b : Battery) (d : DriveNo) (copy : Bool)
    (kind : UnitKind) (h : v.req r = some q) :
    v.beginUnit b d r copy kind = if (v.drive d).cable.protect then v.unitProtected b d r copy kind
      else v.placeUnit b d (newUnit b r q copy kind) := by
  unfold Vol.beginUnit
  rw [h]
  cases kind <;> rfl

theorem Vol.unitProtected_copy (b : Battery) (v : Vol) (d : DriveNo) (r : ReqId) (kind : UnitKind) :
    v.unitProtected b d r true kind
      = (v.modSeq d (fun q => { q with writeProtected := true })).copyEnd b r .writeProtected (kind == .invalidate) := rfl

theorem Vol.unitProtected_stops (b : Battery) (v : Vol) (d : DriveNo) (r : ReqId) {kind : UnitKind}
    (h : kind ≠ .invalidate) :
    v.unitProtected b d r false kind
      = (v.modSeq d (fun q => { q with writeProtected := true })).formatStops d r .writeProtected := by
  cases kind
  case invalidate => exact absurd rfl h
  all_goals rfl

/-! ## FORMAT and COPY admitted (R10, R178) -/

theorem Vol.rebuildGate_none {v : Vol} {d : DriveNo} (h : v.mount d = .ready ∨ v.mount d = .unformatted)
    (hw : (v.drive d).seq.writeProtected = false) : v.rebuildGate d = none := by
  unfold Vol.rebuildGate
  rcases h with h | h <;> simp [h, hw]

theorem takeFormat_admits {b : Battery} {v : Vol} {tag drive : Byte} {volume g : List Byte} {d : DriveNo} {r : ReqId}
    (hp : parseFormat tag drive volume = some (d, g)) (hs : v.slotCheck supervisorLine tag = .ok r)
    (hg : v.rebuildGate d = none) (hu : v.inUse d = false) :
    takeFormat supervisorLine tag drive volume b v = (b, v.admitFormat b tag d g r) := by
  unfold takeFormat
  rw [hp]
  change (b, _) = _
  rw [hs]
  dsimp only
  rw [hg, hu]
  rfl

theorem takeCopy_admits {b : Battery} {v : Vol} {tag source dest : Byte} {a d : DriveNo} {r : ReqId}
    (hp : parseCopy tag source dest = some (a, d)) (hs : v.slotCheck supervisorLine tag = .ok r)
    (hc : v.copyCheck a d = none) :
    takeCopy supervisorLine tag source dest b v = (b, v.admitCopy b tag a d r) := by
  unfold takeCopy
  rw [hp]
  change (b, _) = _
  rw [hs]
  dsimp only
  rw [hc]

/-- Settles O29. -/
theorem formatAndCopyBegin : Obligations.FormatAndCopyBegin := by
  constructor
  · intro s tag drive volume g d r hk hp hr ht hm hw hu q v
    have hreq : v.req r = some q := by
      rw [Vol.req_changeMount]
      exact req_openRequest ..
    have hcable : (v.drive d).cable = (s.vol.drive d).cable :=
      Vol.cable_of_outside (by simp only [v, Vol.outside_changeMount, Vol.outside_modCat, Vol.outside_openRequest]) d
    have hexec : exec (.format supervisorLine tag drive volume) s
        = .next (s.finish (s.bat, v.beginUnit s.bat d r false .invalidate)) := by
      change s.onLine supervisorLine (takeFormat supervisorLine tag drive volume) = _
      rw [onLine_hears _ hk.1 hk.2, takeFormat_admits hp (slotCheck_ok hr ht) (Vol.rebuildGate_none hm hw) hu]
      rfl
    rw [hexec, Vol.beginUnit_eq s.bat d false .invalidate hreq, hcable]
    refine ⟨fun h => ?_, fun h => ?_⟩
    · rw [h]
      rfl
    · rw [h]
      rfl
  · intro s tag source dest a d r hk hp hr ht hc q v
    have hreq : v.req r = some q := by
      rw [Vol.req_changeMount]
      exact req_openRequest ..
    have hcable : (v.drive d).cable = (s.vol.drive d).cable :=
      Vol.cable_of_outside (by simp only [v, Vol.outside_changeMount, Vol.outside_modCat, Vol.outside_modSched,
        Vol.outside_openRequest]) d
    have hexec : exec (.copy supervisorLine tag source dest) s
        = .next (s.finish (s.bat, v.beginUnit s.bat d r true .invalidate)) := by
      change s.onLine supervisorLine (takeCopy supervisorLine tag source dest) = _
      rw [onLine_hears _ hk.1 hk.2, takeCopy_admits hp (slotCheck_ok hr ht) hc]
      rfl
    rw [hexec, Vol.beginUnit_eq s.bat d true .invalidate hreq, hcable]
    refine ⟨fun h => ?_, fun h => ?_⟩
    · rw [h]
      rfl
    · rw [h]
      rfl

/-! ## The ends of a FORMAT's units (R13 to R15) -/

theorem Vol.endingUnit_iff {v : Vol} {u : UnitWork} {q : Request} (h : v.req u.req = some q) :
    v.endingUnit u = true ↔ q.stage = .ending := by
  unfold Vol.endingUnit
  rw [h]
  exact beq_iff_eq

theorem Vol.unitOutcome_eq {v : Vol} {u : UnitWork} {q : Request} (h : v.req u.req = some q) :
    v.unitOutcome u = q.decided := by
  unfold Vol.unitOutcome
  rw [h]

theorem Vol.unitFinished_eq {v : Vol} {d : DriveNo} {u : UnitWork} (hp : (v.drive d).seq.phase = .unitDone)
    (hj : (v.drive d).seq.job = .unit u) : v.unitFinished d = some u := by
  unfold Vol.unitFinished Sequencer.unit?
  rw [if_pos hp, hj]

theorem badsWith_eq (bads : List Nat) (cyl side : Nat) (failed : List Nat) :
    badsWith bads cyl side failed
      = bads ++ ((List.range 8).filter (fun i => decide (i ∈ failed))).map (dataIndex cyl side) := by
  unfold badsWith
  have h : failed.contains = fun i => decide (i ∈ failed) := funext fun i => List.contains_eq_mem i failed
  rw [h]

/-- R13: the end of a track-side unit, in its cases. -/
theorem Vol.trackUnitEnd_eq {v : Vol} {u : UnitWork} {q : Request} {w : FormatWork} (b : Battery) (d : DriveNo) (n : Nat)
    (hq : v.req u.req = some q) (hw : q.format = some w) :
    v.trackUnitEnd b d u n =
      let bads := if n / 2 = 0 then w.bads else badsWith w.bads (n / 2) (n % 2) u.failed
      if n / 2 = 0 ∧ u.failed ≠ [] then v.formatStops d u.req .writeFault
      else if q.stage = .ending then v.formatStops d u.req q.decided
      else if 16 < bads.length then v.formatStops d u.req .writeFault
      else (v.modReq u.req (fun p => { p with format := some { w with bads := bads } })).beginUnit b d u.req false
        (if n + 1 < 154 then .track (n + 1) else .catalog 0) := by
  unfold Vol.trackUnitEnd
  rw [hq, Option.bind_some, hw]
  dsimp only
  simp only [Vol.endingUnit_iff hq, Vol.unitOutcome_eq hq]
  rfl

theorem Vol.formatUnitEnd_catalog {v : Vol} {u : UnitWork} {q : Request} (b : Battery) (d : DriveNo) {half : Nat}
    (hk : u.kind = .catalog half) (hq : v.req u.req = some q) :
    v.formatUnitEnd b d u = if u.failed ≠ [] then v.formatStops d u.req .writeFault
      else if q.stage = .ending then v.formatStops d u.req q.decided
      else v.beginUnit b d u.req false (if half = 0 then .catalog 1 else .label) := by
  unfold Vol.formatUnitEnd
  rw [hk]
  simp only [Vol.endingUnit_iff hq, Vol.unitOutcome_eq hq]

theorem Vol.formatUnitEnd_label {v : Vol} {u : UnitWork} {q : Request} {w : FormatWork} (b : Battery) (d : DriveNo)
    (hk : u.kind = .label) (hq : v.req u.req = some q) (hw : q.format = some w) :
    v.formatUnitEnd b d u = if u.failed ≠ [] then v.formatStops d u.req .writeFault
      else v.formatReloads b d u.req .done [BitVec.ofNat 8 w.bads.length] false := by
  unfold Vol.formatUnitEnd
  rw [hk]
  dsimp only
  rw [hq, Option.bind_some, hw]

/-- R11, R15, R180: the end of an invalidation unit. -/
theorem Vol.invalidateEnd_format {v : Vol} {u : UnitWork} {q : Request} (b : Battery) (d : DriveNo)
    (hc : u.copy = false) (hq : v.req u.req = some q) :
    v.invalidateEnd b d u = if q.stage = .ending then v.formatStops d u.req q.decided
      else v.beginUnit b d u.req false (.track 0) := by
  unfold Vol.invalidateEnd
  rw [hc]
  simp only [Vol.endingUnit_iff hq, Vol.unitOutcome_eq hq]
  rfl

/-- R8, R14, R184: the bytes of a label unit, and of every other unit as it begins. -/
theorem unitBytes_eq (b : Battery) (q : Request) (kind : UnitKind) :
    unitBytes b q kind = match kind, q.copy, q.format with
      | .label, some c, _ => labelBytes c.volume c.date c.badCount (c.bads.take c.badCount)
      | .label, none, some w =>
        labelBytes w.volume (if b.clock.valid then b.clock.fields else [0, 0, 0, 0, 0, 0]) w.bads.length w.bads
      | _, _, _ => zeroSector := by
  cases kind
  case label =>
    unfold unitBytes unitLabel
    cases q.copy with
    | some c => rfl
    | none => cases q.format <;> rfl
  all_goals rfl

/-- Settles O48. -/
theorem formatUnitsFollowEachOther : Obligations.FormatUnitsFollowEachOther := by
  refine ⟨?_, fun _ _ _ _ _ _ _ => rfl, ?_, fun _ _ _ _ => rfl, ?_⟩
  · intro s d u q w hlive hph hj hc hq hw ends stops
    have hexec : exec (.formatUnitEnd d) s = .next (s.finish (s.bat, s.vol.formatUnitEnd s.bat d u)) := by
      change s.whenLive (fun b v => (b, v.formatUnitDone b d)) = _
      rw [whenLive_live _ hlive]
      unfold Vol.formatUnitDone
      rw [Vol.unitFinished_eq hph hj]
      dsimp only
      rw [hc]
      rfl
    refine ⟨?_, fun half hk => ?_, fun hk => ?_⟩
    · intro n hk bads
      have he : s.vol.formatUnitEnd s.bat d u = s.vol.trackUnitEnd s.bat d u n := by
        unfold Vol.formatUnitEnd
        rw [hk]
      simp only [ends, stops, hexec, he, Vol.trackUnitEnd_eq s.bat d n hq hw, badsWith_eq]
      refine ⟨fun h0 hf => ?_, fun h0 hs => ?_, fun h0 hs hb => ?_, fun h0 hs hb => ?_⟩
      · rw [if_pos ⟨h0, hf⟩]
        rfl
      · rw [if_neg h0, if_pos hs]
        rfl
      · rw [if_neg h0, if_neg hs, if_pos hb]
        rfl
      · rw [if_neg h0, if_neg hs, if_neg (Nat.not_lt.mpr hb)]
    · simp only [ends, stops, hexec, Vol.formatUnitEnd_catalog s.bat d hk hq]
      refine ⟨fun hf => ?_, fun hf hs => ?_, fun hf hs => ?_⟩
      · rw [if_pos hf]
        rfl
      · rw [if_neg (not_not.mpr hf), if_pos hs]
        rfl
      · rw [if_neg (not_not.mpr hf), if_neg hs]
    · simp only [ends, stops, hexec, Vol.formatUnitEnd_label s.bat d hk hq hw]
      refine ⟨fun hf => ?_, fun hf => ?_⟩
      · rw [if_pos hf]
        rfl
      · rw [if_neg (not_not.mpr hf)]
  · intro b v d r q copy kind hq sensed sectors image
    rw [Vol.beginUnit_eq b d copy kind hq]
    refine ⟨fun hp => ?_, fun hp => ?_⟩
    · rw [if_pos hp]
      refine ⟨?_, ?_, ?_⟩
      · rintro rfl
        rw [Vol.unitProtected_copy]
        cases kind <;> rfl
      · rintro rfl rfl
        rfl
      · rintro rfl hk
        rw [Vol.unitProtected_stops b v d r hk]
        rfl
    · rw [if_neg (by rw [hp]; decide), newUnit, unitBytes_eq]
      cases kind <;> rfl
  · intro b v d u
    refine ⟨fun h => ?_, fun h q hq => ⟨fun hs => ?_, fun hs => ?_⟩⟩
    · unfold Vol.invalidateEnd
      rw [if_pos h]
      rfl
    · rw [Vol.invalidateEnd_format b d h hq, if_pos hs]
      rfl
    · rw [Vol.invalidateEnd_format b d h hq, if_neg hs]

end Sys2Proof.Machine
end

section
/-! PROOFS. Power and RESET: what a general reset leaves on the diskettes, and in every block. -/

namespace Sys2Proof.Machine

theorem Vol.drive_modPorts (f : Line → Port → Port) (ks : List Line) (v : Vol) (d : DriveNo) :
    (ks.foldl (fun (w : Vol) k => w.modPort k (f k)) v).drive d = v.drive d := by
  induction ks generalizing v with
  | nil => rfl
  | cons k ks ih => exact ih (v.modPort k (f k))

theorem Vol.cable_of_modDrive (v : Vol) (e : DriveNo) (f : Drive → Drive) (hf : ∀ x, (f x).cable = x.cable) (d : DriveNo) :
    ((v.modDrive e f).drive d).cable = (v.drive d).cable := by
  by_cases h : d = e
  · subst h
    rw [Vol.drive_modDrive_self, hf]
  · rw [Vol.drive_modDrive_ne _ _ _ _ h]

theorem Vol.cable_modDrives (f : Drive → Drive) (hf : ∀ x, (f x).cable = x.cable) (ds : List DriveNo) (v : Vol)
    (d : DriveNo) : ((ds.foldl (fun (w : Vol) e => w.modDrive e f) v).drive d).cable = (v.drive d).cable := by
  induction ds generalizing v with
  | nil => rfl
  | cons e ds ih => exact (ih _).trans (Vol.cable_of_modDrive v e f hf d)

/-- R123: a general reset does to the diskettes what cuts the writes off, and no more. -/
theorem Vol.disk_resetBlocks (b : Battery) (v : Vol) (d : DriveNo) :
    ((v.resetBlocks b).drive d).cable = ((allDrives.foldl (fun (w : Vol) e => w.spoil e) v).drive d).cable := by
  unfold Vol.resetBlocks
  dsimp only
  generalize allDrives.foldl (fun (w : Vol) e => w.spoil e) v = w
  have hcleared : ∀ (w : Vol) q p t l, ({ w with reqs := q, pool := p, retired := t, tests := l } : Vol).drive d
      = w.drive d := fun _ _ _ _ _ => rfl
  rw [hcleared, Vol.cable_modDrives (fun x => Drive.afterReset x.cable) (fun _ => rfl),
    Vol.drive_modPorts (fun k _ => Port.afterReset (b.rate k))]

theorem Vol.drive_spoils_ne (ds : List DriveNo) (v : Vol) (d : DriveNo) (h : d ∉ ds) :
    (ds.foldl (fun (w : Vol) e => w.spoil e) v).drive d = v.drive d := by
  induction ds generalizing v with
  | nil => rfl
  | cons e ds ih =>
    rw [List.mem_cons, not_or] at h
    exact (ih _ h.2).trans (Vol.drive_spoil_ne e d v h.1)

/-- R16, R123: the writes of several drives cut off one after the other leave on each diskette what its own drive's
write leaves. -/
theorem Vol.cutOff_spoils (ds : List DriveNo) (v : Vol) (d : DriveNo) (hn : ds.Nodup) (h : d ∈ ds) :
    (v.drive d).cutOff ((ds.foldl (fun (w : Vol) e => w.spoil e) v).drive d).cable.disk := by
  induction ds generalizing v with
  | nil => exact absurd h List.not_mem_nil
  | cons e ds ih =>
    obtain ⟨he, hn⟩ := List.nodup_cons.mp hn
    rw [List.foldl_cons]
    by_cases hd : d = e
    · subst hd
      rw [Vol.drive_spoils_ne ds _ d he]
      exact v.cutOff_spoil d
    · rw [← Vol.drive_spoil_ne e d v hd]
      exact ih _ hn ((List.mem_cons.mp h).resolve_left hd)

theorem Vol.cutOff_resetBlocks (b : Battery) (v : Vol) (d : DriveNo) :
    (v.drive d).cutOff ((v.resetBlocks b).drive d).cable.disk := by
  have hm : ∀ e : DriveNo, e ∈ allDrives := by decide
  rw [Vol.disk_resetBlocks]
  exact Vol.cutOff_spoils allDrives v d (by decide) (hm d)

/-- Settles O38. -/
theorem powerAndResetEventsResetTheBlocks : Obligations.PowerAndResetEventsResetTheBlocks := by
  constructor
  · intro s
    refine ⟨fun h => ⟨?_, ?_⟩, fun h => ?_, fun h => ?_, fun h => ?_⟩
    · change Host.Outcome.next (s.finish (powerOn true s.bat s.vol)) = _
      unfold powerOn
      rw [if_neg (by rw [h]; decide)]
      rfl
    · change Host.Outcome.next (s.finish (powerOn false s.bat s.vol)) = _
      unfold powerOn
      rw [if_neg (by rw [h]; decide)]
      rfl
    · change Host.Outcome.next (s.finish (powerLoss s.bat s.vol)) = _
      unfold powerLoss
      rw [if_pos h]
    · change Host.Outcome.next (s.finish (resetHold s.bat s.vol)) = _
      unfold resetHold
      rw [if_neg (by rw [h]; decide)]
    · change Host.Outcome.next (s.finish (resetRelease s.bat s.vol)) = _
      unfold resetRelease
      rw [if_pos h]
  · intro b v
    dsimp only
    obtain ⟨hpower, hheld⟩ := v.power_resetBlocks b
    obtain ⟨hreqs, hbufs, hrecords, htests⟩ := v.empty_resetBlocks b
    refine ⟨hpower, hheld, htests, fun k => v.port_resetBlocks b k, fun d => ?_, hreqs, hbufs, hrecords⟩
    have hdrive := v.drive_resetBlocks b d
    obtain ⟨hdoor, hprotect, htrack⟩ := v.cable_resetBlocks b d
    refine ⟨?_, ?_, ?_, hdoor, hprotect, htrack, v.cutOff_resetBlocks b d⟩
    · rw [hdrive]
      rfl
    · rw [hdrive]
      rfl
    · rw [hdrive]
      rfl

end Sys2Proof.Machine
end

section
/-! PROOFS. Index pulses, angle units and the start of an unload count. -/

namespace Sys2Proof.Machine

/-! ## Changes of one drive, one after the other -/

theorem Vol.modDrive_modDrive (v : Vol) (d : DriveNo) (f g : Drive → Drive) :
    (v.modDrive d f).modDrive d g = v.modDrive d (fun x => g (f x)) := by
  unfold Vol.modDrive
  simp

theorem Vol.modSeq_modSeq (v : Vol) (d : DriveNo) (f g : Sequencer → Sequencer) :
    (v.modSeq d f).modSeq d g = v.modSeq d (fun q => g (f q)) :=
  Vol.modDrive_modDrive ..

theorem Vol.modDrive_congr {v : Vol} {d : DriveNo} {f g : Drive → Drive} (h : f (v.drive d) = g (v.drive d)) :
    v.modDrive d f = v.modDrive d g := by
  unfold Vol.modDrive
  exact congrArg (fun x => { v with drives := v.drives.set d x }) h

/-! ## The header angles (R3) -/

theorem sectorAtAngle_eq_some (a n : Nat) : sectorAtAngle a = some n ↔ n < 8 ∧ a = 125 * n + 8 := by
  unfold sectorAtAngle
  simp only [Bool.and_eq_true, beq_iff_eq, decide_eq_true_eq]
  split
  · simp only [Option.some.injEq]
    omega
  · simp only [reduceCtorEq, false_iff]
    omega

theorem sectorAtAngle_eq_none (a : Nat) : sectorAtAngle a = none ↔ ∀ n, n < 8 → a ≠ 125 * n + 8 := by
  rw [Option.eq_none_iff_forall_ne_some]
  simp only [ne_eq, sectorAtAngle_eq_some, not_and]

/-- R2: the counter, which holds at 999, comes to no header's angle by holding. -/
theorem sectorAtAngle_next (a n : Nat) : sectorAtAngle (min 999 (a + 1)) = some n ↔ n < 8 ∧ a + 1 = 125 * n + 8 := by
  rw [sectorAtAngle_eq_some]
  omega

theorem sectorAtAngle_next_none (a : Nat) :
    sectorAtAngle (min 999 (a + 1)) = none ↔ ∀ n, ¬ (n < 8 ∧ a + 1 = 125 * n + 8) := by
  rw [Option.eq_none_iff_forall_ne_some]
  simp only [ne_eq, sectorAtAngle_next]

/-! ## Track sides (R12) -/

theorem Vol.trackStart_other {v : Vol} {d : DriveNo} (h : (v.drive d).seq.phase ≠ .waitAngle)
    (g : (v.drive d).seq.phase ≠ .unitPass false false) : v.trackStart d = v := by
  unfold Vol.trackStart
  split
  · next hp _ _ => exact absurd hp h
  · next hp _ _ => exact absurd hp g
  · rfl

/-- R12: a track side waiting for a header's angle begins there. -/
theorem Vol.trackStart_waits {v : Vol} {d : DriveNo} {u : UnitWork} {n : Nat}
    (hp : (v.drive d).seq.phase = .waitAngle) (hj : (v.drive d).seq.job = .unit u)
    (ha : sectorAtAngle (v.drive d).seq.angle = some n) :
    v.trackStart d = v.modSeq d (fun q =>
      { q with phase := .unitPass false true, job := .unit { u with sectors := rotation n, todo := rotation n } }) := by
  unfold Vol.trackStart
  rw [hp, hj, ha]
  exact Vol.modSeq_modSeq ..

theorem Vol.trackStart_noAngle {v : Vol} {d : DriveNo} (ha : sectorAtAngle (v.drive d).seq.angle = none) :
    v.trackStart d = v := by
  unfold Vol.trackStart
  split
  · next hn => exact absurd (ha.symm.trans hn) (by simp)
  · next hn => exact absurd (ha.symm.trans hn) (by simp)
  · rfl

/-- R12: in the write pass the next sector's write begins at that sector's header angle. -/
theorem Vol.trackStart_pass {v : Vol} {d : DriveNo} {u : UnitWork} {n : Nat}
    (hp : (v.drive d).seq.phase = .unitPass false false) (hj : (v.drive d).seq.job = .unit u)
    (ha : sectorAtAngle (v.drive d).seq.angle = some n) :
    v.trackStart d = if u.kind.onTrack && u.todo.head? == some n then v.setPhase d (.unitPass false true) else v := by
  unfold Vol.trackStart
  rw [hp, hj, ha]

theorem UnitKind.onTrack_iff (k : UnitKind) : k.onTrack = true ↔ ∃ i, k = .track i := by
  cases k <;> simp [UnitKind.onTrack]

/-! ## Unload counts (R90) -/

theorem Vol.idleBegins_iff (v : Vol) (d : DriveNo) :
    v.idleBegins d = true ↔ (v.drive d).seq.idleDue = true ∧ (v.drive d).seq.job = .none
      ∧ (v.drive d).sched.service = none ∧ v.selectable d = false
      ∧ ((v.drive d).seq.mount = .ready ∨ (v.drive d).seq.mount = .unformatted ∨ (v.drive d).seq.mount = .receiving)
      ∧ ((v.drive d).seq.head = .loaded ∨ (v.drive d).seq.head = .unloaded) := by
  unfold Vol.idleBegins
  simp only [Bool.and_eq_true, Bool.or_eq_true, beq_iff_eq, Option.isNone_iff_eq_none, Bool.not_eq_true', and_assoc, or_assoc]

theorem mem_allDrives : ∀ d : DriveNo, d ∈ allDrives := by decide

/-- Settles O39. -/
theorem indexPulsesAndAngleUnitsCount : Obligations.IndexPulsesAndAngleUnitsCount := by
  refine ⟨?_, ?_, ?_⟩
  · intro s d hlive setting
    refine ⟨?_, fun n hn h0 hle => ?_⟩
    · change s.whenLive (fun b v => (b, v.indexPulse b d)) = _
      rw [whenLive_live _ hlive]
      rfl
    · change s.whenLive (fun b v => (b, v.headUnload b d)) = _
      rw [whenLive_live _ hlive]
      have hdue : (s.vol.drive d).seq.unloadDue (s.bat.drive d).unload = true := by
        unfold Sequencer.unloadDue
        rw [hn]
        simpa using ⟨h0, hle⟩
      unfold Vol.headUnload
      rw [if_pos hdue]
  · intro s d protect v w
    have hseq : (w.drive d).seq = { (s.vol.drive d).seq with angle := min 999 ((s.vol.drive d).seq.angle + 1) } := by
      rw [Vol.drive_modSeq_self, Vol.drive_modCable_self]
    have hphase : (w.drive d).seq.phase = (s.vol.drive d).seq.phase := by rw [hseq]
    have hjob : (w.drive d).seq.job = (s.vol.drive d).seq.job := by rw [hseq]
    have hangle : (w.drive d).seq.angle = min 999 ((s.vol.drive d).seq.angle + 1) := by rw [hseq]
    have hexec : s.vol.live = true →
        exec (.angleUnitTick d protect) s = .next (s.finish (s.bat, w.trackStart d)) := by
      intro h
      change Host.Outcome.next (s.finish (s.bat, s.vol.angleUnit d protect)) = _
      unfold Vol.angleUnit
      rw [if_pos h]
      rfl
    refine ⟨fun h => ?_, fun h hw hp => ?_, ?_⟩
    · change Host.Outcome.next (s.finish (s.bat, s.vol.angleUnit d protect)) = _
      unfold Vol.angleUnit
      rw [if_neg (by rw [h]; decide)]
      rfl
    · rw [hexec h, Vol.trackStart_other (hphase ▸ hw) (hphase ▸ hp)]
    · intro h u hu comes
      rw [hexec h]
      have hju := hjob.trans hu
      refine ⟨fun hp => ⟨fun n hn => ?_, fun hn => ?_⟩, ?_⟩
      · rw [Vol.trackStart_waits (hphase.trans hp) hju (by rw [hangle]; exact (sectorAtAngle_next _ n).mpr hn)]
        rfl
      · rw [Vol.trackStart_noAngle (by rw [hangle]; exact (sectorAtAngle_next_none _).mpr hn)]
      · intro hp begins
        cases ha : sectorAtAngle (w.drive d).seq.angle with
        | none =>
          rw [Vol.trackStart_noAngle ha]
          refine ⟨?_, fun _ => rfl⟩
          rintro ⟨i, n, rest, _, _, hn⟩
          exact absurd hn ((sectorAtAngle_next_none _).mp (hangle ▸ ha) n)
        | some n =>
          have hn : comes n := (sectorAtAngle_next _ n).mp (hangle ▸ ha)
          rw [Vol.trackStart_pass (hphase.trans hp) hju ha]
          have hb : (u.kind.onTrack && u.todo.head? == some n) = true ↔ begins := by
            rw [Bool.and_eq_true, UnitKind.onTrack_iff, beq_iff_eq, List.head?_eq_some_iff]
            constructor
            · rintro ⟨⟨i, hi⟩, rest, hr⟩
              exact ⟨i, n, rest, hi, hr, hn⟩
            · rintro ⟨i, m, rest, hi, hr, hm⟩
              have : m = n := by
                have h1 := hm.2
                have h2 := hn.2
                omega
              exact ⟨⟨i, hi⟩, rest, this ▸ hr⟩
          refine ⟨fun hbegins => ?_, fun hnot => ?_⟩
          · rw [if_pos (hb.mpr hbegins)]
            rfl
          · rw [if_neg (mt hb.mp hnot)]
  · intro b v idles
    have hidles : ∀ d, v.idleBegins d = true ↔ idles d := v.idleBegins_iff
    unfold Vol.idleNext
    refine ⟨?_, fun w hw => ?_⟩
    · rw [Option.map_eq_none_iff, List.find?_eq_none]
      exact ⟨fun h d => mt (hidles d).mpr (h d (mem_allDrives d)), fun h d _ => mt (hidles d).mp (h d)⟩
    · obtain ⟨d, hd, rfl⟩ := Option.map_eq_some_iff.mp hw
      exact ⟨d, (hidles d).mp (List.find?_some hd), rfl⟩

end Sys2Proof.Machine
end

section
/-! PROOFS. Positioning: steps, settles and head loads, where positioning goes, and what a drive begins when it ends. -/

namespace Sys2Proof.Machine

/-! ## A drive changed into itself -/

theorem Vol.modDrive_self {v : Vol} {d : DriveNo} {f : Drive → Drive} (h : f (v.drive d) = v.drive d) :
    v.modDrive d f = v := by
  have hs : v.drives.set d (f (v.drive d)) = v.drives := by
    rw [h]
    exact Vector.set_getElem_self d.isLt
  unfold Vol.modDrive
  exact congrArg (fun x => { v with drives := x }) hs

theorem Vol.modService_eq {v : Vol} {d : DriveNo} {o : Order} (f : Order → Order)
    (h : (v.drive d).sched.service = some o) :
    v.modService d f = v.modSched d (fun x => { x with service := some (f o) }) := by
  unfold Vol.modService Vol.modSched
  refine Vol.modDrive_congr ?_
  simp only [h, Option.map_some]

theorem Vol.modService_self {v : Vol} {d : DriveNo} {o : Order} {f : Order → Order}
    (h : (v.drive d).sched.service = some o) (hf : f o = o) : v.modService d f = v := by
  rw [Vol.modService_eq f h, hf, ← h]
  exact Vol.modDrive_self rfl

/-! ## The ends of steps, settles and head loads -/

theorem Sequencer.recalFailed_iff (track0 : Bool) (q : Sequencer) :
    q.recalFailed track0 = true ↔ track0 = false ∧ q.cyl = none ∧ 80 ≤ q.recal.getD 0 := by
  unfold Sequencer.recalFailed
  simp only [Bool.and_eq_true, Bool.not_eq_true', Option.isNone_iff_eq_none, decide_eq_true_eq, and_assoc]
  rfl

theorem Vol.endingOrder_iff (v : Vol) (o : Order) :
    v.endingOrder o = true ↔ ∃ q, v.req o.req = some q ∧ q.stage = .ending := by
  unfold Vol.endingOrder
  cases v.req o.req <;> simp

theorem Vol.recalEnding_iff (v : Vol) (d : DriveNo) :
    v.recalEnding d = true ↔ ∃ o q, (v.drive d).sched.service = some o ∧ o.kind = .recalibrate
      ∧ v.req o.req = some q ∧ q.stage = .ending := by
  unfold Vol.recalEnding
  cases (v.drive d).sched.service with
  | none => simp
  | some o => simp [Vol.endingOrder_iff]

/-- R86, R87, R88, R100: what a step that ends comes to. -/
theorem Vol.stepDone_eq {v : Vol} {d : DriveNo} {m : StepMove} (b : Battery) (track0 : Bool)
    (h : (v.drive d).seq.step = some m) :
    v.stepDone b d track0 =
      let w := (v.modCable d (fun c => { c with track0 := track0 })).modSeq d (Sequencer.stepped m)
      if w.recalEnding d then w.recalStops b d
      else if (w.drive d).seq.recalFailed track0 then w.discard b d .faulted .seekFault else w.go b d := by
  unfold Vol.stepDone
  rw [h]

theorem Vol.settleDone_eq {v : Vol} {d : DriveNo} {n : Nat} (b : Battery) (h : (v.drive d).seq.settle = some n) :
    v.settleDone b d = (v.modSeq d (fun q => { q with settle := none })).go b d := by
  unfold Vol.settleDone
  rw [h]

theorem Vol.headLoadDone_eq {v : Vol} {d : DriveNo} {n : Nat} (b : Battery) (h : (v.drive d).seq.head = .loading n) :
    v.headLoadDone b d =
      let w := v.modSeq d (fun q => { q with head := .loaded })
      if (v.drive d).seq.phase = .positioning then w.go b d else w := by
  unfold Vol.headLoadDone
  rw [h, if_pos (by rfl)]
  dsimp only
  rw [Vol.drive_modSeq_self]

/-! ## How positioning goes on (R85 to R89) -/

theorem Sequencer.go_waits (t : Timing) (track0 : Bool) (target : Nat) (needsHead : Bool) {q : Sequencer}
    (h : q.step ≠ none) : q.go t track0 target needsHead = { q with phase := .positioning } := by
  unfold Sequencer.go
  rw [if_pos (Option.isSome_iff_ne_none.mpr h)]

theorem Sequencer.go_known (t : Timing) (track0 : Bool) (target : Nat) (needsHead : Bool) {q : Sequencer} {h : Nat}
    (hs : q.step = none) (hc : q.cyl = some h) : q.go t track0 target needsHead = q.seek t target needsHead h := by
  unfold Sequencer.go
  rw [hs, hc]
  rfl

theorem Sequencer.go_unknown (t : Timing) (track0 : Bool) (target : Nat) (needsHead : Bool) {q : Sequencer}
    (hs : q.step = none) (hc : q.cyl = none) :
    q.go t track0 target needsHead = if track0 then ({ q with cyl := some 0, recal := none } : Sequencer).seek t target needsHead 0
      else { q.beginStep t false with recal := some (q.recal.getD 0 + 1) } := by
  unfold Sequencer.go
  rw [hs, hc]
  rfl

theorem Sequencer.arrive_settles {t : Timing} {q : Sequencer} (needsHead : Bool)
    (h : q.settleOwed = true ∧ t.settle ≠ 0) :
    q.arrive t needsHead = { q with settle := some t.settle, settleOwed := false, phase := .positioning } := by
  unfold Sequencer.arrive
  rw [if_pos (by simpa using h)]

theorem Sequencer.arrive_waits {t : Timing} {q : Sequencer} {needsHead : Bool}
    (h : ¬ (q.settleOwed = true ∧ t.settle ≠ 0)) (g : q.settle ≠ none ∨ needsHead = true ∧ q.head ≠ .loaded) :
    q.arrive t needsHead = { q with settleOwed := false, phase := .positioning } := by
  unfold Sequencer.arrive
  rw [if_neg (by simpa using h)]
  by_cases hs : q.settle = none
  · have hn := g.resolve_left (not_not.mpr hs)
    rw [if_neg (by simp [hs]), if_pos (by simpa using hn)]
  · rw [if_pos (Option.isSome_iff_ne_none.mpr hs)]

theorem Sequencer.arrive_ready {t : Timing} {q : Sequencer} {needsHead : Bool}
    (h : ¬ (q.settleOwed = true ∧ t.settle ≠ 0)) (g : ¬ (q.settle ≠ none ∨ needsHead = true ∧ q.head ≠ .loaded)) :
    q.arrive t needsHead = { q with settleOwed := false, phase := .ready } := by
  rw [not_or, not_not] at g
  unfold Sequencer.arrive
  rw [if_neg (by simpa using h), if_neg (by simp [g.1]), if_neg (by simpa using g.2)]

theorem Sequencer.lower_eq (t : Timing) (q : Sequencer) :
    q.lower t = if q.head = .unloaded then { q with head := if t.load = 0 then .loaded else .loading t.load } else q := by
  unfold Sequencer.lower
  cases q.head <;> rfl

/-! ## Where positioning goes (R12, R83, R100, R177) -/

theorem Drive.go_idle (t : Timing) {x : Drive} (h : x.target = none) : x.go t = x := by
  unfold Drive.go
  rw [h]

theorem Drive.go_toward (t : Timing) {x : Drive} {cyl side : Nat} (h : x.target = some (cyl, side, true)) :
    x.go t = { x with seq := (({ x.seq with side := side } : Sequencer).lower t).go t x.cable.track0 cyl true } := by
  unfold Drive.go
  rw [h]
  rfl

theorem Drive.go_recalibrates (t : Timing) {x : Drive} (h : x.target = some (0, x.seq.side, false)) :
    x.go t = { x with seq := x.seq.go t x.cable.track0 0 false } := by
  unfold Drive.go
  rw [h]
  rfl

theorem Drive.target_order {x : Drive} {o : Order} (hj : x.seq.job = .order) (hs : x.sched.service = some o) :
    x.target = if o.kind = .recalibrate then some (0, x.seq.side, false) else some (o.cyl, o.side, true) := by
  unfold Drive.target
  rw [hj]
  dsimp only
  rw [hs]

theorem Drive.target_none {x : Drive} (hj : x.seq.job = .none) : x.target = none := by
  unfold Drive.target
  rw [hj]

theorem Drive.target_loading {x : Drive} {l : LoadWork} (hj : x.seq.job = .loading l) :
    x.target = some (0, (loadPlace l.sector).1, true) := by
  unfold Drive.target
  rw [hj]

theorem Drive.target_unit {x : Drive} {u : UnitWork} (hj : x.seq.job = .unit u) :
    x.target = some (u.kind.place.1, u.kind.place.2, true) := by
  unfold Drive.target
  rw [hj]

theorem loadPlace_side (n : Nat) : (loadPlace n).1 = if n ≤ 7 then 0 else 1 := by
  unfold loadPlace
  split <;> rfl

/-! ## What begins when positioning has ended -/

theorem Order.sampleDue_iff (o : Order) : o.sampleDue = true ↔ o.pass = .write ∧ o.sampled = false := by
  simp [Order.sampleDue]

theorem Vol.beginWork_order {v : Vol} {d : DriveNo} {o : Order} (b : Battery) (hj : (v.drive d).seq.job = .order)
    (hs : (v.drive d).sched.service = some o) : v.beginWork b d = v.orderReady b d o := by
  unfold Vol.beginWork
  rw [hj]
  dsimp only
  rw [hs]

theorem Vol.orderReady_recalibrate (v : Vol) {o : Order} (b : Battery) (d : DriveNo) (h : o.kind = .recalibrate) :
    v.orderReady b d o = v.orderEnd b d .done := by
  unfold Vol.orderReady
  rw [if_pos h]

/-- R82: an order that is not about to make the first write of its service period is not sampled. -/
theorem Vol.orderReady_unsampled {v : Vol} {d : DriveNo} {o : Order} (b : Battery)
    (hs : (v.drive d).sched.service = some o) (hk : o.kind ≠ .recalibrate) (hd : ¬ (o.pass = .write ∧ o.sampled = false)) :
    v.orderReady b d o = v.setPhase d Phase.search := by
  have hdue : o.sampleDue = false := by
    rw [← Bool.not_eq_true, Order.sampleDue_iff]
    exact hd
  unfold Vol.orderReady
  rw [if_neg hk, hdue, Vol.modService_self hs (by rw [hdue, Bool.or_false])]
  rfl

theorem Vol.orderReady_protected {v : Vol} {d : DriveNo} {o : Order} (b : Battery) (hk : o.kind ≠ .recalibrate)
    (hd : o.pass = .write ∧ o.sampled = false) (hp : (v.drive d).cable.protect = true) :
    v.orderReady b d o = (v.modSeq d (fun q => { q with writeProtected := true })).orderEnd b d .writeProtected := by
  unfold Vol.orderReady
  rw [if_neg hk, (Order.sampleDue_iff o).mpr hd, hp]
  rfl

theorem Vol.orderReady_sampled {v : Vol} {d : DriveNo} {o : Order} (b : Battery)
    (hs : (v.drive d).sched.service = some o) (hk : o.kind ≠ .recalibrate) (hd : o.pass = .write ∧ o.sampled = false)
    (hp : (v.drive d).cable.protect = false) :
    v.orderReady b d o
      = (v.modSched d (fun x => { x with service := some { o with sampled := true } })).setPhase d Phase.search := by
  unfold Vol.orderReady
  rw [if_neg hk, hp, Bool.and_false, Vol.modService_eq _ hs, (Order.sampleDue_iff o).mpr hd, Bool.or_true]
  rfl

theorem Vol.beginWork_loading {v : Vol} {d : DriveNo} {l : LoadWork} (b : Battery)
    (hj : (v.drive d).seq.job = .loading l) : v.beginWork b d = v.setPhase d Phase.search := by
  unfold Vol.beginWork
  rw [hj]

theorem Vol.beginWork_unit {v : Vol} {d : DriveNo} {u : UnitWork} (b : Battery) (hj : (v.drive d).seq.job = .unit u) :
    v.beginWork b d = match u.kind with
      | .invalidate => v.setPhase d Phase.search
      | .track _ => (v.setPhase d .waitAngle).trackStart d
      | .catalog _ => v.setPhase d (.unitPass false false)
      | .label => v.setPhase d (.unitPass false false) := by
  unfold Vol.beginWork
  rw [hj] <;> rfl

/-- R12: a track side begins at once at a header's own angle (log 22), -/
theorem Vol.trackStart_atAngle {v : Vol} {d : DriveNo} {u : UnitWork} {n : Nat} (hj : (v.drive d).seq.job = .unit u)
    (hn : n < 8) (ha : (v.drive d).seq.angle = 125 * n + 8) :
    (v.setPhase d .waitAngle).trackStart d = v.modSeq d (fun q =>
      { q with phase := .unitPass false true, job := .unit { u with sectors := rotation n, todo := rotation n } }) := by
  have hseq : ((v.setPhase d .waitAngle).drive d).seq = { (v.drive d).seq with phase := .waitAngle } := by
    unfold Vol.setPhase
    rw [Vol.drive_modSeq_self]
  rw [Vol.trackStart_waits (u := u) (n := n) (by rw [hseq]) (by rw [hseq]; exact hj)
    (by rw [hseq]; exact (sectorAtAngle_eq_some _ n).mpr ⟨hn, ha⟩)]
  exact Vol.modSeq_modSeq ..

/-- and waits at any other. -/
theorem Vol.trackStart_betweenAngles {v : Vol} {d : DriveNo} (ha : ∀ n : Nat, n < 8 → (v.drive d).seq.angle ≠ 125 * n + 8) :
    (v.setPhase d .waitAngle).trackStart d = v.setPhase d .waitAngle := by
  refine Vol.trackStart_noAngle ?_
  unfold Vol.setPhase
  rw [Vol.drive_modSeq_self]
  exact (sectorAtAngle_eq_none _).mpr ha

/-- Settles O42. -/
theorem positioningGoesOn : Obligations.PositioningGoesOn := by
  refine ⟨?_, ?_, fun t q => q.lower_eq t, ?_, fun _ _ _ => rfl, fun _ => rfl, ?_⟩
  · intro s d hlive
    refine ⟨?_, fun n hn => ?_, ?_⟩
    · intro track0 m hm v failed cancelled
      have hexec : exec (.stepDone d track0) s = .next (s.finish (s.bat,
          if v.recalEnding d then v.recalStops s.bat d
          else if (v.drive d).seq.recalFailed track0 then v.discard s.bat d .faulted .seekFault else v.go s.bat d)) := by
        change s.whenLive (fun b v => (b, v.stepDone b d track0)) = _
        rw [whenLive_live _ hlive, Vol.stepDone_eq s.bat track0 hm]
        rfl
      have hdrive : v.drive d = { s.vol.drive d with
          cable := { (s.vol.drive d).cable with track0 := track0 },
          seq := (s.vol.drive d).seq.stepped m } := by
        rw [Vol.drive_modSeq_self, Vol.drive_modCable_self]
        rfl
      have hcancelled : v.recalEnding d = true ↔ cancelled := by
        rw [Vol.recalEnding_iff, hdrive]
        rfl
      have hfailed : (v.drive d).seq.recalFailed track0 = true ↔ failed := by
        rw [Sequencer.recalFailed_iff, hdrive]
        simp only [Sequencer.stepped, Option.map_eq_none_iff]
        rfl
      rw [hexec]
      refine ⟨fun h => ?_, fun h g => ?_, fun h g => ?_⟩
      · rw [if_pos (hcancelled.mpr h)]
        rfl
      · rw [if_neg (mt hcancelled.mp h), if_pos (hfailed.mpr g)]
      · rw [if_neg (mt hcancelled.mp h), if_neg (mt hfailed.mp g)]
    · change s.whenLive (fun b v => (b, v.settleDone b d)) = _
      rw [whenLive_live _ hlive, Vol.settleDone_eq _ hn]
    · intro n hn v
      change s.whenLive (fun b v => (b, v.headLoadDone b d)) = _
      rw [whenLive_live _ hlive, Vol.headLoadDone_eq _ hn]
  · intro t track0 target needsHead q goes settles waits
    refine ⟨fun h => Sequencer.go_waits t track0 target needsHead h, fun hs hc => ?_, fun hs h hc hne => ?_, fun hs hc ht => ?_,
      fun hs hc ht => ?_⟩
    · have harrive : q.go t track0 target needsHead = q.arrive t needsHead := by
        rw [Sequencer.go_known t track0 target needsHead hs hc, Sequencer.seek, if_pos rfl]
      simp only [goes, harrive]
      exact ⟨fun h => Sequencer.arrive_settles needsHead h, fun h g => Sequencer.arrive_waits h g,
        fun h g => Sequencer.arrive_ready h g⟩
    · change q.go t track0 target needsHead = _
      rw [Sequencer.go_known t track0 target needsHead hs hc, Sequencer.seek, if_neg hne]
      rfl
    · change q.go t track0 target needsHead = _
      rw [Sequencer.go_unknown t track0 target needsHead hs hc, ht]
      rfl
    · change q.go t track0 target needsHead = _
      rw [Sequencer.go_unknown t track0 target needsHead hs hc, ht]
      exact (Sequencer.go_known t _ target needsHead (q := { q with cyl := some 0, recal := none }) hs rfl).symm
  · intro t x toward
    refine ⟨fun h => Drive.go_idle t (Drive.target_none h), fun o hj hs => ⟨fun h => ?_, fun h => ?_⟩, fun l hj => ?_,
      fun u hj => ⟨?_, fun n hk => ?_, fun half hk => ?_⟩⟩
    · exact Drive.go_recalibrates t (by rw [Drive.target_order hj hs, if_pos h])
    · exact Drive.go_toward t (by rw [Drive.target_order hj hs, if_neg h])
    · exact Drive.go_toward t (by rw [Drive.target_loading hj, loadPlace_side])
    · rintro (hk | hk) <;> exact Drive.go_toward t (by rw [Drive.target_unit hj, hk]; rfl)
    · exact Drive.go_toward t (by rw [Drive.target_unit hj, hk]; rfl)
    · exact Drive.go_toward t (by rw [Drive.target_unit hj, hk]; rfl)
  · intro b v d phased search
    refine ⟨?_, fun l hj => Vol.beginWork_loading b hj, fun u hj => ?_⟩
    · intro o hj hs due
      rw [Vol.beginWork_order b hj hs]
      exact ⟨fun hk => v.orderReady_recalibrate b d hk, fun hk hd => Vol.orderReady_unsampled b hs hk hd,
        fun hk hd => ⟨fun hp => Vol.orderReady_protected b hk hd hp, fun hp => Vol.orderReady_sampled b hs hk hd hp⟩⟩
    · have hbegin := Vol.beginWork_unit b hj
      refine ⟨fun hk => ?_, fun i hk => ?_, ?_⟩
      · rw [hbegin, hk]
        rfl
      · have htrack : v.beginWork b d = (v.setPhase d .waitAngle).trackStart d := by rw [hbegin, hk]
        rw [htrack]
        exact ⟨fun n hn ha => Vol.trackStart_atAngle hj hn ha, fun ha => Vol.trackStart_betweenAngles ha⟩
      · rintro (⟨half, hk⟩ | hk) <;> rw [hbegin, hk] <;> rfl

end Sys2Proof.Machine
end

section
/-! PROOFS. Headers: what one comes to in a search, in a verify pass and in a unit's pass, what a failed attempt comes to,
and the catalog sectors composed as their writes begin. -/

namespace Sys2Proof.Machine

/-! ## Headers classified (R6) -/

theorem headerGood_iff (h : HeaderRead) : headerGood h = true ↔ crc [h.cyl, h.side, h.sector, h.size] = h.check :=
  beq_iff_eq

theorem classify_bad {h : HeaderRead} (c side n : Nat) (hg : ¬ crc [h.cyl, h.side, h.sector, h.size] = h.check) :
    classify c side n h = .ignored := by
  rw [← headerGood_iff] at hg
  unfold classify
  simp [hg]

theorem classify_passes {c side n : Nat} {h : HeaderRead} (hg : crc [h.cyl, h.side, h.sector, h.size] = h.check)
    (hs : ¬ (h.cyl.toNat = c ∧ h.side.toNat = side ∧ h.sector.toNat = n ∧ h.size.toNat = 3)) (hc : h.cyl.toNat = c) :
    classify c side n h = .passes := by
  have hn : classify c side n h ≠ .sought := fun e => hs ((classify_eq_sought c side n h).mp e).2
  rw [← headerGood_iff] at hg
  unfold classify at hn ⊢
  simp only [hg, hc, Bool.not_true, Bool.false_eq_true, if_false, bne_self_eq_false] at hn ⊢
  split
  · next h3 => exact absurd (if_pos h3) hn
  · rfl

theorem classify_wrong {c : Nat} {h : HeaderRead} (side n : Nat) (hg : crc [h.cyl, h.side, h.sector, h.size] = h.check)
    (hc : h.cyl.toNat ≠ c) : classify c side n h = .wrongCylinder := by
  rw [← headerGood_iff] at hg
  unfold classify
  simp [hg, hc]

/-! ## A header in a search (R91) -/

theorem Vol.headerFound_search {v : Vol} {d : DriveNo} {pulses : Nat} {right wrong : Bool} {c side n : Nat}
    (hd : HeaderRead) (hp : (v.drive d).seq.phase = .searching pulses right wrong) (h2 : pulses < 2)
    (ht : (v.drive d).searchTarget = some (c, side, n)) :
    v.headerFound d hd = match classify c side n hd with
      | .ignored => v
      | .sought => v.headerSought d
      | .passes => v.setPhase d (.searching pulses true wrong)
      | .wrongCylinder => v.setPhase d (.searching pulses right true) := by
  unfold Vol.headerFound
  rw [hp]
  dsimp only
  rw [if_pos h2]
  unfold Vol.headerSearched
  rw [ht] <;> rfl

theorem Vol.searchLimit_fails {v : Vol} {d : DriveNo} {pulses : Nat} {right wrong : Bool} (b : Battery)
    (hp : (v.drive d).seq.phase = .searching pulses right wrong) (h2 : 2 ≤ pulses) :
    v.searchLimit b d = v.searchFails b d (wrong && !right) := by
  unfold Vol.searchLimit
  rw [hp]
  dsimp only
  rw [if_neg (Nat.not_lt.mpr h2)]

theorem Vol.searchFails_order {v : Vol} {d : DriveNo} {o : Order} (b : Battery) (x : Bool)
    (hj : (v.drive d).seq.job = .order) (hs : (v.drive d).sched.service = some o) :
    v.searchFails b d x = v.attemptFailed b d o false x := by
  unfold Vol.searchFails
  rw [hj]
  dsimp only
  rw [hs]

theorem Vol.searchFails_loading {v : Vol} {d : DriveNo} {l : LoadWork} (b : Battery) (x : Bool)
    (hj : (v.drive d).seq.job = .loading l) : v.searchFails b d x = v.loadFailed b d l false x := by
  unfold Vol.searchFails
  rw [hj]

theorem Vol.searchFails_unit {v : Vol} {d : DriveNo} {u : UnitWork} (b : Battery) (x : Bool)
    (hj : (v.drive d).seq.job = .unit u) : v.searchFails b d x = v.invalidateEnd b d u := by
  unfold Vol.searchFails
  rw [hj]

/-! ## A failed attempt of an order (R92 to R94) -/

theorem raiseRetries_eq (n : Nat) : raiseRetries n = min 255 (n + 1) := by
  unfold raiseRetries
  split <;> omega

theorem Sequencer.countSector_eq (t : Tries) (q : Sequencer) :
    q.countSector t = { q with retries := if 1 < t.attempt then min 255 (q.retries + 1) else q.retries } := by
  unfold Sequencer.countSector
  split
  · rw [raiseRetries_eq]
  · rfl

theorem Vol.higherWaiting_iff (v : Vol) (d : DriveNo) (c : ServiceClass) :
    v.higherWaiting d c = true ↔ ∃ y ∈ (v.drive d).sched.queue, v.eligible y = true ∧ c.rank < y.cls.rank := by
  unfold Vol.higherWaiting Vol.eligibleOrders
  simp only [List.any_eq_true, List.mem_filter, decide_eq_true_eq, and_assoc]

theorem Vol.attemptFailed_exhausted {o : Order} (b : Battery) (v : Vol) (d : DriveNo) (bad mispositioned : Bool)
    (h : 4 ≤ o.tries.attempt) :
    v.attemptFailed b d o bad mispositioned
      = (v.modSeq d (fun q => { q with retries := min 255 (q.retries + 1) })).orderEnd b d
          (if v.endingOrder o then .cancelled else (o.tries.failed bad mispositioned).outcome) := by
  have hcount : Sequencer.countSector o.tries = fun q => { q with retries := min 255 (q.retries + 1) } := by
    funext q
    rw [Sequencer.countSector_eq, if_pos (by omega)]
  unfold Vol.attemptFailed
  dsimp only
  have hattempts : Config.attempts ≤ o.tries.attempt := h
  rw [if_pos hattempts, hcount]

/-- R92: short of four attempts a request in ENDING ends its order; a preemption pending before the order's first sector
is decided (log 14); any other order makes its next attempt. -/
theorem Vol.attemptFailed_short {o : Order} (b : Battery) (v : Vol) (d : DriveNo) (bad mispositioned : Bool)
    (h : o.tries.attempt < 4) :
    v.attemptFailed b d o bad mispositioned =
      if v.endingOrder o then v.orderEnd b d .cancelled
      else if (v.drive d).sched.pending && o.progress == 0 then
        if v.higherWaiting d o.cls then
          (v.modService d (fun o' => { o' with tries := o.tries.failed bad mispositioned })).modDrive d Drive.preemptEarly
        else (v.modSched d (fun s => { s with pending := false })).nextAttempt b d (o.tries.failed bad mispositioned)
      else v.nextAttempt b d (o.tries.failed bad mispositioned) := by
  unfold Vol.attemptFailed
  dsimp only
  have hattempts : ¬ Config.attempts ≤ o.tries.attempt := Nat.not_le.mpr h
  rw [if_neg hattempts]

/-! ## Headers in verify passes and units' passes (R95, R12, R14) -/

theorem Vol.composeService_eq {v : Vol} {d : DriveNo} {o : Order} (h : (v.drive d).sched.service = some o) :
    v.composeService d = v.composeFor o d := by
  unfold Vol.composeService
  rw [h]

theorem Vol.headerFound_verify {v : Vol} {d : DriveNo} {w : VerifyWork} {o : Order} {n : Nat} {rest : List Nat}
    (hd : HeaderRead) (hp : (v.drive d).seq.phase = .verify w) (hs : (v.drive d).sched.service = some o)
    (ht : w.todo = n :: rest) :
    v.headerFound d hd = if classify o.cyl o.side n hd = .sought then
        (if w.rewrite then v.composeService d else v).setPhase d (.verify { w with found := true }) else v := by
  unfold Vol.headerFound
  rw [hp]
  dsimp only
  unfold Vol.headerVerified
  rw [hs, ht, Vol.composeService_eq hs]

theorem Sequencer.unit?_eq {q : Sequencer} {u : UnitWork} (h : q.job = .unit u) : q.unit? = some u := by
  unfold Sequencer.unit?
  rw [h]

theorem Vol.headerFound_unit {v : Vol} {d : DriveNo} {verify found : Bool} {u : UnitWork} {n : Nat} {rest : List Nat}
    (hd : HeaderRead) (hp : (v.drive d).seq.phase = .unitPass verify found) (hj : (v.drive d).seq.job = .unit u)
    (ht : u.todo = n :: rest) :
    v.headerFound d hd = if u.kind.onTrack && !verify then v
      else if classify u.kind.place.1 u.kind.place.2 n hd = .sought then
        (if verify then v else v.setUnit d { u with image := v.unitImage u n }).setPhase d (.unitPass verify true)
      else v := by
  unfold Vol.headerFound
  rw [hp]
  dsimp only
  unfold Vol.headerInUnit
  rw [Sequencer.unit?_eq hj]
  dsimp only
  rw [ht]

theorem UnitKind.onTrack_eq_false {k : UnitKind} (h : ∀ i, k ≠ .track i) : k.onTrack = false := by
  rw [← Bool.not_eq_true, UnitKind.onTrack_iff]
  exact fun ⟨i, hi⟩ => h i hi

/-! ## Catalog sectors composed (R35, R183) -/

theorem Mirror.entry_eq_getD (m : Mirror) (i : Nat) : (m.slots[i]?).getD none = m.entry i := by
  unfold Mirror.entry
  cases m.slots[i]? <;> rfl

theorem slotImageFor_bytes (own i : Nat) (o : Option Entry) :
    (slotImageFor own i o).bytes = match o with
      | none => List.replicate 64 0
      | some e => match e.catWrite with
        | none => e.image.bytes
        | some c => if i = own then c.image.bytes else e.image.bytes := by
  unfold slotImageFor
  cases o with
  | none => rfl
  | some e =>
    dsimp only
    cases e.catWrite with
    | none => rfl
    | some c =>
      dsimp only
      split <;> rfl

theorem copyImage_bytes (o : Option Entry) :
    (copyImage o).bytes = match o with
      | none => List.replicate 64 0
      | some e => if e.image.state = .filed then e.image.bytes else List.replicate 64 0 := by
  unfold copyImage
  cases o with
  | none => rfl
  | some e =>
    dsimp only
    split <;> rfl

theorem Vol.composeFor_other {v : Vol} {o : Order} (d : DriveNo) (h : o.kind ≠ .catalogWrite) : v.composeFor o d = v := by
  unfold Vol.composeFor
  split
  · next hk _ _ _ => exact absurd hk h
  · rfl

theorem Vol.composeFor_catalogWrite {v : Vol} {o : Order} {d : DriveNo} {x : BufNo} {q : Request} {m : Mirror}
    (hk : o.kind = .catalogWrite) (hb : o.buffers.head? = some x) (hq : v.req o.req = some q)
    (hm : v.mirror d = some m) : v.composeFor o d = v.fillBuf x (composeSector m q.slot) := by
  unfold Vol.composeFor
  rw [hk, hb, hq, hm]

theorem Vol.unitImage_other (v : Vol) {u : UnitWork} (n : Nat) (h : ∀ half, u.kind ≠ .catalog half) :
    v.unitImage u n = u.image := by
  unfold Vol.unitImage
  split
  · next half hk => exact absurd hk (h half)
  all_goals rfl

theorem Vol.unitImage_format (v : Vol) {u : UnitWork} {half : Nat} (n : Nat) (h : u.kind = .catalog half)
    (hc : u.copy = false) : v.unitImage u n = zeroSector := by
  unfold Vol.unitImage
  rw [h, hc]
  rfl

theorem Vol.unitImage_copy {v : Vol} {u : UnitWork} {half : Nat} {q : Request} {m : Mirror} (n : Nat)
    (h : u.kind = .catalog half) (hc : u.copy = true) (hq : v.req u.req = some q) (hm : v.mirror q.drive = some m) :
    v.unitImage u n = composeCopy m half n := by
  unfold Vol.unitImage
  rw [h, hc, hq, Option.bind_some, hm]
  rfl

/-- Settles O43. -/
theorem searchesReadHeaders : Obligations.SearchesReadHeaders := by
  refine ⟨?_, ?_, ?_, ?_, ?_⟩
  · intro s d pulses right wrong hlive hp
    have hlimit : exec (.searchLimit d) s = .next (s.finish (s.bat, s.vol.searchLimit s.bat d)) :=
      whenLive_live (fun b v => (b, v.searchLimit b d)) hlive
    refine ⟨?_, fun h2 => ?_⟩
    · intro h2 c side n h ht good sought shows
      have hexec : exec (.headerFound d h) s = .next (s.finish (s.bat, s.vol.headerFound d h)) :=
        whenLive_live (fun b v => (b, v.headerFound d h)) hlive
      have hfound := Vol.headerFound_search h hp h2 ht
      simp only [shows, hexec, hfound]
      refine ⟨fun hg => ?_, fun hg hs => ?_, fun hg hs hc => ?_, fun hg hc => ?_⟩
      · rw [classify_bad c side n hg]
      · rw [(classify_eq_sought c side n h).mpr ⟨hg, hs⟩]
        rfl
      · rw [classify_passes hg hs hc]
        rfl
      · rw [classify_wrong side n hg hc]
        rfl
    · rw [hlimit, Vol.searchLimit_fails s.bat hp h2]
      refine ⟨fun o hj hs => ?_, fun l hj => ?_, fun u hj => ?_⟩
      · rw [Vol.searchFails_order s.bat _ hj hs]
      · rw [Vol.searchFails_loading s.bat _ hj]
      · rw [Vol.searchFails_unit s.bat _ hj]
  · intro b v d o bad mispositioned t why higher tried next
    refine ⟨fun h => v.attemptFailed_exhausted b d bad mispositioned h, fun h he => ?_, fun h he hp => ?_,
      fun h he hp h0 => ?_⟩
    · rw [v.attemptFailed_short b d bad mispositioned h, if_pos he]
    · rw [v.attemptFailed_short b d bad mispositioned h, if_neg (by rw [he]; decide), if_neg]
      · rfl
      · simp only [Bool.and_eq_true, beq_iff_eq, not_and]
        exact fun hpend h0 => hp.elim (fun hf => absurd (hf.symm.trans hpend) (by decide)) (fun hn => hn h0)
    · have hhigher : v.higherWaiting d o.cls = true ↔ higher := v.higherWaiting_iff d o.cls
      rw [v.attemptFailed_short b d bad mispositioned h, if_neg (by rw [he]; decide), if_pos (by simp [hp, h0])]
      refine ⟨fun hh => ?_, fun hh => ?_⟩
      · rw [if_pos (hhigher.mpr hh)]
        rfl
      · rw [if_neg (mt hhigher.mp hh)]
        rfl
  · intro s d h hlive names ends
    have hexec : exec (.headerFound d h) s = .next (s.finish (s.bat, s.vol.headerFound d h)) :=
      whenLive_live (fun b v => (b, v.headerFound d h)) hlive
    have hnames : ∀ c side n, classify c side n h = .sought ↔ names c side n := fun c side n => classify_eq_sought c side n h
    refine ⟨fun w o n rest hp hs ht => ?_, ?_⟩
    · simp only [ends, hexec, Vol.headerFound_verify h hp hs ht]
      refine ⟨fun hn => ?_, fun hn => ?_⟩
      · rw [if_pos ((hnames _ _ _).mpr hn)]
        rfl
      · rw [if_neg (mt (hnames _ _ _).mp hn)]
    · intro verify found u n rest hp hj ht here
      simp only [ends, hexec, Vol.headerFound_unit h hp hj ht]
      refine ⟨?_, ?_, ?_, ?_⟩
      · rintro rfl hh
        rw [if_neg (by simp), if_pos ((hnames _ _ _).mpr hh)]
        rfl
      · rintro rfl hh
        rw [if_neg (by simp), if_neg (mt (hnames _ _ _).mp hh)]
      · rintro rfl i hk
        rw [if_pos (by rw [hk]; rfl)]
      · rintro rfl hk
        rw [if_neg (by rw [UnitKind.onTrack_eq_false hk]; decide)]
        refine ⟨fun hh => ?_, fun hh => ?_⟩
        · rw [if_pos ((hnames _ _ _).mpr hh), if_neg (by decide), Vol.setUnit, Vol.setPhase, Vol.modSeq_modSeq]
        · rw [if_neg (mt (hnames _ _ _).mp hh)]
  · intro v d o hs
    rw [Vol.composeService_eq hs]
    refine ⟨fun hk => Vol.composeFor_other d hk, fun x xs q m hk hb hq hm => ?_⟩
    rw [Vol.composeFor_catalogWrite hk (by rw [hb]; rfl) hq hm]
    unfold composeSector
    simp only [Mirror.entry_eq_getD, slotImageFor_bytes]
    rfl
  · intro v u n
    refine ⟨fun hk => v.unitImage_other n hk, fun half hk => ⟨fun hc => v.unitImage_format n hk hc, fun q m hc hq hm => ?_⟩⟩
    rw [Vol.unitImage_copy n hk hc hq hm]
    unfold composeCopy
    simp only [Mirror.entry_eq_getD, copyImage_bytes]
    rfl

end Sys2Proof.Machine
end

section
/-! PROOFS. Sector boundaries: what the end of a sector transfer comes to for an order, a LOADING and a unit, and what
follows a completed sector of an order. -/

namespace Sys2Proof.Machine

/-! ## Transfers of the order in service (R91) -/

theorem Vol.orderTransferEnd_write {v : Vol} {o : Order} (b : Battery) (d : DriveNo) (f : FieldRead)
    (h : o.pass = .write) :
    v.orderTransferEnd b d o f
      = (v.modDisk d (fun m => m.writeData o.cyl o.side o.sector (v.sectorData o o.sector))).sectorCompleted b d o := by
  unfold Vol.orderTransferEnd
  rw [h]

theorem Vol.orderTransferEnd_good {v : Vol} {o : Order} {d : DriveNo} {f : FieldRead} {bs : List Byte} {x : BufNo}
    (b : Battery) (h : o.pass = .read) (hf : (v.drive d).cable.disk.readField o.cyl o.side o.sector f = some bs)
    (hx : o.bufferFor o.sector = some x) :
    v.orderTransferEnd b d o f = (v.fillBuf x bs).sectorCompleted b d o := by
  unfold Vol.orderTransferEnd
  rw [h]
  dsimp only
  rw [hf, hx]

theorem Vol.orderTransferEnd_bad {v : Vol} {o : Order} {d : DriveNo} {f : FieldRead} (b : Battery)
    (h : o.pass = .read) (hf : (v.drive d).cable.disk.readField o.cyl o.side o.sector f = none) :
    v.orderTransferEnd b d o f = (v.readBad o f).attemptFailed b d o true false := by
  unfold Vol.orderTransferEnd
  rw [h]
  dsimp only
  rw [hf]

theorem sectorOf_eq (bs : List Byte) : sectorOf bs = bs.take 1024 ++ List.replicate (1024 - bs.length) 0 := by
  have hlen : 1024 - (bs.take 1024).length = 1024 - bs.length := by
    rw [List.length_take]
    omega
  unfold sectorOf padTo Config.sectorBytes
  rw [hlen]

theorem Vol.readBad_asRead {v : Vol} {o : Order} {x : BufNo} (bs : List Byte) (check : BitVec 16)
    (h : o.bufferFor o.sector = some x) :
    v.readBad o (.asRead bs check)
      = v.setBuf x { v.buf x with data := bs.take 1024 ++ List.replicate (1024 - bs.length) 0 } := by
  unfold Vol.readBad
  rw [h, ← sectorOf_eq]
  rfl

theorem Vol.readBad_asStored {v : Vol} {o : Order} {x : BufNo} (h : o.bufferFor o.sector = some x) :
    v.readBad o .asStored
      = { v.setBuf x { v.buf x with data := (List.range 1024).map (Config.badField v.picks) } with
          picks := v.picks + 1 } := by
  unfold Vol.readBad
  rw [h]
  rfl

/-! ## Completed sectors and the boundary (R67 to R70, R91, R94, R95, R181) -/

theorem Vol.sectorCompleted_eq {v : Vol} {d : DriveNo} {x : Order} (b : Battery) (o : Order)
    (h : (v.drive d).sched.service = some x) :
    v.sectorCompleted b d o =
      (let w := (v.modSeq d (Sequencer.countSector o.tries)).modSched d (fun y => { y with service := some { x with
          progress := skipOver x.skip x.first 8 (x.progress + 1), tries := Tries.fresh,
          troubled := x.troubled ++ (if 1 < x.tries.attempt then [x.sector] else []) } })
       (if o.kind = .read then w.modReq o.req (fun q => { q with filled := q.filled + 1 }) else w).boundary b d) := by
  have hw : ((v.modSeq d (Sequencer.countSector o.tries)).drive d).sched.service = some x := by
    rw [Vol.drive_modSeq_self]
    exact h
  unfold Vol.sectorCompleted
  dsimp only
  rw [Vol.modService_eq _ hw]

/-- R181: how far the order goes on: past skipped sectors only, and to one that is not skipped unless its fuel runs out. -/
theorem skipOver_spec (skip : List Nat) (first : Nat) : ∀ fuel p : Nat,
    p ≤ skipOver skip first fuel p
      ∧ (∀ i, p ≤ i → i < skipOver skip first fuel p → first + i ∈ skip)
      ∧ (skipOver skip first fuel p < p + fuel → first + skipOver skip first fuel p ∉ skip)
  | 0, p => ⟨Nat.le_refl p, fun _ h₁ h₂ => absurd h₂ (Nat.not_lt.mpr h₁), fun h => absurd h (Nat.lt_irrefl p)⟩
  | fuel + 1, p => by
    obtain ⟨hle, hskip, hstop⟩ := skipOver_spec skip first fuel (p + 1)
    by_cases hp : first + p ∈ skip
    · have heq : skipOver skip first (fuel + 1) p = skipOver skip first fuel (p + 1) :=
        if_pos (List.contains_iff_mem.mpr hp)
      rw [heq]
      refine ⟨by omega, fun i h₁ h₂ => ?_, fun h => hstop (by omega)⟩
      rcases Nat.eq_or_lt_of_le h₁ with rfl | hlt
      · exact hp
      · exact hskip i hlt h₂
    · have heq : skipOver skip first (fuel + 1) p = p := if_neg (mt List.contains_iff_mem.mp hp)
      rw [heq]
      exact ⟨Nat.le_refl p, fun i h₁ h₂ => absurd h₂ (Nat.not_lt.mpr h₁), fun _ => hp⟩

theorem Vol.boundary_eq {v : Vol} {d : DriveNo} {o : Order} (b : Battery) (h : (v.drive d).sched.service = some o) :
    v.boundary b d = if v.endingOrder o then v.orderEnd b d .cancelled
      else if o.count ≤ o.progress then v.passEnd b d o
      else v.decidePending d o := by
  unfold Vol.boundary
  rw [h]

/-- R95: whether a write is verified: a CATALOG WRITE and a COPY's write always, a WRITE order's as the drive is set, in
mode 2 with enough retries counted. -/
theorem mustVerify_iff (b : Battery) (d : DriveNo) (x : Drive) (o : Order) :
    mustVerify b d x o = true ↔ o.kind = .catalogWrite ∨ o.kind = .copyWrite
      ∨ o.kind = .write ∧ ((b.settings.drives[d]).verify = 1
          ∨ (b.settings.drives[d]).verify = 2 ∧ 4 ≤ x.seq.retries) := by
  unfold mustVerify
  cases o.kind with
  | write =>
    simp only [Bool.or_eq_true, Bool.and_eq_true, beq_iff_eq, decide_eq_true_eq, reduceCtorEq, false_or, true_and]
    rfl
  | _ => simp

theorem Vol.passEnd_verifies {v : Vol} {d : DriveNo} {o : Order} (b : Battery)
    (hs : (v.drive d).sched.service = some o) (hp : o.pass = .write) (hm : mustVerify b d (v.drive d) o = true) :
    v.passEnd b d o = (v.modSched d (fun x =>
      { x with service := some { o with pass := .verify }, pending := false })).setPhase d
        (.verify (VerifyWork.begin o)) := by
  unfold Vol.passEnd
  rw [if_pos ⟨hp, hm⟩, Vol.modService_eq _ hs]
  unfold Vol.modSched
  rw [Vol.modDrive_modDrive]

theorem Vol.passEnd_done {v : Vol} {d : DriveNo} {o : Order} (b : Battery)
    (h : ¬ (o.pass = .write ∧ mustVerify b d (v.drive d) o = true)) : v.passEnd b d o = v.orderEnd b d .done := by
  unfold Vol.passEnd
  rw [if_neg h]

theorem Vol.decidePending_none {v : Vol} {d : DriveNo} (o : Order) (h : (v.drive d).sched.pending = false) :
    v.decidePending d o = v.setPhase d Phase.search := by
  unfold Vol.decidePending
  rw [if_pos (by rw [h]; rfl)]

theorem Vol.decidePending_lapses {v : Vol} {d : DriveNo} {o : Order} (h : (v.drive d).sched.pending = true)
    (hh : v.higherWaiting d o.cls = false) :
    v.decidePending d o = (v.modSched d (fun s => { s with pending := false })).setPhase d Phase.search := by
  unfold Vol.decidePending
  rw [if_neg (by rw [h]; decide), if_pos (by rw [hh]; rfl)]

theorem Vol.decidePending_pushes {v : Vol} {d : DriveNo} {o : Order} (h : (v.drive d).sched.pending = true)
    (hh : v.higherWaiting d o.cls = true) (hd : (v.drive d).sched.depth < 3) :
    v.decidePending d o = v.modDrive d Drive.push := by
  have hfree : (v.drive d).sched.depth < Config.stackSlots := hd
  unfold Vol.decidePending
  rw [if_neg (by rw [h]; decide), if_neg (by rw [hh]; decide), if_pos hfree]

theorem Vol.decidePending_full {v : Vol} {d : DriveNo} {o : Order} (h : (v.drive d).sched.pending = true)
    (hh : v.higherWaiting d o.cls = true) (hd : 3 ≤ (v.drive d).sched.depth) :
    v.decidePending d o = v.setPhase d Phase.search := by
  have hfull : ¬ (v.drive d).sched.depth < Config.stackSlots := Nat.not_lt.mpr hd
  unfold Vol.decidePending
  rw [if_neg (by rw [h]; decide), if_neg (by rw [hh]; decide), if_neg hfull]

theorem Drive.push_eq {x : Drive} {o : Order} (h : x.sched.service = some o) :
    x.push = { x with
      seq := { x.seq with job := .none, phase := .idle, recal := none, idleDue := true },
      sched := { x.sched with service := none, pending := false, stack := x.sched.stack ++ [{ o with tries := Tries.fresh }] } } := by
  unfold Drive.push
  rw [h]
  rfl

/-! ## LOADING and the invalidation unit (R11, R83) -/

theorem Vol.transferEnd_order {v : Vol} {d : DriveNo} {o : Order} (b : Battery) (f : FieldRead)
    (hj : (v.drive d).seq.job = .order) (hs : (v.drive d).sched.service = some o) :
    v.transferEnd b d f = v.orderTransferEnd b d o f := by
  unfold Vol.transferEnd
  rw [hj]
  dsimp only
  rw [hs]

theorem Vol.transferEnd_loading {v : Vol} {d : DriveNo} {l : LoadWork} (b : Battery) (f : FieldRead)
    (hj : (v.drive d).seq.job = .loading l) : v.transferEnd b d f = v.loadRead b d l f := by
  unfold Vol.transferEnd
  rw [hj]

theorem Vol.transferEnd_invalidate {v : Vol} {d : DriveNo} {u : UnitWork} (b : Battery) (f : FieldRead)
    (hj : (v.drive d).seq.job = .unit u) (hk : u.kind = .invalidate) :
    v.transferEnd b d f = (v.modDisk d (fun m => m.writeData 0 0 0 u.image)).invalidateEnd b d u := by
  unfold Vol.transferEnd
  rw [hj]
  dsimp only
  rw [hk]
  rfl

theorem Vol.sectorBoundary_transfer {v : Vol} {d : DriveNo} (b : Battery) (f : FieldRead)
    (h : (v.drive d).seq.phase = .transfer) : v.sectorBoundary b d f = v.transferEnd b d f := by
  unfold Vol.sectorBoundary
  rw [h]

/-! ## Units' passes (R12, R14, R183, R185) -/

theorem Vol.unitStops_iff (v : Vol) (u : UnitWork) :
    v.unitStops u = true ↔ ∃ q c, v.req u.req = some q ∧ q.copy = some c ∧ c.stop = true := by
  unfold Vol.unitStops
  cases v.req u.req with
  | none => simp
  | some q =>
    rw [Option.bind_some]
    cases hc : q.copy <;> simp [hc]

theorem Vol.unitStops_of_reqs {v w : Vol} (h : w.reqs = v.reqs) {u u' : UnitWork} (hu : u'.req = u.req) :
    w.unitStops u' = v.unitStops u := by
  unfold Vol.unitStops
  rw [Vol.req_of_reqs h, hu]

theorem Vol.unitOutcome_of_reqs {v w : Vol} (h : w.reqs = v.reqs) {u u' : UnitWork} (hu : u'.req = u.req) :
    w.unitOutcome u' = ((v.req u.req).bind Request.outcome).getD .cancelled := by
  unfold Vol.unitOutcome
  rw [Vol.req_of_reqs h, hu]
  cases v.req u.req <;> rfl

theorem Vol.unitSectorDone_write (b : Battery) (v : Vol) (d : DriveNo) (u : UnitWork) :
    v.unitSectorDone b d u false = if v.unitStops u then v.copyEnd b u.req (v.unitOutcome u) false
      else v.modSeq d (fun q => { q with
        job := .unit { u with todo := if u.todo = [] then u.sectors else u.todo },
        phase := .unitPass (decide (u.todo = [])) false }) := by
  unfold Vol.unitSectorDone Vol.setUnit Vol.setPhase
  simp only [Vol.modSeq_modSeq]
  by_cases ht : u.todo = []
  · rw [ht]
    rfl
  · have hleft : u.todo.isEmpty = false := by simp [ht]
    simp only [hleft, ht, Bool.not_false, if_true, if_false, decide_false]

theorem Vol.unitSectorDone_verify (b : Battery) (v : Vol) (d : DriveNo) (u : UnitWork) :
    v.unitSectorDone b d u true = if v.unitStops u then v.copyEnd b u.req (v.unitOutcome u) false
      else v.modSeq d (fun q => { q with
        phase := if u.todo = [] then .unitDone else .unitPass true false, job := .unit u }) := by
  unfold Vol.unitSectorDone Vol.setUnit Vol.setPhase
  simp only [Vol.modSeq_modSeq]
  cases u.todo with
  | nil => rfl
  | cons n rest => simp

theorem addFailed_true (n : Nat) (xs : List Nat) : addFailed true n xs = xs := rfl

theorem addFailed_false {n : Nat} {xs : List Nat} (h : n ∉ xs) : addFailed false n xs = xs ++ [n] := by
  unfold addFailed
  rw [if_neg (by simp [h])]

theorem addFailed_eq (ok : Bool) (n : Nat) (xs : List Nat) :
    addFailed ok n xs = if ok = true ∨ n ∈ xs then xs else xs ++ [n] := by
  unfold addFailed
  simp only [Bool.or_eq_true, List.contains_iff_mem]

theorem Vol.reqs_unitWrite (v : Vol) (d : DriveNo) (u : UnitWork) (found : Bool) (n : Nat) :
    (v.unitWrite d u found n).reqs = v.reqs := by
  have hwrite : ∀ f : Diskette → Diskette, (if found then v.modDisk d f else v).reqs = v.reqs := fun f => by
    split <;> rfl
  unfold Vol.unitWrite
  cases u.kind with
  | track i => rfl
  | _ => exact hwrite _

theorem Vol.unitWrite_track {v : Vol} {u : UnitWork} {i : Nat} (d : DriveNo) (found : Bool) (n : Nat)
    (h : u.kind = .track i) :
    v.unitWrite d u found n = v.modDisk d (fun m => m.format (trackPlace i).1 (trackPlace i).2 n) := by
  unfold Vol.unitWrite
  rw [h]
  rfl

theorem Vol.unitWrite_stored {v : Vol} {u : UnitWork} {half : Nat} (d : DriveNo) (found : Bool) (n : Nat)
    (h : u.kind = .catalog half ∨ u.kind = .label ∧ half = 0) :
    v.unitWrite d u found n = if found then v.modDisk d (fun m => m.writeData 0 half n u.image) else v := by
  unfold Vol.unitWrite
  rcases h with h | ⟨h, rfl⟩ <;> rw [h] <;> rfl

/-- What a sector of a unit's write pass comes to: the COPY ends where a discard has stopped it, else the pass goes on or
the verify pass begins. -/
theorem Vol.unitWriteEnd_cons {v : Vol} {u : UnitWork} {n : Nat} {rest : List Nat} (b : Battery) (d : DriveNo)
    (found : Bool) (h : u.todo = n :: rest) :
    v.unitWriteEnd b d u found = if v.unitStops u
      then (v.unitWrite d u found n).copyEnd b u.req (((v.req u.req).bind Request.outcome).getD .cancelled) false
      else (v.unitWrite d u found n).modSeq d (fun q => { q with
        job := .unit { u with failed := addFailed found n u.failed, todo := if rest = [] then u.sectors else rest },
        phase := .unitPass (decide (rest = [])) false }) := by
  unfold Vol.unitWriteEnd
  rw [h]
  dsimp only
  rw [Vol.unitSectorDone_write, Vol.unitStops_of_reqs (v.reqs_unitWrite d u found n) rfl,
    Vol.unitOutcome_of_reqs (v.reqs_unitWrite d u found n) rfl]
  rfl

theorem Vol.sectorBoundary_unit {v : Vol} {d : DriveNo} {found : Bool} {u : UnitWork} (b : Battery) (f : FieldRead)
    (hp : (v.drive d).seq.phase = .unitPass false found) (hj : (v.drive d).seq.job = .unit u)
    (h : u.kind.onTrack = false ∨ found = true) : v.sectorBoundary b d f = v.unitWriteEnd b d u found := by
  unfold Vol.sectorBoundary
  rw [hp]
  dsimp only
  unfold Vol.passWriteEnd
  rw [Sequencer.unit?_eq hj]
  dsimp only
  rw [if_neg (by rcases h with h | h <;> simp [h])]

theorem UnitKind.onTrack_stored {k : UnitKind} {half : Nat} (h : k = .catalog half ∨ k = .label ∧ half = 0) :
    k.onTrack = false := by
  rcases h with rfl | ⟨rfl, -⟩ <;> rfl

/-- Settles O44. -/
theorem sectorBoundariesEndTransfers : Obligations.SectorBoundariesEndTransfers := by
  have hexec : ∀ (s : State) (d : DriveNo) (f : FieldRead), s.vol.live = true →
      exec (.sectorBoundary d f) s = .next (s.finish (s.bat, s.vol.sectorBoundary s.bat d f)) :=
    fun s d f hlive => whenLive_live (fun b v => (b, v.sectorBoundary b d f)) hlive
  refine ⟨?_, ?_, ?_, ?_, ?_, ?_⟩
  · intro s d f hlive hp
    rw [hexec s d f hlive, Vol.sectorBoundary_transfer s.bat f hp]
    refine ⟨fun o hj hs => ?_, fun l hj => ?_, fun u hj hk => ?_⟩
    · rw [Vol.transferEnd_order s.bat f hj hs]
      refine ⟨fun hpass => ?_, fun hpass bs x hf hx => ?_, ?_⟩
      · rw [Vol.orderTransferEnd_write s.bat d f hpass]
      · rw [Vol.orderTransferEnd_good s.bat hpass hf hx]
      · intro hpass hf x hx fails
        simp only [fails]
        rw [Vol.orderTransferEnd_bad s.bat hpass hf]
        refine ⟨fun bs check hread => ?_, fun hstored => ⟨(List.range 1024).map (Config.badField s.vol.picks), ?_, ?_⟩⟩
        · rw [hread, Vol.readBad_asRead bs check hx]
        · rw [List.length_map, List.length_range]
        · rw [hstored, Vol.readBad_asStored hx]
    · rw [Vol.transferEnd_loading s.bat f hj]
      unfold Vol.loadRead
      refine ⟨fun bs hf => ?_, fun hf => ?_⟩ <;> rw [hf]
    · rw [Vol.transferEnd_invalidate s.bat f hj hk]
  · intro s d f found u n rest hlive hp hj ht ended
    have hends : u.kind.onTrack = false ∨ found = true → exec (.sectorBoundary d f) s
        = .next (s.finish (s.bat, s.vol.unitWriteEnd s.bat d u found)) := fun h => by
      rw [hexec s d f hlive, Vol.sectorBoundary_unit s.bat f hp hj h]
    refine ⟨?_, fun half hk => ⟨?_, ?_⟩⟩
    · rintro i hk rfl
      simp only [ended]
      rw [hends (.inr rfl), Vol.unitWriteEnd_cons s.bat d true ht, Vol.unitWrite_track d true n hk, addFailed_true]
    · rintro rfl
      simp only [ended]
      rw [hends (.inr rfl), Vol.unitWriteEnd_cons s.bat d true ht, Vol.unitWrite_stored d true n hk, addFailed_true,
        if_pos rfl]
    · rintro rfl hn
      simp only [ended]
      rw [hends (.inl (UnitKind.onTrack_stored hk)), Vol.unitWriteEnd_cons s.bat d false ht,
        Vol.unitWrite_stored d false n hk, addFailed_false hn, if_neg Bool.false_ne_true]
  · intro b v d o x hx w
    rw [Vol.sectorCompleted_eq b o hx, funext (Sequencer.countSector_eq o.tries)]
    rfl
  · exact fun skip first p => skipOver_spec skip first 8 p
  · intro b v d o hs higher search lapsed verified
    have hhigher : v.higherWaiting d o.cls = true ↔ higher := v.higherWaiting_iff d o.cls
    have hverified : mustVerify b d (v.drive d) o = true ↔ verified := mustVerify_iff b d (v.drive d) o
    rw [Vol.boundary_eq b hs]
    refine ⟨fun he => ?_, fun he hc hv => ?_, fun he hc hp hv => ?_, fun he hc => ?_⟩
    · rw [if_pos he]
    · rw [if_neg (by rw [he]; decide), if_pos hc, Vol.passEnd_done b (by rwa [hverified])]
    · rw [if_neg (by rw [he]; decide), if_pos hc, Vol.passEnd_verifies b hs hp (hverified.mpr hv)]
      rfl
    · rw [if_neg (by rw [he]; decide), if_neg (Nat.not_le.mpr hc)]
      refine ⟨fun hn => ?_, fun hpend hh => ?_, fun hpend hh hd => ?_, fun hpend hh hd => ?_⟩
      · rw [Vol.decidePending_none o hn]
        rfl
      · rw [Vol.decidePending_lapses hpend (Bool.not_eq_true _ ▸ mt hhigher.mp hh)]
        rfl
      · rw [Vol.decidePending_pushes hpend (hhigher.mpr hh) hd]
        exact Vol.modDrive_congr (Drive.push_eq hs)
      · rw [Vol.decidePending_full hpend (hhigher.mpr hh) hd]
        rfl
  · exact Vol.unitStops_iff

end Sys2Proof.Machine
end

section
/-! PROOFS. Verify passes: what a sector read back or rewritten comes to in an order's verify pass and in a unit's. -/

namespace Sys2Proof.Machine

/-! ## An order's verify pass (R95, R96) -/

theorem Vol.endingOrder_of_reqs {v w : Vol} (h : w.reqs = v.reqs) (o : Order) : w.endingOrder o = v.endingOrder o := by
  unfold Vol.endingOrder
  rw [Vol.req_of_reqs h]

/-- The volatile state with a sector of a verify pass done: rewritten where that was its work, and its trouble counted. -/
def Vol.sectorReworked (v : Vol) (d : DriveNo) (o : Order) (w : VerifyWork) (n : Nat) : Vol :=
  (if w.rewrite && w.found then v.modDisk d (fun m => m.writeData o.cyl o.side n (v.sectorData o n)) else v).modSeq d
    (w.countRewrite n)

/-- A verify pass with its sector at hand done, its field good or not. -/
def VerifyWork.sectorDone (w : VerifyWork) (n : Nat) (rest : List Nat) (good : Bool) : VerifyWork :=
  { w with found := false, todo := rest,
           failing := if w.rewrite || (w.found && good) then w.failing else w.failing ++ [n],
           troubled := if w.rewrite then w.troubled ++ [n] else w.troubled }

theorem Vol.reqs_sectorReworked (v : Vol) (d : DriveNo) (o : Order) (w : VerifyWork) (n : Nat) :
    (v.sectorReworked d o w n).reqs = v.reqs := by
  unfold Vol.sectorReworked
  split <;> rfl

theorem Vol.cable_sectorReworked {v : Vol} {d : DriveNo} {w : VerifyWork} (o : Order) (n : Nat) (h : w.rewrite = false) :
    ((v.sectorReworked d o w n).drive d).cable = (v.drive d).cable := by
  unfold Vol.sectorReworked
  rw [h, Bool.false_and, if_neg Bool.false_ne_true, Vol.drive_modSeq_self]

theorem VerifyWork.countRewrite_eq (w : VerifyWork) (n : Nat) (q : Sequencer) :
    w.countRewrite n q
      = if w.rewrite = true ∧ n ∉ w.troubled then { q with retries := min 255 (q.retries + 1) } else q := by
  unfold VerifyWork.countRewrite
  simp only [raiseRetries_eq, Bool.and_eq_true, Bool.not_eq_true', List.contains_eq_mem, decide_eq_false_iff_not]

/-- A rewrite does not look at the field read; a read-back leaves the diskette as it stands. -/
theorem Vol.verifyEnd_cons {v : Vol} {d : DriveNo} {o : Order} {w : VerifyWork} {n : Nat} {rest : List Nat} (b : Battery)
    (f : FieldRead) (ht : w.todo = n :: rest) :
    v.verifyEnd b d o w f =
      (let v' := v.sectorReworked d o w n
       let w' := w.sectorDone n rest ((v.drive d).cable.disk.readField o.cyl o.side n f).isSome
       if v.endingOrder o then (v'.suspectCut d o w').orderEnd b d .cancelled
       else if rest.isEmpty then v'.verifyRound b d o w'
       else v'.setPhase d (.verify w')) := by
  have hdone : w.sectorDone n rest (((v.sectorReworked d o w n).drive d).cable.disk.readField o.cyl o.side n f).isSome
      = w.sectorDone n rest ((v.drive d).cable.disk.readField o.cyl o.side n f).isSome := by
    cases hr : w.rewrite with
    | false => rw [Vol.cable_sectorReworked o n hr]
    | true =>
      unfold VerifyWork.sectorDone
      simp only [hr, Bool.true_or]
  have hending := Vol.endingOrder_of_reqs (v.reqs_sectorReworked d o w n) o
  dsimp only
  rw [← hdone, ← hending]
  unfold Vol.verifyEnd
  rw [ht]
  rfl

theorem Vol.verifyRound_rewrite {v : Vol} {w : VerifyWork} (b : Battery) (d : DriveNo) (o : Order) (h : w.rewrite = true) :
    v.verifyRound b d o w = v.setPhase d (.verify { w with
      rewrite := false, found := false, todo := w.failing, failing := [], writes := w.writes + 1 }) := by
  unfold Vol.verifyRound
  rw [if_pos h]

theorem Vol.verifyRound_clean {v : Vol} {w : VerifyWork} (b : Battery) (d : DriveNo) (o : Order) (h : w.rewrite = false)
    (hf : w.failing = []) : v.verifyRound b d o w = v.orderEnd b d .done := by
  unfold Vol.verifyRound
  rw [if_neg (by rw [h]; decide), if_pos (by rw [hf]; rfl)]

theorem Vol.verifyRound_again {v : Vol} {w : VerifyWork} (b : Battery) (d : DriveNo) (o : Order) (h : w.rewrite = false)
    (hf : w.failing ≠ []) (hw : w.writes < 3) :
    v.verifyRound b d o w = v.setPhase d (.verify { w with rewrite := true, found := false, todo := w.failing }) := by
  have hleft : ¬ Config.maxWrites ≤ w.writes := Nat.not_le.mpr hw
  unfold Vol.verifyRound
  rw [if_neg (by rw [h]; decide), if_neg (by simpa using hf), if_neg hleft]

theorem Vol.verifyRound_faults {v : Vol} {w : VerifyWork} (b : Battery) (d : DriveNo) (o : Order) (h : w.rewrite = false)
    (hf : w.failing ≠ []) (hw : 3 ≤ w.writes) :
    v.verifyRound b d o w = (v.suspect d o w.failing).orderEnd b d .writeFault := by
  have hspent : Config.maxWrites ≤ w.writes := hw
  unfold Vol.verifyRound
  rw [if_neg (by rw [h]; decide), if_neg (by simpa using hf), if_pos hspent]

theorem Vol.suspectCut_eq (v : Vol) (d : DriveNo) (o : Order) (w : VerifyWork) :
    v.suspectCut d o w = if w.rewrite = false ∧ 3 ≤ w.writes then v.suspect d o w.failing else v := by
  have hcut : (w.rewrite || decide (w.writes < Config.maxWrites)) = true ↔ ¬ (w.rewrite = false ∧ 3 ≤ w.writes) := by
    rw [Bool.or_eq_true, decide_eq_true_eq, not_and_or, Bool.not_eq_false, Nat.not_le]
    exact Iff.rfl
  unfold Vol.suspectCut
  rw [ite_cond_congr (propext hcut), ite_not]

/-! ## A unit's verify pass (R12, R14) -/

theorem Vol.reqs_labelFails (v : Vol) (d : DriveNo) (u : UnitWork) (n : Nat) : (v.labelFails d u n).reqs = v.reqs := by
  unfold Vol.labelFails
  split <;> rfl

theorem Vol.labelFails_eq (v : Vol) (d : DriveNo) (u : UnitWork) (n : Nat) :
    v.labelFails d u n = if u.kind = .label ∧ u.failed ≠ [] then v.modDisk d (fun m => m.spoilData 0 0 n) else v := by
  unfold Vol.labelFails
  split
  · next h =>
    rw [h.1]
    rfl
  · rfl

theorem Vol.unitVerifyEnd_cons {v : Vol} {d : DriveNo} {u : UnitWork} {n : Nat} {rest : List Nat} (b : Battery)
    (found : Bool) (f : FieldRead) (h : u.todo = n :: rest) :
    v.unitVerifyEnd b d u found f =
      (let ok := found && ((v.drive d).cable.disk.readField u.kind.place.1 u.kind.place.2 n f).isSome
       let u' := { u with todo := rest, failed := addFailed ok n u.failed }
       if v.unitStops u
       then (v.labelFails d u' n).copyEnd b u.req (((v.req u.req).bind Request.outcome).getD .cancelled) false
       else (v.labelFails d u' n).modSeq d (fun q =>
         { q with phase := if rest = [] then .unitDone else .unitPass true false, job := .unit u' })) := by
  unfold Vol.unitVerifyEnd
  rw [h]
  dsimp only
  rw [Vol.unitSectorDone_verify, Vol.unitStops_of_reqs (v.reqs_labelFails d _ n) rfl,
    Vol.unitOutcome_of_reqs (v.reqs_labelFails d _ n) rfl]
  rfl

theorem Vol.verifySectorEnd_order {v : Vol} {d : DriveNo} {w : VerifyWork} {o : Order} (b : Battery) (f : FieldRead)
    (hp : (v.drive d).seq.phase = .verify w) (hs : (v.drive d).sched.service = some o) :
    v.verifySectorEnd b d f = v.verifyEnd b d o w f := by
  unfold Vol.verifySectorEnd
  rw [hp]
  dsimp only
  rw [hs]

theorem Vol.verifySectorEnd_unit {v : Vol} {d : DriveNo} {found : Bool} {u : UnitWork} (b : Battery) (f : FieldRead)
    (hp : (v.drive d).seq.phase = .unitPass true found) (hj : (v.drive d).seq.job = .unit u) :
    v.verifySectorEnd b d f = v.unitVerifyEnd b d u found f := by
  unfold Vol.verifySectorEnd
  rw [hp]
  dsimp only
  rw [Sequencer.unit?_eq hj]

/-- Settles O46. -/
theorem verifySectorsAreCounted : Obligations.VerifySectorsAreCounted := by
  intro s d f hlive
  have hexec : exec (.verifySectorEnd d f) s = .next (s.finish (s.bat, s.vol.verifySectorEnd s.bat d f)) :=
    whenLive_live (fun b v => (b, v.verifySectorEnd b d f)) hlive
  refine ⟨?_, ?_⟩
  · intro w o n rest hp hs ht passed failing written v troubled suspects ends goes
    let w' : VerifyWork := { w with found := false, todo := rest, failing := failing, troubled := troubled }
    have hlast : rest = [] → rest.isEmpty = true := List.isEmpty_iff.mpr
    have hw : w.sectorDone n rest ((s.vol.drive d).cable.disk.readField o.cyl o.side n f).isSome
        = w' := rfl
    have hv : s.vol.sectorReworked d o w n = v := congrArg (written.modSeq d) (funext (w.countRewrite_eq n))
    have hends : ∀ x, s.vol.verifySectorEnd s.bat d f = x → ends x := fun x hx => by
      simp only [ends, hexec, hx]
    have hsus : v.suspect d o failing = suspects := rfl
    rw [Vol.verifySectorEnd_order s.bat f hp hs, Vol.verifyEnd_cons s.bat f ht, hw, hv] at hends
    refine ⟨fun he => ⟨fun hr => ?_, fun hr hrw => ?_, fun hr hrw hf => ?_, fun hr hrw hf hn => ?_,
      fun hr hrw hf hn => ?_⟩, fun he => ?_⟩
    · refine hends _ ?_
      dsimp only
      rw [if_neg (by rw [he]; decide), if_neg (mt List.isEmpty_iff.mp hr)]
      rfl
    · refine hends _ ?_
      have hfail : w'.failing = w.failing := if_pos (by rw [hrw]; rfl)
      dsimp only
      rw [if_neg (by rw [he]; decide), if_pos (hlast hr), Vol.verifyRound_rewrite (w := w') s.bat d o hrw, hfail]
      rfl
    · refine hends _ ?_
      dsimp only
      rw [if_neg (by rw [he]; decide), if_pos (hlast hr), Vol.verifyRound_clean (w := w') s.bat d o hrw hf]
    · refine hends _ ?_
      have htroubled : w'.troubled = w.troubled := if_neg (by rw [hrw]; decide)
      dsimp only
      rw [if_neg (by rw [he]; decide), if_pos (hlast hr), Vol.verifyRound_again (w := w') s.bat d o hrw hf hn, htroubled]
      rfl
    · refine hends _ ?_
      dsimp only
      rw [if_neg (by rw [he]; decide), if_pos (hlast hr), Vol.verifyRound_faults (w := w') s.bat d o hrw hf hn, hsus]
    · refine hends _ ?_
      dsimp only
      rw [if_pos he, Vol.suspectCut_eq, hsus]
  · intro found u n rest hp hj ht ok failed v
    have hv : s.vol.labelFails d { u with todo := rest, failed := failed } n = v := s.vol.labelFails_eq d _ n
    have hfailed : addFailed ok n u.failed = failed := addFailed_eq ok n u.failed
    rw [hexec, Vol.verifySectorEnd_unit s.bat f hp hj, Vol.unitVerifyEnd_cons s.bat found f ht]
    dsimp only
    rw [hfailed, hv]

end Sys2Proof.Machine
end

section
/-! PROOFS. The mirror built at the end of LOADING: the tests of a slot, the slots settled one after another, and the sets
of sectors. -/

namespace Sys2Proof.Machine

/-! ## Sets of sectors -/

theorem mem_insertSector (x y : Nat) : ∀ xs : List Nat, x ∈ insertSector xs y ↔ x ∈ xs ∨ x = y
  | [] => by simp [insertSector]
  | z :: zs => by
    unfold insertSector
    split
    · rw [List.mem_cons, or_comm]
    · split
      · next h =>
        rw [h]
        exact ⟨Or.inl, fun hx => hx.elim id (fun hx => List.mem_cons.mpr (Or.inl hx))⟩
      · rw [List.mem_cons, List.mem_cons, mem_insertSector x y zs, or_assoc]

theorem mem_addSectors (x : Nat) : ∀ (ys set : List Nat), x ∈ addSectors set ys ↔ x ∈ set ∨ x ∈ ys
  | [], set => by simp [addSectors]
  | y :: ys, set => by
    have hcons : addSectors set (y :: ys) = addSectors (insertSector set y) ys := rfl
    rw [hcons, mem_addSectors x ys, mem_insertSector, List.mem_cons, or_assoc]

/-! ## The sectors of extents (R9) -/

theorem Extent.sectors_eq (e : Extent) :
    e.sectors = (List.range e.count).map (fun k => dataIndex e.cyl e.side (e.first + k)) := by
  unfold Extent.sectors dataIndex
  simp only [Nat.add_assoc]

theorem extentSectors_eq (es : List Extent) : extentSectors es
    = es.flatMap (fun x => (List.range x.count).map (fun k => dataIndex x.cyl x.side (x.first + k))) :=
  congrArg (fun f => es.flatMap f) (funext Extent.sectors_eq)

theorem length_extentSectors (es : List Extent) : (extentSectors es).length = (es.map Extent.count).sum := by
  unfold extentSectors Extent.sectors
  rw [List.length_flatMap]
  simp only [List.length_map, List.length_range]

/-! ## The tests on a slot read as FILED (R21) -/

theorem noRepeat_iff_nodup : ∀ xs : List Nat, noRepeat xs = true ↔ xs.Nodup
  | [] => by simp [noRepeat]
  | x :: xs => by
    rw [noRepeat, Bool.and_eq_true, noRepeat_iff_nodup xs, List.nodup_cons, Bool.not_eq_true', List.contains_eq_mem,
      decide_eq_false_iff_not]

theorem slugChar_iff (c : Byte) : slugChar c = true ↔
    0x41 ≤ c.toNat ∧ c.toNat ≤ 0x5A ∨ 0x30 ≤ c.toNat ∧ c.toNat ≤ 0x39 ∨ c = 0x2D ∨ c = 0x20 := by
  have hdash : c.toNat = 0x2D ↔ c = 0x2D := ⟨fun h => BitVec.eq_of_toNat_eq h, fun h => congrArg BitVec.toNat h⟩
  have hspace : c.toNat = 0x20 ↔ c = 0x20 := ⟨fun h => BitVec.eq_of_toNat_eq h, fun h => congrArg BitVec.toNat h⟩
  unfold slugChar
  simp only [Bool.or_eq_true, Bool.and_eq_true, decide_eq_true_eq, beq_iff_eq, hdash, hspace, or_assoc]

theorem not_isBlank_iff (bs : List Byte) : isBlank bs = false ↔ ∃ c ∈ bs, c ≠ 0x20 := by
  unfold isBlank
  simp [List.all_eq_false]

theorem filedTests_iff (bads claimed : List Nat) (slugs : List (List Byte)) (s : RawSlot) :
    filedTests bads claimed slugs s = true ↔
      (∀ c ∈ s.image.slug, slugChar c = true) ∧ (∃ c ∈ s.image.slug, c ≠ 0x20) ∧ s.image.revision ≠ 0
        ∧ s.image.edition ≤ 8 ∧ s.extentCount ≤ 12 ∧ (∀ x ∈ s.image.extents, x.inRange = true)
        ∧ (s.image.extents.map Extent.count).sum = (s.image.length + 1023) / 1024
        ∧ (extentSectors s.image.extents).Nodup ∧ (∀ x ∈ extentSectors s.image.extents, x ∉ bads)
        ∧ (∀ x ∈ extentSectors s.image.extents, x ∉ claimed) ∧ s.image.slug ∉ slugs := by
  unfold filedTests sectorsFor
  simp only [Bool.and_eq_true, List.all_eq_true, Bool.not_eq_true', not_isBlank_iff, bne_iff_ne, decide_eq_true_eq,
    beq_iff_eq, noRepeat_iff_nodup, length_extentSectors, List.contains_eq_mem, decide_eq_false_iff_not, and_assoc,
    forall_and]

/-! ## The slots settled in ascending order (R21, R22) -/

/-- The images of the FILED entries among slots. -/
def filedImages (slots : List (Option Entry)) : List SlotImage :=
  slots.filterMap (fun o => o.bind (fun e => if e.image.state = .filed then some e.image else none))

theorem mem_filedImages (w : SlotImage) (slots : List (Option Entry)) :
    w ∈ filedImages slots ↔ ∃ e, some e ∈ slots ∧ e.image = w ∧ w.state = .filed := by
  unfold filedImages
  simp only [List.mem_filterMap, Option.bind_eq_some_iff, Option.ite_none_right_eq_some, Option.some.injEq]
  constructor
  · rintro ⟨_, ho, e, rfl, hf, rfl⟩
    exact ⟨e, ho, rfl, hf⟩
  · rintro ⟨e, he, rfl, hf⟩
    exact ⟨some e, he, e, rfl, hf, rfl⟩

/-- A FILED entry before a place, in the words of the statement. -/
theorem mem_filedImages_take (w : SlotImage) (slots : List (Option Entry)) (i : Nat) :
    w ∈ filedImages (slots.take i) ↔ ∃ j, j < i ∧ ∃ e, slots[j]? = some (some e) ∧ e.image = w ∧ w.state = .filed := by
  rw [mem_filedImages]
  simp only [List.mem_iff_getElem?, List.getElem?_take]
  constructor
  · rintro ⟨e, ⟨j, hj⟩, hw⟩
    by_cases hlt : j < i
    · rw [if_pos hlt] at hj
      exact ⟨j, hlt, e, hj, hw⟩
    · rw [if_neg hlt] at hj
      cases hj
  · rintro ⟨j, hlt, e, hj, hw⟩
    exact ⟨e, ⟨j, by rw [if_pos hlt, hj]⟩, hw⟩

theorem filedImages_cons (o : Option Entry) (slots : List (Option Entry)) :
    filedImages (o :: slots) = filedImages [o] ++ filedImages slots := by
  unfold filedImages
  rw [← List.filterMap_append, List.singleton_append]

theorem rawSlot_state (bs : List Byte) : (rawSlot bs).image.state = .damaged := rfl

theorem settleSlot_free {bads claimed : List Nat} {slugs : List (List Byte)} {bs : List Byte}
    (h : (rawSlot bs).stateByte = 0) :
    settleSlot bads claimed slugs bs = (Entry.ofImage SlotImage.freeImage, claimed, slugs) := by
  unfold settleSlot
  rw [if_pos h]

theorem settleSlot_filed {bads claimed : List Nat} {slugs : List (List Byte)} {bs : List Byte}
    (h : (rawSlot bs).stateByte = 1) (ht : filedTests bads claimed slugs (rawSlot bs) = true) :
    settleSlot bads claimed slugs bs = (Entry.ofImage { (rawSlot bs).image with state := .filed },
      extentSectors (rawSlot bs).image.extents ++ claimed, (rawSlot bs).image.slug :: slugs) := by
  unfold settleSlot
  dsimp only
  rw [if_neg (by rw [h]; decide), if_pos (by rw [h, ht]; rfl)]

theorem settleSlot_damaged {bads claimed : List Nat} {slugs : List (List Byte)} {bs : List Byte}
    (h : (rawSlot bs).stateByte ≠ 0)
    (ht : ¬ ((rawSlot bs).stateByte = 1 ∧ filedTests bads claimed slugs (rawSlot bs) = true)) :
    settleSlot bads claimed slugs bs = (Entry.ofImage (rawSlot bs).image, claimed, slugs) := by
  unfold settleSlot
  dsimp only
  rw [if_neg h, if_neg (by rwa [Bool.and_eq_true, decide_eq_true_eq])]

theorem filedImages_ofImage (w : SlotImage) :
    filedImages [some (Entry.ofImage w)] = if w.state = .filed then [w] else [] := by
  unfold filedImages Entry.ofImage
  by_cases h : w.state = .filed <;> simp [h]

/-- What a slot adds to the claims and the slugs are those of the entry it becomes, where that is FILED. -/
theorem settleSlot_adds (bads claimed : List Nat) (slugs : List (List Byte)) (bs : List Byte) :
    (∀ x, x ∈ (settleSlot bads claimed slugs bs).2.1 ↔ x ∈ claimed
        ∨ ∃ w ∈ filedImages [some (settleSlot bads claimed slugs bs).1], x ∈ extentSectors w.extents)
      ∧ (∀ g, g ∈ (settleSlot bads claimed slugs bs).2.2 ↔ g ∈ slugs
        ∨ ∃ w ∈ filedImages [some (settleSlot bads claimed slugs bs).1], w.slug = g) := by
  by_cases h0 : (rawSlot bs).stateByte = 0
  · rw [settleSlot_free h0, filedImages_ofImage, if_neg (by decide)]
    simp
  · by_cases ht : (rawSlot bs).stateByte = 1 ∧ filedTests bads claimed slugs (rawSlot bs) = true
    · rw [settleSlot_filed ht.1 ht.2, filedImages_ofImage, if_pos rfl]
      simp [or_comm, eq_comm]
    · rw [settleSlot_damaged h0 ht, filedImages_ofImage, if_neg (by rw [rawSlot_state]; decide)]
      simp

theorem settleSlots_cons_some (bads : List Nat) (bs : List Byte) (rest : List (Option (List Byte))) (claimed : List Nat)
    (slugs : List (List Byte)) :
    settleSlots bads (some bs :: rest) claimed slugs = some (settleSlot bads claimed slugs bs).1
      :: settleSlots bads rest (settleSlot bads claimed slugs bs).2.1 (settleSlot bads claimed slugs bs).2.2 := rfl

theorem length_settleSlots (bads : List Nat) : ∀ (raw : List (Option (List Byte))) (claimed : List Nat)
    (slugs : List (List Byte)), (settleSlots bads raw claimed slugs).length = raw.length
  | [], _, _ => rfl
  | none :: rest, claimed, slugs => congrArg (· + 1) (length_settleSlots bads rest claimed slugs)
  | some _ :: rest, _, _ => congrArg (· + 1) (length_settleSlots bads rest _ _)

theorem settleSlots_absent (bads : List Nat) : ∀ (raw : List (Option (List Byte))) (claimed : List Nat)
    (slugs : List (List Byte)) (i : Nat), raw[i]? = some none → (settleSlots bads raw claimed slugs)[i]? = some none
  | none :: _, _, _, 0, _ => rfl
  | none :: rest, claimed, slugs, i + 1, h => settleSlots_absent bads rest claimed slugs i h
  | some _ :: rest, _, _, i + 1, h => settleSlots_absent bads rest _ _ i h

/-- R21: each slot is settled against the claims and the slugs of the FILED entries before it, and those it began with. -/
theorem settleSlots_read (bads : List Nat) : ∀ (raw : List (Option (List Byte))) (claimed : List Nat)
    (slugs : List (List Byte)) (i : Nat) (bs : List Byte), raw[i]? = some (some bs) →
    ∃ cl sl, (settleSlots bads raw claimed slugs)[i]? = some (some (settleSlot bads cl sl bs).1)
      ∧ (∀ x, x ∈ cl ↔ x ∈ claimed
          ∨ ∃ w ∈ filedImages ((settleSlots bads raw claimed slugs).take i), x ∈ extentSectors w.extents)
      ∧ (∀ g, g ∈ sl ↔ g ∈ slugs
          ∨ ∃ w ∈ filedImages ((settleSlots bads raw claimed slugs).take i), w.slug = g)
  | some _ :: _, claimed, slugs, 0, bs, h => by
    obtain rfl := Option.some.inj (Option.some.inj h)
    exact ⟨claimed, slugs, rfl, by simp [filedImages], by simp [filedImages]⟩
  | none :: rest, claimed, slugs, i + 1, bs, h => settleSlots_read bads rest claimed slugs i bs h
  | some bs' :: rest, claimed, slugs, i + 1, bs, h => by
    obtain ⟨hclaims, hslugs⟩ := settleSlot_adds bads claimed slugs bs'
    obtain ⟨cl, sl, hget, hcl, hsl⟩ := settleSlots_read bads rest _ _ i bs h
    rw [settleSlots_cons_some, List.take_succ_cons, filedImages_cons]
    refine ⟨cl, sl, hget, fun x => ?_, fun g => ?_⟩
    · rw [hcl x, hclaims x, or_assoc]
      simp only [List.mem_append, or_and_right, exists_or]
    · rw [hsl g, hslugs g, or_assoc]
      simp only [List.mem_append, or_and_right, exists_or]

/-! ## The sectors of FILED and of DAMAGED entries (R22, R23) -/

theorem mem_filedSectors (x : Nat) (slots : List (Option Entry)) :
    x ∈ filedSectors slots ↔ ∃ (i : Nat) (w : SlotImage),
      (∃ e, slots[i]? = some (some e) ∧ e.image = w ∧ w.state = .filed) ∧ x ∈ extentSectors w.extents := by
  unfold filedSectors
  rw [List.mem_flatMap]
  constructor
  · rintro ⟨o, ho, hx⟩
    obtain ⟨i, hi⟩ := List.mem_iff_getElem?.mp ho
    cases o with
    | none => cases hx
    | some e =>
      dsimp only at hx
      split at hx
      · next hf => exact ⟨i, e.image, ⟨e, hi, rfl, hf⟩, hx⟩
      · cases hx
  · rintro ⟨i, w, ⟨e, hi, rfl, hf⟩, hx⟩
    refine ⟨some e, List.mem_of_getElem? hi, ?_⟩
    dsimp only
    rwa [if_pos hf]

theorem mem_damagedSectors (x : Nat) (slots : List (Option Entry)) :
    x ∈ damagedSectors slots ↔ ∃ (i : Nat) (e : Entry) (y : Extent), slots[i]? = some (some e)
      ∧ e.image.state = .damaged ∧ y ∈ e.image.extents ∧ y.inRange = true ∧ x ∈ y.sectors := by
  unfold damagedSectors
  rw [List.mem_flatMap]
  constructor
  · rintro ⟨o, ho, hx⟩
    obtain ⟨i, hi⟩ := List.mem_iff_getElem?.mp ho
    cases o with
    | none => cases hx
    | some e =>
      dsimp only at hx
      split at hx
      · next hd =>
        obtain ⟨y, hy, hxy⟩ := List.mem_flatMap.mp hx
        obtain ⟨hin, hrange⟩ := List.mem_filter.mp hy
        exact ⟨i, e, y, hi, hd, hin, hrange, hxy⟩
      · cases hx
  · rintro ⟨i, e, y, hi, hd, hin, hrange, hxy⟩
    refine ⟨some e, List.mem_of_getElem? hi, ?_⟩
    dsimp only
    rw [if_pos hd]
    exact List.mem_flatMap.mpr ⟨y, List.mem_filter.mpr ⟨hin, hrange⟩, hxy⟩

/-! ## The mirror's sets (R22, R23) -/

theorem mem_buildMirror_bad (lab : Label) (sectors : List (Option (List Byte))) (x : Nat) :
    x ∈ (buildMirror lab sectors).bad ↔ x ∈ lab.bads := by
  unfold buildMirror
  simp [mem_addSectors]

theorem mem_buildMirror_withheld (lab : Label) (sectors : List (Option (List Byte))) (x : Nat) :
    x ∈ (buildMirror lab sectors).withheld ↔ x ∈ damagedSectors (buildMirror lab sectors).slots ∧ x ∉ lab.bads
      ∧ x ∉ filedSectors (buildMirror lab sectors).slots := by
  unfold buildMirror
  simp [mem_addSectors]

theorem buildMirror_free (lab : Label) (sectors : List (Option (List Byte))) :
    (buildMirror lab sectors).free = (List.range 1216).filter (fun x => !(buildMirror lab sectors).bad.contains x
      && !(buildMirror lab sectors).withheld.contains x
      && !(filedSectors (buildMirror lab sectors).slots).contains x) := by
  unfold buildMirror
  dsimp only [Config.dataSectors]

theorem mem_buildMirror_free (lab : Label) (sectors : List (Option (List Byte))) (x : Nat) :
    x ∈ (buildMirror lab sectors).free ↔ x < 1216 ∧ x ∉ (buildMirror lab sectors).bad
      ∧ x ∉ (buildMirror lab sectors).withheld ∧ x ∉ filedSectors (buildMirror lab sectors).slots := by
  rw [buildMirror_free]
  simp only [List.mem_filter, List.mem_range, Bool.and_eq_true, Bool.not_eq_true', List.contains_eq_mem,
    decide_eq_false_iff_not, and_assoc]

end Sys2Proof.Machine
end

section
/-! PROOFS. The door and LOADING: how LOADING starts, what each of its reads is followed by, and the mirror it ends with. -/

namespace Sys2Proof.Machine

/-! ## The door and the start of LOADING (R80 to R83) -/

theorem Vol.doorLine_opens {v : Vol} {d : DriveNo} {closed : Bool} (h : (v.drive d).cable.doorClosed ≠ closed) :
    v.doorLine d closed none = v.modCable d (fun c => { c with doorClosed := closed }) := by
  unfold Vol.doorLine Vol.modCable
  refine Vol.modDrive_congr ?_
  unfold Cable.doorLine
  rw [if_neg h]

theorem Vol.doorLine_inserts {v : Vol} {d : DriveNo} {closed : Bool} (m : Diskette)
    (h : (v.drive d).cable.doorClosed ≠ closed) : v.doorLine d closed (some m)
      = v.modCable d (fun c => { c with doorClosed := closed, disk := m, protect := m.notch }) := by
  unfold Vol.doorLine Vol.modCable
  refine Vol.modDrive_congr ?_
  unfold Cable.doorLine
  rw [if_neg h]

/-- A drive's sequencer as it enters LOADING, before positioning is taken on. -/
def Sequencer.loads (protect : Bool) (q : Sequencer) : Sequencer :=
  { q with mount := .loading, retries := 0, writeProtected := protect, stall := true, cyl := none, recal := none,
           unload := none, idleDue := true, phase := .positioning, job := .loading LoadWork.begin }

theorem Vol.startLoading_eq (b : Battery) (v : Vol) (d : DriveNo) :
    v.startLoading b d = (v.modSeq d (Sequencer.loads (v.drive d).cable.protect)).go b d := by
  unfold Vol.go Vol.modSeq
  rw [Vol.modDrive_modDrive]
  exact Vol.modDrive_congr rfl

theorem Vol.doorCloses_starts {v : Vol} {d : DriveNo} (b : Battery) (hq : (v.drive d).seq.doorClosed = false)
    (hc : (v.drive d).cable.doorClosed = true) (hm : (v.drive d).seq.mount = .empty) :
    v.doorCloses b d = (v.modSeq d (fun q => { q with doorClosed := true })).startLoading b d := by
  unfold Vol.doorCloses
  rw [if_pos (by rw [hq, hc, hm]; rfl)]

/-! ## The reads of LOADING (R83, R84) -/

theorem Mirror.faulty_eq (m : Mirror) : m.faulty = m.slots.any (fun o => match o with
    | none => true
    | some e => e.image.state == .damaged) := by
  refine congrArg m.slots.any (funext fun o => ?_)
  cases o <;> rfl

theorem Vol.loadingEnd_ready (v : Vol) (d : DriveNo) (m : Mirror) :
    v.loadingEnd d .ready (some m)
      = ((v.modSeq d (fun q => { q with job := .none, phase := .idle, recal := none, idleDue := true })).modCat d (fun c =>
          { c with mirror := some m, fault := m.faulty })).changeMount d .ready := rfl

theorem Vol.loadingEnd_unformatted (v : Vol) (d : DriveNo) :
    v.loadingEnd d .unformatted none
      = ((v.modSeq d (fun q => { q with job := .none, phase := .idle, recal := none, idleDue := true })).modCat d (fun c =>
          { c with mirror := none, fault := false })).changeMount d .unformatted := rfl

theorem Vol.loadNext_next {v : Vol} {l : LoadWork} (b : Battery) (d : DriveNo) (h : l.sector < 15) :
    v.loadNext b d l = (v.setLoad d { l with sector := l.sector + 1, tries := Tries.fresh }).go b d := by
  unfold Vol.loadNext
  rw [if_pos h]

theorem Vol.loadNext_ready {v : Vol} {l : LoadWork} {lab : Label} (b : Battery) (d : DriveNo) (h : 15 ≤ l.sector)
    (hl : l.label = some lab) : v.loadNext b d l = v.loadingEnd d .ready (some (buildMirror lab l.catalog)) := by
  unfold Vol.loadNext
  rw [if_neg (Nat.not_lt.mpr h), hl]

theorem Vol.loadGood_noLabel {v : Vol} {l : LoadWork} {bs : List Byte} (b : Battery) (d : DriveNo) (h : l.sector = 0)
    (hb : parseLabel bs = none) :
    v.loadGood b d l bs = (v.modSeq d (Sequencer.countSector l.tries)).loadingEnd d .unformatted none := by
  unfold Vol.loadGood
  dsimp only
  rw [if_pos h, hb]

theorem Vol.loadGood_label {v : Vol} {l : LoadWork} {bs : List Byte} {lab : Label} (b : Battery) (d : DriveNo)
    (h : l.sector = 0) (hb : parseLabel bs = some lab) :
    v.loadGood b d l bs = (v.modSeq d (Sequencer.countSector l.tries)).loadNext b d { l with label := some lab } := by
  unfold Vol.loadGood
  dsimp only
  rw [if_pos h, hb]

theorem Vol.loadGood_catalog {v : Vol} {l : LoadWork} (b : Battery) (d : DriveNo) (bs : List Byte) (h : 0 < l.sector) :
    v.loadGood b d l bs = (v.modSeq d (Sequencer.countSector l.tries)).loadNext b d
      { l with catalog := l.catalog ++ [some bs] } := by
  unfold Vol.loadGood
  dsimp only
  rw [if_neg (Nat.ne_of_gt h)]

theorem Vol.loadFailed_label {v : Vol} {l : LoadWork} (b : Battery) (d : DriveNo) (bad mispositioned : Bool)
    (ha : 4 ≤ l.tries.attempt) (h : l.sector = 0) : v.loadFailed b d l bad mispositioned
      = (v.modSeq d (Sequencer.countSector l.tries)).loadingEnd d .unformatted none := by
  have hspent : Config.attempts ≤ l.tries.attempt := ha
  unfold Vol.loadFailed
  dsimp only
  rw [if_pos hspent, if_pos h]

theorem Vol.loadFailed_catalog {v : Vol} {l : LoadWork} (b : Battery) (d : DriveNo) (bad mispositioned : Bool)
    (ha : 4 ≤ l.tries.attempt) (h : 0 < l.sector) : v.loadFailed b d l bad mispositioned
      = ((v.modSeq d (Sequencer.countSector l.tries)).modCat d (fun c => { c with fault := true })).loadNext b d
          { l with catalog := l.catalog ++ [none] } := by
  have hspent : Config.attempts ≤ l.tries.attempt := ha
  unfold Vol.loadFailed
  dsimp only
  rw [if_pos hspent, if_neg (Nat.ne_of_gt h)]

/-- R92: short of four attempts LOADING makes another, the third after a recalibration. -/
theorem Vol.loadFailed_short {v : Vol} {l : LoadWork} (b : Battery) (d : DriveNo) (bad mispositioned : Bool)
    (ha : l.tries.attempt < 4) : v.loadFailed b d l bad mispositioned
      = if (l.tries.failed bad mispositioned).attempt = 3 then
          ((v.setLoad d { l with tries := { l.tries.failed bad mispositioned with recalBegun := true } }).modSeq d
            Sequencer.beginRecal).go b d
        else (v.setLoad d { l with tries := l.tries.failed bad mispositioned }).setPhase d Phase.search := by
  have hleft : ¬ Config.attempts ≤ l.tries.attempt := Nat.not_le.mpr ha
  unfold Vol.loadFailed
  dsimp only
  rw [if_neg hleft]

/-! ## The slots of the mirror built (R20 to R22) -/

/-- R21: the tests a slot read as FILED passes to be FILED at its place in a mirror. -/
def PassesAt (bads : List Nat) (slots : List (Option Entry)) (i : Nat) (s : RawSlot) : Prop :=
  (∀ c ∈ s.image.slug, slugChar c = true) ∧ (∃ c ∈ s.image.slug, c ≠ 0x20) ∧ s.image.revision ≠ 0
    ∧ s.image.edition ≤ 8 ∧ s.extentCount ≤ 12 ∧ (∀ x ∈ s.image.extents, x.inRange = true)
    ∧ (s.image.extents.map Extent.count).sum = (s.image.length + 1023) / 1024
    ∧ (extentSectors s.image.extents).Nodup ∧ (∀ x ∈ extentSectors s.image.extents, x ∉ bads)
    ∧ ∀ (j : Nat) (w : SlotImage), j < i → (∃ e, slots[j]? = some (some e) ∧ e.image = w ∧ w.state = .filed) →
        w.slug ≠ s.image.slug ∧ ∀ x ∈ extentSectors s.image.extents, x ∉ extentSectors w.extents

theorem filedTests_iff_passesAt {bads cl : List Nat} {sl : List (List Byte)} {slots : List (Option Entry)} {i : Nat}
    (s : RawSlot) (hcl : ∀ x, x ∈ cl ↔ ∃ w ∈ filedImages (slots.take i), x ∈ extentSectors w.extents)
    (hsl : ∀ g, g ∈ sl ↔ ∃ w ∈ filedImages (slots.take i), w.slug = g) :
    filedTests bads cl sl s = true ↔ PassesAt bads slots i s := by
  have hearlier : ((∀ x ∈ extentSectors s.image.extents, x ∉ cl) ∧ s.image.slug ∉ sl) ↔
      ∀ (j : Nat) (w : SlotImage), j < i → (∃ e, slots[j]? = some (some e) ∧ e.image = w ∧ w.state = .filed) →
        w.slug ≠ s.image.slug ∧ ∀ x ∈ extentSectors s.image.extents, x ∉ extentSectors w.extents := by
    simp only [hcl, hsl, mem_filedImages_take]
    constructor
    · rintro ⟨hclaims, hslugs⟩ j w hj hw
      exact ⟨fun h => hslugs ⟨w, ⟨j, hj, hw⟩, h⟩, fun x hx hmem => hclaims x hx ⟨w, ⟨j, hj, hw⟩, hmem⟩⟩
    · intro h
      exact ⟨fun x hx ⟨w, ⟨j, hj, hw⟩, hmem⟩ => (h j w hj hw).2 x hx hmem,
        fun ⟨w, ⟨j, hj, hw⟩, hg⟩ => (h j w hj hw).1 hg⟩
  rw [filedTests_iff, hearlier]
  rfl

theorem buildMirror_slots (lab : Label) (sectors : List (Option (List Byte))) :
    (buildMirror lab sectors).slots = settleSlots lab.bads (sectors.flatMap slotsOfSector) [] [] := rfl

theorem buildMirror_slot_read {lab : Label} {sectors : List (Option (List Byte))} {i : Nat} {bs : List Byte}
    (h : (sectors.flatMap slotsOfSector)[i]? = some (some bs)) :
    ∃ w, (buildMirror lab sectors).slots[i]? = some (some (Entry.ofImage w))
      ∧ ((rawSlot bs).stateByte = 0 → w = SlotImage.freeImage)
      ∧ ((rawSlot bs).stateByte = 1 → PassesAt lab.bads (buildMirror lab sectors).slots i (rawSlot bs) →
          w = { (rawSlot bs).image with state := .filed })
      ∧ ((rawSlot bs).stateByte ≠ 0 →
          ¬ ((rawSlot bs).stateByte = 1 ∧ PassesAt lab.bads (buildMirror lab sectors).slots i (rawSlot bs)) →
          w = (rawSlot bs).image) := by
  obtain ⟨cl, sl, hget, hcl, hsl⟩ := settleSlots_read lab.bads _ [] [] i bs h
  rw [← buildMirror_slots] at hget hcl hsl
  simp only [List.not_mem_nil, false_or] at hcl hsl
  rw [← filedTests_iff_passesAt (rawSlot bs) hcl hsl]
  by_cases h0 : (rawSlot bs).stateByte = 0
  · rw [settleSlot_free h0] at hget
    exact ⟨_, hget, fun _ => rfl, fun h1 => absurd (h0.symm.trans h1) (by decide), fun hn => absurd h0 hn⟩
  · by_cases ht : (rawSlot bs).stateByte = 1 ∧ filedTests lab.bads cl sl (rawSlot bs) = true
    · rw [settleSlot_filed ht.1 ht.2] at hget
      exact ⟨_, hget, fun hz => absurd hz h0, fun _ _ => rfl, fun _ hn => absurd ht hn⟩
    · rw [settleSlot_damaged h0 ht] at hget
      exact ⟨_, hget, fun hz => absurd hz h0, fun h1 hp => absurd ⟨h1, hp⟩ ht, fun _ _ => rfl⟩

theorem slotsOfSector_eq : slotsOfSector = fun o => match o with
    | none => List.replicate 16 none
    | some bs => (List.range 16).map (fun i => some ((bs.drop (64 * i)).take 64)) := by
  funext o
  cases o <;> rfl

/-- Settles O41. -/
theorem doorsAndLoading : Obligations.DoorsAndLoading := by
  refine ⟨?_, ?_, ?_, ?_, ?_⟩
  · intro s d closed
    refine ⟨fun h => ⟨?_, fun m => ?_⟩, fun hlive hq hc hm => ?_⟩
    · rw [← Vol.doorLine_opens h]
      rfl
    · rw [← Vol.doorLine_inserts m h]
      rfl
    · have hexec : exec (.doorClosing d) s = .next (s.finish (s.bat, s.vol.doorCloses s.bat d)) :=
        whenLive_live (fun b v => (b, v.doorCloses b d)) hlive
      rw [hexec, Vol.doorCloses_starts s.bat hq hc hm, Vol.startLoading_eq, Vol.drive_modSeq_self, Vol.modSeq_modSeq]
      rfl
  · intro b v d
    rw [Vol.startLoading_eq]
    rfl
  · intro v d m
    rfl
  · intro b v d l fresh counted ends noLabel ready nextSector
    have hcounted : v.modSeq d (Sequencer.countSector l.tries) = counted :=
      congrArg (v.modSeq d) (funext (Sequencer.countSector_eq l.tries))
    have hready : ∀ w m, Vol.loadingEnd d .ready (some m) w = ready w m := fun w m =>
      (Vol.loadingEnd_ready w d m).trans (congrArg (ends w .ready (some m)) (Mirror.faulty_eq m))
    have hlast : ∀ w (l : LoadWork) lab, 15 ≤ l.sector → l.label = some lab →
        Vol.loadNext b d l w = ready w (buildMirror lab l.catalog) := fun w l lab h hl => by
      rw [Vol.loadNext_ready b d h hl, hready]
    have hnone : counted.loadingEnd d .unformatted none = noLabel := Vol.loadingEnd_unformatted counted d
    have hnext : ∀ w (l : LoadWork), l.sector < 15 → Vol.loadNext b d l w = nextSector w l := fun w l h =>
      Vol.loadNext_next b d h
    refine ⟨fun bs h hb => ?_, fun bs lab h hb => ?_, fun bs h hl => ?_, fun bs lab h hl => ?_, ?_, ?_⟩
    · rw [Vol.loadGood_noLabel b d h hb, hcounted, hnone]
    · rw [Vol.loadGood_label b d h hb, hcounted]
      exact hnext _ _ (by dsimp only; omega)
    · rw [Vol.loadGood_catalog b d bs h, hcounted]
      exact hnext _ _ hl
    · rw [Vol.loadGood_catalog b d bs (by omega), hcounted]
      exact hlast _ _ lab h hl
    · intro bad mispositioned ha faulted
      refine ⟨fun h => ?_, fun h hl => ?_, fun lab h hl => ?_⟩
      · rw [Vol.loadFailed_label b d bad mispositioned ha h, hcounted, hnone]
      · rw [Vol.loadFailed_catalog b d bad mispositioned ha h, hcounted]
        exact hnext _ _ hl
      · rw [Vol.loadFailed_catalog b d bad mispositioned ha (by omega), hcounted]
        exact hlast _ _ lab h hl
    · intro bad mispositioned ha t
      have ht : l.tries.failed bad mispositioned = t := rfl
      refine ⟨fun h3 => ?_, fun h3 => ?_⟩
      · rw [Vol.loadFailed_short b d bad mispositioned ha, ht, if_pos h3, Vol.setLoad, Vol.modSeq_modSeq]
        rfl
      · rw [Vol.loadFailed_short b d bad mispositioned ha, ht, if_neg h3, Vol.setLoad, Vol.setPhase, Vol.modSeq_modSeq]
        rfl
  · intro lab sectors m raw inRange lies filed claimed
    have hraw : sectors.flatMap slotsOfSector = raw := congrArg sectors.flatMap slotsOfSector_eq
    have hslots : m.slots = settleSlots lab.bads raw [] [] := by rw [← hraw, ← buildMirror_slots]
    have hlies : ∀ x : Extent, x.sectors = lies x := Extent.sectors_eq
    have hextents : ∀ es, extentSectors es = es.flatMap lies := extentSectors_eq
    have hrange : ∀ x : Extent, x.inRange = true ↔ inRange x := Extent.inRange_iff
    have hclaimed : ∀ x, x ∈ filedSectors m.slots ↔ claimed x := fun x => by
      rw [mem_filedSectors]
      simp only [hextents]
      rfl
    refine ⟨rfl, rfl, ?_, fun i h => ?_, fun i bs h => ?_, mem_buildMirror_bad lab sectors, fun x => ?_, fun x => ?_, ?_⟩
    · rw [hslots, length_settleSlots]
    · rw [hslots]
      exact settleSlots_absent lab.bads raw [] [] i h
    · intro at' read xs passes
      have hpasses : PassesAt lab.bads m.slots i (rawSlot bs) ↔ passes := by
        unfold PassesAt
        simp only [slugChar_iff, hrange, hextents]
        rfl
      rw [← hraw] at h
      obtain ⟨w, hw, h0, h1, h2⟩ := buildMirror_slot_read (lab := lab) h
      exact ⟨w, hw, h0, fun hs hp => h1 hs (hpasses.mpr hp), fun hs hn => h2 hs (by rwa [hpasses])⟩
    · rw [mem_buildMirror_withheld, hclaimed, mem_damagedSectors]
      simp only [hrange, hlies]
      rfl
    · rw [mem_buildMirror_free, hclaimed]
    · rw [buildMirror_free]
      exact List.Pairwise.filter _ List.pairwise_lt_range

end Sys2Proof.Machine
end

section
/-! PROOFS. What the requests that end in a discard leave alone: the other requests, the line ports, and the drive whose
work is gone. -/

namespace Sys2Proof.Machine

/-! ## The frame of one request's end -/

/-- A drive as a discard leaves it: no order and no cursor, no mirror, and no destination of a COPY. -/
def Drive.Vacant (x : Drive) : Prop :=
  x.sched.queue = [] ∧ x.sched.service = none ∧ x.sched.stack = [] ∧ x.sched.cursor = none ∧ x.cat.mirror = none
    ∧ x.seq.mount ≠ .receiving

/-- A drive but for its cable and its copy-source condition. -/
def Drive.SameWork (x y : Drive) : Prop :=
  y.seq = x.seq ∧ y.sched = x.sched ∧ y.cat.mirror = x.cat.mirror ∧ y.cat.fault = x.cat.fault

theorem Drive.SameWork.refl (x : Drive) : x.SameWork x := ⟨rfl, rfl, rfl, rfl⟩

theorem Drive.SameWork.trans {x y z : Drive} (h : x.SameWork y) (g : y.SameWork z) : x.SameWork z :=
  ⟨g.1.trans h.1, g.2.1.trans h.2.1, g.2.2.1.trans h.2.2.1, g.2.2.2.trans h.2.2.2⟩

theorem Drive.Vacant.of_sameWork {x y : Drive} (hv : x.Vacant) (h : x.SameWork y) : y.Vacant := by
  obtain ⟨hseq, hsched, hmirror, -⟩ := h
  unfold Drive.Vacant
  rw [hseq, hsched, hmirror]
  exact hv

/-- A change that touches no request but those of a list, no port, brings no record back to a drive, and leaves that
drive's work as it is once a discard has taken it. -/
structure LeavesOthers (d : DriveNo) (rs : List ReqId) (v w : Vol) : Prop where
  ports : w.ports = v.ports
  reqs : ∀ j, j ∉ rs → w.req j = v.req j
  records : ∀ k, (v.record k).onDrive d = false → (w.record k).onDrive d = false
  drive : (v.drive d).Vacant → (v.drive d).SameWork (w.drive d)

theorem LeavesOthers.refl (d : DriveNo) (rs : List ReqId) (v : Vol) : LeavesOthers d rs v v :=
  ⟨rfl, fun _ _ => rfl, fun _ h => h, fun _ => Drive.SameWork.refl _⟩

theorem LeavesOthers.trans {d : DriveNo} {rs : List ReqId} {u v w : Vol} (h : LeavesOthers d rs u v)
    (g : LeavesOthers d rs v w) : LeavesOthers d rs u w :=
  ⟨g.ports.trans h.ports, fun j hj => (g.reqs j hj).trans (h.reqs j hj), fun k hk => g.records k (h.records k hk),
    fun hv => (h.drive hv).trans (g.drive (hv.of_sameWork (h.drive hv)))⟩

theorem LeavesOthers.mono {d : DriveNo} {rs rs' : List ReqId} {v w : Vol} (h : LeavesOthers d rs v w)
    (hs : ∀ r ∈ rs, r ∈ rs') : LeavesOthers d rs' v w :=
  ⟨h.ports, fun j hj => h.reqs j (fun hr => hj (hs j hr)), h.records, h.drive⟩

/-! ## The frame of each operation -/

section
variable (d : DriveNo) (r : ReqId) (v : Vol)

theorem leavesOthers_setReq (q : Option Request) : LeavesOthers d [r] v (v.setReq r q) :=
  ⟨rfl, fun j hj => Vol.req_setReq_ne v r j q (fun h => hj (List.mem_singleton.mpr h)), fun _ h => h,
    fun _ => Drive.SameWork.refl _⟩

theorem leavesOthers_modReq (f : Request → Request) : LeavesOthers d [r] v (v.modReq r f) :=
  leavesOthers_setReq d r v _

theorem leavesOthers_setRecord (k : RecNo) (x : Retired)
    (h : (v.record k).onDrive d = false → x.onDrive d = false) : LeavesOthers d [r] v (v.setRecord k x) := by
  refine ⟨rfl, fun _ _ => rfl, fun j hj => ?_, fun _ => Drive.SameWork.refl _⟩
  by_cases hjk : j = k
  · subst hjk
    rw [Vol.record_setRecord_self]
    exact h hj
  · rwa [Vol.record_setRecord_ne _ _ _ _ hjk]

theorem leavesOthers_modDrive (e : DriveNo) (f : Drive → Drive)
    (h : e = d → (v.drive d).Vacant → (v.drive d).SameWork (f (v.drive d))) : LeavesOthers d [r] v (v.modDrive e f) := by
  refine ⟨rfl, fun _ _ => rfl, fun _ hk => hk, fun hv => ?_⟩
  by_cases he : e = d
  · subst he
    rw [Vol.drive_modDrive_self]
    exact h rfl hv
  · rw [Vol.drive_modDrive_ne _ _ _ _ (Ne.symm he)]
    exact Drive.SameWork.refl _

theorem leavesOthers_modMirror (e : DriveNo) (f : Mirror → Mirror) : LeavesOthers d [r] v (v.modMirror e f) := by
  unfold Vol.modMirror Vol.modCat
  refine leavesOthers_modDrive d r v e _ (fun _ hv => ?_)
  obtain ⟨-, -, -, -, hmirror, -⟩ := hv
  refine ⟨rfl, rfl, ?_, rfl⟩
  dsimp only
  rw [hmirror]
  rfl

theorem leavesOthers_modEntry (e : DriveNo) (i : Nat) (f : Entry → Entry) : LeavesOthers d [r] v (v.modEntry e i f) :=
  leavesOthers_modMirror d r v e _

theorem leavesOthers_releaseVersion (e : DriveNo) (x : VersionRef) : LeavesOthers d [r] v (v.releaseVersion e x) := by
  unfold Vol.releaseVersion
  cases x with
  | entry i => exact leavesOthers_modEntry d r v e i _
  | record k =>
    dsimp only
    cases hx : v.record k with
    | free => exact LeavesOthers.refl d [r] v
    | claimed _ _ => exact LeavesOthers.refl d [r] v
    | inUse c xs n =>
      dsimp only
      split
      · exact (leavesOthers_setRecord d r v k .free (fun _ => rfl)).trans (leavesOthers_modMirror d r _ c _)
      · refine leavesOthers_setRecord d r v k _ (fun h => ?_)
        rw [hx] at h
        exact h

theorem leavesOthers_releaseReader : LeavesOthers d [r] v (v.releaseReader r) := by
  unfold Vol.releaseReader
  cases v.req r with
  | none => exact LeavesOthers.refl d [r] v
  | some q =>
    dsimp only
    cases q.version with
    | none => exact LeavesOthers.refl d [r] v
    | some x => exact (leavesOthers_releaseVersion d r v q.drive x).trans (leavesOthers_modReq d r _ _)

theorem leavesOthers_dropDraw (q : Request) (oc : OutcomeCode) : LeavesOthers d [r] v (v.dropDraw r q oc) := by
  unfold Vol.dropDraw
  split
  · exact leavesOthers_modEntry d r v _ _ _
  · exact LeavesOthers.refl d [r] v

theorem leavesOthers_dropFiling (q : Request) : LeavesOthers d [r] v (v.dropFiling r q) := by
  unfold Vol.dropFiling
  cases q.session with
  | none => exact LeavesOthers.refl d [r] v
  | some ses => exact (leavesOthers_modMirror d r v _ _).trans (leavesOthers_modEntry d r _ _ _ _)

theorem leavesOthers_dropSpike (q : Request) : LeavesOthers d [r] v (v.dropSpike r q) := by
  unfold Vol.dropSpike
  split
  · exact leavesOthers_modEntry d r v _ _ _
  · exact LeavesOthers.refl d [r] v

theorem leavesOthers_setPool (p : Vector Buffer 40) : LeavesOthers d [r] v { v with pool := p } :=
  ⟨rfl, fun _ _ => rfl, fun _ h => h, fun _ => Drive.SameWork.refl _⟩

theorem leavesOthers_returnAll : LeavesOthers d [r] v (v.returnAll r) := by
  rw [Vol.returnAll_eq]
  exact leavesOthers_setPool d r v _

theorem leavesOthers_letGo (oc : OutcomeCode) : LeavesOthers d [r] v (v.letGo r oc) := by
  cases hq : v.req r with
  | none =>
    unfold Vol.letGo
    rw [hq]
    exact LeavesOthers.refl d [r] v
  | some q =>
    rw [Vol.letGo_eq oc hq]
    refine (leavesOthers_releaseReader d r v).trans ?_
    refine (leavesOthers_dropDraw d r _ q oc).trans ?_
    refine (leavesOthers_dropFiling d r _ q).trans ?_
    exact (leavesOthers_dropSpike d r _ q).trans (leavesOthers_returnAll d r _)

theorem leavesOthers_finish (oc : OutcomeCode) (data : List Byte) (direct : Bool) :
    LeavesOthers d [r] v (v.finish r oc data direct) := by
  cases hq : v.req r with
  | none =>
    unfold Vol.finish
    rw [hq]
    exact LeavesOthers.refl d [r] v
  | some q =>
    cases hs : q.silent with
    | false =>
      rw [Vol.finish_heard oc data direct hq hs]
      obtain ⟨hports, hreqs, hrecords, hdrive⟩ := (leavesOthers_letGo d r v oc).trans
        (leavesOthers_modReq d r _ (fun p => p.ended oc data direct v.stamp))
      exact ⟨hports, hreqs, hrecords, hdrive⟩
    | true =>
      rw [Vol.finish_silent oc data direct hq hs]
      exact (leavesOthers_letGo d r v oc).trans (leavesOthers_setReq d r _ none)

theorem leavesOthers_releaseSource (e : DriveNo) : LeavesOthers d [r] v (v.releaseSource e) := by
  unfold Vol.releaseSource Vol.modSched Vol.modCat
  refine (leavesOthers_modDrive d r v e _ (fun _ hv => ?_)).trans
    (leavesOthers_modDrive d r _ e _ (fun _ _ => ⟨rfl, rfl, rfl, rfl⟩))
  obtain ⟨-, -, -, hcursor, -, -⟩ := hv
  refine ⟨rfl, ?_, rfl, rfl⟩
  dsimp only
  rw [← hcursor]

theorem Drive.takeOut_vacant {x : Drive} (h : x.Vacant) : (x.takeOut r).1 = x := by
  obtain ⟨hqueue, hservice, hstack, -⟩ := h
  have hfilter : ∀ (p : Order → Bool) (l : List Order), l = [] → l.filter p = l := fun p l h => by
    rw [h, List.filter_nil]
  rw [Drive.takeOut_other (fun o ho => absurd (hservice.symm.trans ho) (by simp)), hfilter _ _ hqueue, hfilter _ _ hstack]

theorem leavesOthers_takeOut (e f : DriveNo) : LeavesOthers d [r] v (v.takeOut r e f).1 := by
  have hone : ∀ (w : Vol) (g : DriveNo), LeavesOthers d [r] w (w.modDrive g (fun _ => ((w.drive g).takeOut r).1)) :=
    fun w g => leavesOthers_modDrive d r w g _ (fun hg hv => by
      rw [hg, Drive.takeOut_vacant r hv]
      exact Drive.SameWork.refl _)
  by_cases h : e = f
  · subst h
    rw [Vol.takeOut_same]
    exact hone v e
  · have hf := hone (v.modDrive e (fun _ => ((v.drive e).takeOut r).1)) f
    rw [Vol.drive_modDrive_ne _ _ _ _ (Ne.symm h)] at hf
    rw [Vol.takeOut_two v r h]
    exact (hone v e).trans hf

/-- R185: only a destination still in RECEIVING reloads; a drive whose work a discard has taken is not in it. -/
theorem leavesOthers_reloads (b : Battery) {e : DriveNo} (h : v.mount e = .receiving) :
    LeavesOthers d [r] v ((v.modSeq e Sequencer.letGo).startLoading b e) := by
  have habsurd : e = d → ¬ (v.drive d).Vacant := by
    rintro rfl ⟨-, -, -, -, -, hmount⟩
    exact hmount h
  have hboth : (v.modSeq e Sequencer.letGo).startLoading b e
      = v.modDrive e (fun x => Drive.startLoading (b.timing e) { x with seq := x.seq.letGo }) := by
    unfold Vol.startLoading Vol.modSeq Vol.modDrive
    simp only [Vector.getElem_set_self, Vector.set_set, Fin.getElem_fin]
  rw [hboth]
  exact leavesOthers_modDrive d r v e _ (fun he hv => absurd hv (habsurd he))

theorem leavesOthers_copyEnd (b : Battery) (oc : OutcomeCode) (direct : Bool) :
    LeavesOthers d [r] v (v.copyEnd b r oc direct) := by
  have hreload : ∀ (w : Vol) (e : DriveNo) (c : Bool), LeavesOthers d [r] w
      (if c && w.mount e == .receiving then (w.modSeq e Sequencer.letGo).startLoading b e else w) := fun w e c => by
    split
    · next h => exact leavesOthers_reloads d r w b (beq_iff_eq.mp (Bool.and_eq_true_iff.mp h).2)
    · exact LeavesOthers.refl d [r] w
  have hsource : ∀ (e : DriveNo) (c : Bool), LeavesOthers d [r] v (if c then v.releaseSource e else v) := fun e c => by
    split
    · exact leavesOthers_releaseSource d r v e
    · exact LeavesOthers.refl d [r] v
  unfold Vol.copyEnd
  cases v.req r with
  | none => exact LeavesOthers.refl d [r] v
  | some q => exact ((hsource q.drive _).trans (leavesOthers_finish d r _ oc [] direct)).trans (hreload _ q.dest _)

theorem leavesOthers_copyStops (b : Battery) (oc : OutcomeCode) (direct : Bool) :
    LeavesOthers d [r] v (v.copyStops b r oc direct) := by
  unfold Vol.copyStops
  cases v.req r with
  | none => exact LeavesOthers.refl d [r] v
  | some q =>
    dsimp only
    refine (leavesOthers_takeOut d r v q.drive q.dest).trans ?_
    split
    · exact leavesOthers_copyEnd d r _ b oc direct
    · exact leavesOthers_modReq d r _ _

theorem leavesOthers_copyLingers (q : Request) (oc : OutcomeCode) : LeavesOthers d [r] v (v.copyLingers r q oc) := by
  unfold Vol.copyLingers
  split
  · exact LeavesOthers.refl d [r] v
  · exact leavesOthers_modReq d r v _

theorem leavesOthers_stopCatalogUnit (b : Battery) (q : Request) (oc : OutcomeCode) :
    LeavesOthers d [r] v (v.stopCatalogUnit b r q oc) := by
  unfold Vol.stopCatalogUnit
  dsimp only
  refine (leavesOthers_copyLingers d r v q oc).trans ?_
  refine (leavesOthers_modReq d r _ (fun q => { q with copy := q.copy.map (fun c => { c with stop := true }) })).trans ?_
  split
  · exact LeavesOthers.refl d [r] _
  · split
    · exact LeavesOthers.refl d [r] _
    · exact leavesOthers_copyEnd d r _ b _ false

theorem leavesOthers_discardCopy (b : Battery) (q : Request) (held : Bool) (oc : OutcomeCode) :
    LeavesOthers d [r] v (v.discardCopy b r q held oc) := by
  unfold Vol.discardCopy
  split
  · exact leavesOthers_copyEnd d r v b oc false
  · split
    · next u _ =>
      cases u.kind with
      | catalog half => exact leavesOthers_stopCatalogUnit d r v b q oc
      | _ => exact leavesOthers_copyLingers d r v q oc
    · split
      · exact LeavesOthers.refl d [r] v
      · exact leavesOthers_copyStops d r v b oc false

theorem leavesOthers_discardRequest (b : Battery) (x : Drive) (oc : OutcomeCode) :
    LeavesOthers d [r] v (v.discardRequest b d x oc r) := by
  unfold Vol.discardRequest
  cases v.req r with
  | none => exact LeavesOthers.refl d [r] v
  | some q =>
    dsimp only
    by_cases hanswered : q.stage = .answered
    · rw [if_pos hanswered]
      exact LeavesOthers.refl d [r] v
    rw [if_neg hanswered]
    by_cases hdelivering : q.stage = .delivering
    · rw [if_pos hdelivering]
      split
      · exact leavesOthers_modReq d r v _
      · exact LeavesOthers.refl d [r] v
    rw [if_neg hdelivering]
    by_cases hcopy : q.kind = .copy
    · rw [if_pos hcopy]
      split
      · exact (leavesOthers_modReq d r v _).trans (leavesOthers_discardCopy d r _ b q _ oc)
      · exact LeavesOthers.refl d [r] v
    rw [if_neg hcopy]
    split
    · exact leavesOthers_finish d r v oc [] false
    · exact LeavesOthers.refl d [r] v

end

/-! ## The requests ended one after another -/

theorem leavesOthers_discardRequests (b : Battery) (d : DriveNo) (x : Drive) (oc : OutcomeCode) (rs : List ReqId)
    (v : Vol) : LeavesOthers d rs v (rs.foldl (fun (w : Vol) r => w.discardRequest b d x oc r) v) := by
  induction rs generalizing v with
  | nil => exact LeavesOthers.refl d [] v
  | cons r rs ih =>
    exact ((leavesOthers_discardRequest d r v b x oc).mono (by simp)).trans ((ih _).mono (by simp +contextual))

/-- A request's end in a discard is that of a state with the request as it stood. -/
theorem req_discardRequests (b : Battery) (d : DriveNo) (x : Drive) (oc : OutcomeCode) {rs : List ReqId} (v : Vol)
    {r : ReqId} (hr : r ∈ rs) (hn : rs.Nodup) : ∃ w : Vol, w.req r = v.req r
      ∧ (rs.foldl (fun (w : Vol) r => w.discardRequest b d x oc r) v).req r = (w.discardRequest b d x oc r).req r := by
  induction rs generalizing v with
  | nil => exact absurd hr List.not_mem_nil
  | cons r' rs ih =>
    obtain ⟨hnot, hn⟩ := List.nodup_cons.mp hn
    by_cases h : r = r'
    · subst h
      exact ⟨v, rfl, (leavesOthers_discardRequests b d x oc rs _).reqs r hnot⟩
    · obtain ⟨w, hw, hfold⟩ := ih (v.discardRequest b d x oc r') ((List.mem_cons.mp hr).resolve_left h) hn
      refine ⟨w, hw.trans ?_, hfold⟩
      exact (leavesOthers_discardRequest d r' v b x oc).reqs r (by simpa using h)

end Sys2Proof.Machine
end

section
/-! PROOFS. A discard: the drive emptied, the records and the notices it touches, and how each of its requests ends. -/

namespace Sys2Proof.Machine

/-! ## The drive emptied (R17, R29, R75, R81, R97) -/

theorem Vol.modDisk_id (v : Vol) (d : DriveNo) : v.modDisk d (fun m => m) = v := by
  unfold Vol.modDisk Vol.modCable
  exact Vol.modDrive_self rfl

/-- R16, R81: a write cut off changes the diskette of its drive and nothing else of the machine. -/
theorem Vol.spoil_eq (v : Vol) (d : DriveNo) : ∃ f n, v.spoil d = { v.modDisk d f with picks := n } := by
  have hsame : ∃ f n, v = { v.modDisk d f with picks := n } :=
    ⟨fun m => m, v.picks, by rw [Vol.modDisk_id]⟩
  have hdisk : ∀ g, ∃ f n, v.modDisk d g = { v.modDisk d f with picks := n } := fun g => ⟨g, v.picks, rfl⟩
  have hunit : ∀ u n, ∃ f k, v.spoilUnit d u n = { v.modDisk d f with picks := k } := fun u n => by
    unfold Vol.spoilUnit
    dsimp only
    split
    · exact ⟨fun m => m.spoilFormat u.kind.place.1 u.kind.place.2 n (Config.formatCutOff v.picks), v.picks + 1, rfl⟩
    · exact hdisk _
  unfold Vol.spoil
  dsimp only
  split
  · split
    · split
      · exact hdisk _
      · exact hsame
    · exact hsame
  · split
    · split
      · exact hdisk _
      · exact hsame
    · exact hsame
  · exact hunit _ 0
  · split
    · exact hunit _ _
    · exact hsame
  · exact hsame

theorem Vol.modPort_id (v : Vol) (k : Line) : v.modPort k (fun p => p) = v := by
  have hs : v.ports.set k v.ports[k] = v.ports := Vector.set_getElem_self k.isLt
  unfold Vol.modPort
  exact congrArg (fun x => { v with ports := x }) hs

theorem Vol.modPorts_eq (f : Line → Port → Port) (ks : List Line) (v : Vol) :
    ∃ p, ks.foldl (fun (w : Vol) k => w.modPort k (f k)) v = { v with ports := p } := by
  induction ks generalizing v with
  | nil => exact ⟨v.ports, rfl⟩
  | cons k ks ih =>
    obtain ⟨p, hp⟩ := ih (v.modPort k (f k))
    exact ⟨p, hp⟩

theorem Vol.port_modPorts_ne (f : Line → Port → Port) {ks : List Line} (v : Vol) {k : Line} (h : k ∉ ks) :
    (ks.foldl (fun (w : Vol) k => w.modPort k (f k)) v).port k = v.port k := by
  induction ks generalizing v with
  | nil => rfl
  | cons j ks ih =>
    rw [List.mem_cons, not_or] at h
    exact (ih _ h.2).trans (Vol.port_modPort_ne _ _ _ _ h.1)

theorem Vol.port_modPorts (f : Line → Port → Port) {ks : List Line} (v : Vol) {k : Line} (h : k ∈ ks) (hn : ks.Nodup) :
    (ks.foldl (fun (w : Vol) k => w.modPort k (f k)) v).port k = f k (v.port k) := by
  induction ks generalizing v with
  | nil => exact absurd h List.not_mem_nil
  | cons j ks ih =>
    obtain ⟨hj, hn⟩ := List.nodup_cons.mp hn
    rw [List.foldl_cons]
    by_cases hk : k = j
    · subst hk
      rw [Vol.port_modPorts_ne f _ hj, Vol.port_modPort_self]
    · rw [ih _ ((List.mem_cons.mp h).resolve_left hk) hn, Vol.port_modPort_ne _ _ _ _ hk]

theorem allLines_nodup : allLines.Nodup := by decide

/-- R29: HOLD LOST joins the records of the lines that held an entry of the drive. -/
theorem Vol.loseHolds_eq (v : Vol) (d : DriveNo) : ∃ p, v.loseHolds d = { v with ports := p } ∧ ∀ k : Line,
    p[k].notice.holdLost = (v.port k).notice.holdLost ||| (if v.holdsOn k d then 1#8 <<< d.val else 0#8) := by
  have hfold : v.loseHolds d = allLines.foldl (fun (w : Vol) k => w.modPort k (fun p =>
      if v.holdsOn k d then { p with notice := { p.notice with holdLost := p.notice.holdLost ||| driveBit d } } else p)) v := by
    refine congrArg (fun f => allLines.foldl f v) (funext fun w => funext fun k => ?_)
    cases v.holdsOn k d with
    | false => exact (w.modPort_id k).symm
    | true => rfl
  obtain ⟨p, hp⟩ := Vol.modPorts_eq (fun k p => if v.holdsOn k d then
    { p with notice := { p.notice with holdLost := p.notice.holdLost ||| driveBit d } } else p) allLines v
  refine ⟨p, hfold.trans hp, fun k => ?_⟩
  have hport : p[k] = ({ v with ports := p } : Vol).port k := rfl
  rw [hport, ← hp, Vol.port_modPorts _ v (mem_allLines k) allLines_nodup]
  cases v.holdsOn k d with
  | false => exact (BitVec.or_zero).symm
  | true => rfl

theorem Vol.freeRecords_eq (d : DriveNo) (ks : List RecNo) (v : Vol) :
    ∃ t, ks.foldl (fun (w : Vol) k => if (w.record k).onDrive d then w.setRecord k .free else w) v
        = { v with retired := t }
      ∧ ∀ k : RecNo, (k ∈ ks ∨ (v.record k).onDrive d = false) → t[k].onDrive d = false := by
  induction ks generalizing v with
  | nil => exact ⟨v.retired, rfl, fun k h => h.resolve_left List.not_mem_nil⟩
  | cons j ks ih =>
    rw [List.foldl_cons]
    by_cases hj : (v.record j).onDrive d = true
    · obtain ⟨t, ht, hfree⟩ := ih (v.setRecord j .free)
      rw [if_pos hj]
      refine ⟨t, ht, fun k hk => hfree k ?_⟩
      by_cases hkj : k = j
      · subst hkj
        rw [Vol.record_setRecord_self]
        exact .inr rfl
      · rw [Vol.record_setRecord_ne _ _ _ _ hkj]
        exact hk.imp_left (fun h => (List.mem_cons.mp h).resolve_left hkj)
    · obtain ⟨t, ht, hfree⟩ := ih v
      rw [if_neg hj]
      refine ⟨t, ht, fun k hk => hfree k ?_⟩
      by_cases hkj : k = j
      · subst hkj
        exact .inr (Bool.eq_false_iff.mpr hj)
      · exact hk.imp_left (fun h => (List.mem_cons.mp h).resolve_left hkj)

/-- The volatile state with a drive emptied, its requests still to end and DRIVE CHANGE still to be set. -/
def Vol.emptied (v : Vol) (d : DriveNo) (m : MountState) : Vol :=
  (((v.spoil d).discardMirror d).modSeq d (Sequencer.discard m)).modSched d Scheduler.discard

theorem Vol.discard_eq (b : Battery) (d : DriveNo) (m : MountState) (oc : OutcomeCode) (v : Vol) :
    v.discard b d m oc
      = (allReqs.foldl (fun (w : Vol) r => w.discardRequest b d (v.drive d) oc r) (v.emptied d m)).driveChange d := rfl

/-- A drive emptied, with its diskette as the cut-off write left it. -/
def Drive.emptied (m : MountState) (f : Diskette → Diskette) (x : Drive) : Drive :=
  { cable := { x.cable with disk := f x.cable.disk }, seq := x.seq.discard m, sched := x.sched.discard,
    cat := x.cat.discard }

/-- R17, R26, R29, R75, R81, R97: all that a discard does before the requests end. -/
theorem Vol.emptied_eq (v : Vol) (d : DriveNo) (m : MountState) : ∃ f n p t,
    v.emptied d m = { v.modDrive d (Drive.emptied m f) with picks := n, ports := p, retired := t }
      ∧ (∀ k : Line, p[k].notice.holdLost
          = (v.port k).notice.holdLost ||| (if v.holdsOn k d then 1#8 <<< d.val else 0#8))
      ∧ ∀ k : RecNo, t[k].onDrive d = false := by
  obtain ⟨f, n, hspoil⟩ := v.spoil_eq d
  obtain ⟨p, hlose, hlost⟩ := (v.spoil d).loseHolds_eq d
  obtain ⟨t, hfree, hfreed⟩ := Vol.freeRecords_eq d allRecords ((v.spoil d).loseHolds d)
  have hports : ∀ k, (v.spoil d).port k = v.port k := fun k => by
    unfold Vol.port
    rw [Vol.ports_spoil]
  have hmirror : (v.spoil d).mirror d = v.mirror d := by
    have hdrive : (v.spoil d).drive d = (v.modDisk d f).drive d := by
      rw [hspoil]
      rfl
    unfold Vol.mirror
    rw [hdrive, Vol.modDisk, Vol.drive_modCable_self]
  have hholds : ∀ k, (v.spoil d).holdsOn k d = v.holdsOn k d := fun k => by
    unfold Vol.holdsOn
    rw [hmirror]
  refine ⟨f, n, p, t, ?_, fun k => ?_, fun k => hfreed k (.inl (mem_allRecords k))⟩
  · have hbase : ((v.spoil d).loseHolds d).freeRecordsOf d
        = { v.modDisk d f with picks := n, ports := p, retired := t } := by
      unfold Vol.freeRecordsOf
      rw [hfree, hlose, hspoil]
    have hout : ∀ (w : Vol) g, ({ w with picks := n, ports := p, retired := t } : Vol).modDrive d g
        = { w.modDrive d g with picks := n, ports := p, retired := t } := fun _ _ => rfl
    unfold Vol.emptied Vol.discardMirror Vol.modSched Vol.modSeq Vol.modCat
    rw [hbase, Vol.modDrive_modDrive, Vol.modDrive_modDrive, hout, Vol.modDisk, Vol.modCable, Vol.modDrive_modDrive]
    rfl
  · rw [hlost, hports, hholds]

theorem Vol.reqs_emptied (v : Vol) (d : DriveNo) (m : MountState) : (v.emptied d m).reqs = v.reqs := by
  obtain ⟨f, n, p, t, heq, -, -⟩ := v.emptied_eq d m
  rw [heq]
  rfl

theorem Vol.drive_emptied_ne (v : Vol) {d e : DriveNo} (m : MountState) (h : e ≠ d) :
    (v.emptied d m).drive e = v.drive e := by
  obtain ⟨f, n, p, t, heq, -, -⟩ := v.emptied_eq d m
  rw [heq]
  exact Vol.drive_modDrive_ne v d e _ h

theorem Vol.drive_emptied_self (v : Vol) (d : DriveNo) (m : MountState) :
    ∃ f, (v.emptied d m).drive d = (v.drive d).emptied m f := by
  obtain ⟨f, n, p, t, heq, -, -⟩ := v.emptied_eq d m
  rw [heq]
  exact ⟨f, Vol.drive_modDrive_self v d _⟩

theorem Vol.record_emptied (v : Vol) (d : DriveNo) (m : MountState) (k : RecNo) :
    ((v.emptied d m).record k).onDrive d = false := by
  obtain ⟨f, n, p, t, heq, -, ht⟩ := v.emptied_eq d m
  rw [heq]
  exact ht k

theorem Vol.holdLost_emptied (v : Vol) (d : DriveNo) (m : MountState) (k : Line) :
    ((v.emptied d m).port k).notice.holdLost
      = (v.port k).notice.holdLost ||| (if v.holdsOn k d then 1#8 <<< d.val else 0#8) := by
  obtain ⟨f, n, p, t, heq, hp, -⟩ := v.emptied_eq d m
  rw [heq]
  exact hp k

theorem Drive.vacant_emptied {m : MountState} (f : Diskette → Diskette) (x : Drive) (h : m ≠ .receiving) :
    (x.emptied m f).Vacant := ⟨rfl, rfl, rfl, rfl, rfl, h⟩

theorem Vol.outside_emptied (v : Vol) (d : DriveNo) (m : MountState) : (v.emptied d m).outside = (v.spoil d).outside := by
  unfold Vol.emptied
  rw [Vol.outside_modSched, Vol.outside_modSeq, Vol.outside_discardMirror]

/-! ## DRIVE CHANGE (R78) -/

theorem Vol.driveChange_eq (v : Vol) (d : DriveNo) : ∃ p, v.driveChange d = { v with ports := p } ∧ ∀ k : Line,
    p[k] = { v.port k with notice := { (v.port k).notice with
      driveChange := (v.port k).notice.driveChange ||| (1#8 <<< d.val) } } := by
  obtain ⟨p, hp⟩ := Vol.modPorts_eq (fun _ p => { p with notice := { p.notice with
    driveChange := p.notice.driveChange ||| driveBit d } }) allLines v
  refine ⟨p, hp, fun k => ?_⟩
  have hport : p[k] = ({ v with ports := p } : Vol).port k := rfl
  rw [hport, ← hp, Vol.port_modPorts _ v (mem_allLines k) allLines_nodup]
  rfl

theorem driveBit_set (n : Byte) (d : DriveNo) : (n ||| (1#8 <<< d.val)).getLsbD d.val = true := by
  have hbit : ∀ e : DriveNo, (1#8 <<< e.val).getLsbD e.val = true := by decide
  rw [BitVec.getLsbD_or, hbit d, Bool.or_true]

/-! ## The end of one request in a discard (R40, R75, R122) -/

/-- How a request stands once it has ended with an outcome, by what it was (R103). -/
def Request.EndsAs (q : Request) (oc : OutcomeCode) (o : Option Request) : Prop :=
  if q.silent then o = none else ∃ q', o = some q' ∧ q'.stage = .answered ∧ q'.outcome = some oc ∧ q'.tag = q.tag
    ∧ q'.replies.map Waiting.body = q.replies.map Waiting.body ++ [.single (answerBody q.tag oc [])]

theorem Vol.finish_endsAs {v : Vol} {r : ReqId} {q : Request} (oc : OutcomeCode) (direct : Bool) (h : v.req r = some q) :
    q.EndsAs oc ((v.finish r oc [] direct).req r) := by
  unfold Request.EndsAs
  cases hs : q.silent with
  | true =>
    rw [if_pos rfl, Vol.finish_silent oc [] direct h hs]
    exact Vol.req_setReq_self _ r none
  | false =>
    have hreq : (v.finish r oc [] direct).req r = some (({ q with version := none } : Request).ended oc [] direct v.stamp) := by
      rw [Vol.finish_heard oc [] direct h hs]
      have hstamp : ∀ (w : Vol) n, ({ w with stamp := n } : Vol).req r = w.req r := fun _ _ => rfl
      rw [hstamp, Vol.req_modReq_self, Vol.req_letGo_self oc h]
      rfl
    rw [if_neg Bool.false_ne_true]
    refine ⟨_, hreq, rfl, rfl, rfl, ?_⟩
    unfold Request.ended
    rw [List.map_append]
    rfl

theorem Vol.req_reloads (v : Vol) (b : Battery) (e : DriveNo) (c : Bool) (r : ReqId) :
    (if c then (v.modSeq e Sequencer.letGo).startLoading b e else v).req r = v.req r := by
  split <;> rfl

theorem Vol.copyEnd_endsAs {v : Vol} {r : ReqId} {q : Request} (b : Battery) (oc : OutcomeCode) (direct : Bool)
    (h : v.req r = some q) : q.EndsAs oc ((v.copyEnd b r oc direct).req r) := by
  have hsource : ∀ c : Bool, (if c then v.releaseSource q.drive else v).req r = some q := fun c => by
    rw [← h]
    split <;> rfl
  unfold Vol.copyEnd
  rw [h]
  dsimp only
  rw [Vol.req_reloads]
  exact Vol.finish_endsAs oc direct (hsource _)

/-- A COPY's record once a destination is lost. -/
def Request.losesDest (d : DriveNo) (q : Request) : Request :=
  if q.dest = d then { q with copy := q.copy.map (fun c => { c with holdsDest := false }) } else q

theorem Request.losesDest_keeps (d : DriveNo) (q : Request) :
    (q.losesDest d).drive = q.drive ∧ (q.losesDest d).dest = q.dest ∧ (q.losesDest d).outcome = q.outcome
      ∧ (q.losesDest d).silent = q.silent ∧ (q.losesDest d).tag = q.tag ∧ (q.losesDest d).replies = q.replies := by
  unfold Request.losesDest
  split <;> exact ⟨rfl, rfl, rfl, rfl, rfl, rfl⟩

theorem Request.endsAs_losesDest {d : DriveNo} {q : Request} {oc : OutcomeCode} {o : Option Request}
    (h : (q.losesDest d).EndsAs oc o) : q.EndsAs oc o := by
  obtain ⟨-, -, -, hsilent, htag, hreplies⟩ := q.losesDest_keeps d
  unfold Request.EndsAs at h ⊢
  rwa [hsilent, htag, hreplies] at h

theorem Vol.req_loseDest {v : Vol} {r : ReqId} {q : Request} (d : DriveNo) (h : v.req r = some q) :
    (v.loseDest d r).req r = some (q.losesDest d) := by
  unfold Vol.loseDest
  rw [Vol.req_modReq_self, h]
  rfl

section
variable {v : Vol} {r : ReqId} {q : Request} (b : Battery) (d : DriveNo) (x : Drive) (oc : OutcomeCode)

theorem Vol.discardRequest_answered (h : v.req r = some q) (hs : q.stage = .answered) : v.discardRequest b d x oc r = v := by
  unfold Vol.discardRequest
  rw [h]
  exact if_pos hs

theorem Vol.discardRequest_delivering (h : v.req r = some q) (hs : q.stage = .delivering) :
    v.discardRequest b d x oc r
      = if q.drive = d then v.modReq r (fun q => { q with onEntry := false }) else v := by
  unfold Vol.discardRequest
  rw [h]
  dsimp only
  rw [if_neg (by rw [hs]; decide), if_pos hs]

theorem Vol.discardRequest_plain (h : v.req r = some q) (ha : q.stage ≠ .answered) (hd : q.stage ≠ .delivering)
    (hk : q.kind ≠ .copy) : v.discardRequest b d x oc r = if q.drive = d then v.finish r oc [] false else v := by
  unfold Vol.discardRequest
  rw [h]
  dsimp only
  rw [if_neg ha, if_neg hd, if_neg hk]

theorem Vol.discardRequest_copy (h : v.req r = some q) (ha : q.stage ≠ .answered) (hd : q.stage ≠ .delivering)
    (hk : q.kind = .copy) : v.discardRequest b d x oc r = if q.copyNames d then
      (v.loseDest d r).discardCopy b r q (x.sched.hasOrder r || (x.seq.unitOf r).isSome) oc else v := by
  unfold Vol.discardRequest
  rw [h]
  dsimp only
  rw [if_neg ha, if_neg hd, if_pos hk]

end

/-! ## A COPY in a discard (R185) -/

theorem Request.copyNames_iff (q : Request) (d : DriveNo) :
    q.copyNames d = true ↔ q.dest = d ∨ q.drive = d ∧ ∃ c, q.copy = some c ∧ c.holdsSource = true := by
  unfold Request.copyNames
  rw [Bool.or_eq_true, Bool.and_eq_true, beq_iff_eq, beq_iff_eq]
  cases q.copy with
  | none => simp
  | some c => simp

theorem Sequencer.unitOf_eq {q : Sequencer} {r : ReqId} {u : UnitWork} (hj : q.job = .unit u) (hu : u.req = r) :
    q.unitOf r = some u := by
  unfold Sequencer.unitOf Sequencer.unit?
  rw [hj]
  simp [hu]

theorem Sequencer.unitOf_none {q : Sequencer} {r : ReqId} (h : ∀ u, q.job = .unit u → u.req ≠ r) : q.unitOf r = none := by
  unfold Sequencer.unitOf Sequencer.unit?
  cases hj : q.job with
  | unit u => simp [h u hj]
  | _ => rfl

theorem Sequencer.unitOf_isSome_iff (q : Sequencer) (r : ReqId) :
    (q.unitOf r).isSome = true ↔ ∃ u, q.job = .unit u ∧ u.req = r := by
  constructor
  · intro h
    by_contra hno
    rw [Sequencer.unitOf_none (fun u hj hu => hno ⟨u, hj, hu⟩)] at h
    exact absurd h Bool.false_ne_true
  · rintro ⟨u, hj, hu⟩
    rw [Sequencer.unitOf_eq hj hu]
    rfl

theorem Phase.midSector_iff (p : Phase) : p.midSector = true ↔ ∃ verify, p = .unitPass verify true := by
  unfold Phase.midSector
  cases p <;> simp

theorem Vol.discardCopy_held (v : Vol) (b : Battery) (r : ReqId) (q : Request) (oc : OutcomeCode) :
    v.discardCopy b r q true oc = v.copyEnd b r oc false := by
  unfold Vol.discardCopy
  exact if_pos rfl

section
variable {v : Vol} {r : ReqId} {q : Request} {u : UnitWork} (b : Battery) (oc : OutcomeCode)

theorem Vol.discardCopy_catalog {half : Nat} (hj : (v.drive q.dest).seq.job = .unit u) (hu : u.req = r)
    (hk : u.kind = .catalog half) : v.discardCopy b r q false oc = v.stopCatalogUnit b r q oc := by
  unfold Vol.discardCopy
  rw [if_neg Bool.false_ne_true, Sequencer.unitOf_eq hj hu]
  dsimp only
  rw [hk]

theorem Vol.discardCopy_lingers (hj : (v.drive q.dest).seq.job = .unit u) (hu : u.req = r)
    (hk : ∀ half, u.kind ≠ .catalog half) : v.discardCopy b r q false oc = v.copyLingers r q oc := by
  unfold Vol.discardCopy
  rw [if_neg Bool.false_ne_true, Sequencer.unitOf_eq hj hu]
  dsimp only
  cases h : u.kind with
  | catalog half => exact absurd h (hk half)
  | _ => rfl

theorem Vol.discardCopy_orders (h : ∀ u, (v.drive q.dest).seq.job = .unit u → u.req ≠ r) :
    v.discardCopy b r q false oc = if q.stage = .ending then v else v.copyStops b r oc false := by
  unfold Vol.discardCopy
  rw [if_neg Bool.false_ne_true, Sequencer.unitOf_none h]

/-- R185: a COPY whose catalog unit is stopped between two sectors ends with the outcome it has, which one in ENDING
keeps. -/
theorem Vol.stopCatalogUnit_eq {p : Request} (h : v.req r = some p) (hp : p.outcome = q.outcome) :
    v.stopCatalogUnit b r q oc =
      (let w := (v.copyLingers r q oc).modReq r (fun q =>
         { q with copy := q.copy.map (fun c => { c with stop := true }) })
       if (v.drive q.dest).seq.phase.midSector then w
       else w.copyEnd b r (if q.stage = .ending then q.outcome.getD .cancelled else oc) false) := by
  have hdrive : (v.copyLingers r q oc).drive q.dest = v.drive q.dest := by
    unfold Vol.copyLingers
    split <;> rfl
  unfold Vol.stopCatalogUnit
  dsimp only
  rw [Vol.drive_modReq, hdrive, Vol.req_modReq_self]
  unfold Vol.copyLingers
  by_cases hs : q.stage = .ending
  · rw [if_pos hs, if_pos hs, h, ← hp]
    rfl
  · rw [if_neg hs, if_neg hs]
    unfold Vol.setEnding
    rw [Vol.req_modReq_self, h]
    rfl

end

end Sys2Proof.Machine
end

section
/-! PROOFS. Stalls and door openings: a drive's work discarded, what stands afterwards, and how its requests end. -/

namespace Sys2Proof.Machine

/-! ## After a discard -/

theorem allReqs_nodup : allReqs.Nodup := by decide

theorem allReqs_eq : allReqs = List.finRange 18 := by decide

/-- The state with a drive emptied and every request on it ended, DRIVE CHANGE still to be set. -/
def Vol.requestsEnded (v : Vol) (b : Battery) (d : DriveNo) (m : MountState) (oc : OutcomeCode) : Vol :=
  allReqs.foldl (fun (w : Vol) r => w.discardRequest b d (v.drive d) oc r) (v.emptied d m)

theorem Vol.drive_setPorts (v : Vol) (p : Vector Port 9) (e : DriveNo) : ({ v with ports := p } : Vol).drive e = v.drive e :=
  rfl

theorem Vol.req_setPorts (v : Vol) (p : Vector Port 9) (r : ReqId) : ({ v with ports := p } : Vol).req r = v.req r := rfl

theorem Vol.record_setPorts (v : Vol) (p : Vector Port 9) (k : RecNo) :
    ({ v with ports := p } : Vol).record k = v.record k := rfl

section
variable (b : Battery) (d : DriveNo) (m : MountState) (oc : OutcomeCode) (v : Vol)

theorem Vol.leavesOthers_requestsEnded : LeavesOthers d allReqs (v.emptied d m) (v.requestsEnded b d m oc) :=
  leavesOthers_discardRequests b d (v.drive d) oc allReqs _

theorem Vol.discard_frame : ∃ p, v.discard b d m oc = { v.requestsEnded b d m oc with ports := p } ∧ ∀ k : Line,
    p[k].notice.driveChange.getLsbD d.val = true
      ∧ p[k].notice.holdLost
        = (v.port k).notice.holdLost ||| (if v.holdsOn k d then 1#8 <<< d.val else 0#8) := by
  obtain ⟨p, hp, hports⟩ := (v.requestsEnded b d m oc).driveChange_eq d
  have hport : ∀ k, (v.requestsEnded b d m oc).port k = (v.emptied d m).port k := fun k => by
    unfold Vol.port
    rw [(v.leavesOthers_requestsEnded b d m oc).ports]
  refine ⟨p, (v.discard_eq b d m oc).trans hp, fun k => ?_⟩
  rw [hports k]
  exact ⟨driveBit_set _ d, by rw [hport, ← v.holdLost_emptied d m k]⟩

theorem Vol.drive_discard (e : DriveNo) : (v.discard b d m oc).drive e = (v.requestsEnded b d m oc).drive e := by
  obtain ⟨p, hp, -⟩ := v.discard_frame b d m oc
  rw [hp, Vol.drive_setPorts]

theorem Vol.req_discard (r : ReqId) : (v.discard b d m oc).req r = (v.requestsEnded b d m oc).req r := by
  obtain ⟨p, hp, -⟩ := v.discard_frame b d m oc
  rw [hp, Vol.req_setPorts]

theorem Vol.notice_discard (k : Line) : ((v.discard b d m oc).port k).notice.driveChange.getLsbD d.val = true
    ∧ ((v.discard b d m oc).port k).notice.holdLost
      = (v.port k).notice.holdLost ||| (if v.holdsOn k d then 1#8 <<< d.val else 0#8) := by
  obtain ⟨p, hp, hports⟩ := v.discard_frame b d m oc
  rw [hp]
  exact hports k

theorem Vol.record_discard (k : RecNo) : ((v.discard b d m oc).record k).onDrive d = false := by
  obtain ⟨p, hp, -⟩ := v.discard_frame b d m oc
  rw [hp, Vol.record_setPorts]
  exact (v.leavesOthers_requestsEnded b d m oc).records k (v.record_emptied d m k)

/-- R17, R45, R75, R81, R97: the drive's sequencer, scheduler and catalog are those of a drive emptied. -/
theorem Vol.work_discard (h : m ≠ .receiving) :
    ((v.discard b d m oc).drive d).seq = (v.drive d).seq.discard m
      ∧ ((v.discard b d m oc).drive d).sched = (v.drive d).sched.discard
      ∧ (v.discard b d m oc).mirror d = none ∧ ((v.discard b d m oc).drive d).cat.fault = false := by
  obtain ⟨f, hf⟩ := v.drive_emptied_self d m
  have hsame := (v.leavesOthers_requestsEnded b d m oc).drive
  rw [hf, ← v.drive_discard b d m oc d] at hsame
  exact hsame (Drive.vacant_emptied f _ h)

theorem Vol.cable_discard (e : DriveNo) : ((v.discard b d m oc).drive e).cable = ((v.spoil d).drive e).cable := by
  refine Vol.cable_of_outside ?_ e
  rw [Vol.discard_eq, Vol.outside_driveChange, Vol.outside_foldl (fun w r => Vol.discardRequest b d (v.drive d) oc r w)
    (fun w r => Vol.outside_discardRequest b d (v.drive d) oc r w), Vol.outside_emptied]

/-- A request after a discard is what the discard makes of it in a state where it stands as before. -/
theorem Vol.req_discard_turn {r : ReqId} {q : Request} (h : v.req r = some q) : ∃ w : Vol, w.req r = some q
    ∧ (v.discard b d m oc).req r = (w.discardRequest b d (v.drive d) oc r).req r := by
  obtain ⟨w, hw, hfold⟩ := req_discardRequests b d (v.drive d) oc (v.emptied d m) (mem_allReqs r) allReqs_nodup
  refine ⟨w, hw.trans ((Vol.req_of_reqs (v.reqs_emptied d m) r).trans h), ?_⟩
  rw [Vol.req_discard]
  exact hfold

end

/-! ## The stall watch and the door -/

theorem Vol.indexStall_discards {v : Vol} {d : DriveNo} (b : Battery) (h : (v.drive d).seq.stall = true) :
    v.indexStall b d = v.discard b d .faulted .driveFault := by
  unfold Vol.indexStall
  rw [if_pos h]

theorem Vol.doorOpens_discards {v : Vol} {d : DriveNo} (b : Battery) (hq : (v.drive d).seq.doorClosed = true)
    (hc : (v.drive d).cable.doorClosed = false) : v.doorOpens b d = v.discard b d .empty .disketteRemoved := by
  unfold Vol.doorOpens
  rw [if_pos (by rw [hq, hc]; rfl)]

/-! ## A COPY named by a discard (R185) -/

theorem held_iff (x : Drive) (r : ReqId) : (x.sched.hasOrder r || (x.seq.unitOf r).isSome) = true
    ↔ x.sched.hasOrder r = true ∨ ∃ u, x.seq.job = .unit u ∧ u.req = r := by
  rw [Bool.or_eq_true, Sequencer.unitOf_isSome_iff]

theorem Vol.copyStops_eq {v : Vol} {r : ReqId} {q : Request} (b : Battery) (oc : OutcomeCode) (direct : Bool)
    (h : v.req r = some q) : v.copyStops b r oc direct = if (v.takeOut r q.drive q.dest).2
      then (v.takeOut r q.drive q.dest).1.copyEnd b r oc direct
      else (v.takeOut r q.drive q.dest).1.setEnding r oc := by
  unfold Vol.copyStops
  rw [h]

/-- Settles O40. -/
theorem stallsAndDoorOpeningsDiscardTheWork : Obligations.StallsAndDoorOpeningsDiscardTheWork := by
  refine ⟨?_, ?_, ?_, ?_⟩
  · intro s d hlive
    refine ⟨fun h => ?_, fun hq hc => ?_⟩
    · have hexec : exec (.indexStall d) s = .next (s.finish (s.bat, s.vol.indexStall s.bat d)) :=
        whenLive_live (fun b v => (b, v.indexStall b d)) hlive
      rw [hexec, Vol.indexStall_discards s.bat h]
    · have hexec : exec (.doorOpening d) s = .next (s.finish (s.bat, s.vol.doorOpens s.bat d)) :=
        whenLive_live (fun b v => (b, v.doorOpens b d)) hlive
      rw [hexec, Vol.doorOpens_discards s.bat hq hc]
  · intro b d m oc v hm w
    have hw : w = v.discard b d m oc := rfl
    clear_value w
    subst hw
    have hreceiving : m ≠ .receiving := by rcases hm with rfl | rfl <;> decide
    obtain ⟨hseq, hsched, hmirror, hfault⟩ := v.work_discard b d m oc hreceiving
    have hretries : ((v.discard b d m oc).drive d).seq.retries = (v.drive d).seq.retries := by
      rw [hseq, Sequencer.discard]
    refine ⟨congrArg Sequencer.mount hseq, congrArg Sequencer.head hseq, congrArg Sequencer.cyl hseq,
      congrArg Sequencer.job hseq, congrArg Sequencer.unload hseq, congrArg Sequencer.stall hseq,
      congrArg Sequencer.writeProtected hseq, hretries, congrArg Scheduler.queue hsched,
      congrArg Scheduler.service hsched, congrArg Scheduler.stack hsched, congrArg Scheduler.pending hsched, hmirror,
      hfault, v.record_discard b d m oc, fun k => (v.notice_discard b d m oc k).1, congrArg Sequencer.angle hseq,
      congrArg Scheduler.cursor hsched, ?_, fun e he => ?_, fun k => (v.notice_discard b d m oc k).2, ?_⟩
    · rw [v.cable_discard b d m oc d]
      exact v.cutOff_spoil d
    · rw [v.cable_discard b d m oc e, Vol.drive_spoil_ne d e v he]
    · intro r q hr ended
      obtain ⟨t, ht, hturn⟩ := v.req_discard_turn b d m oc hr
      have hended : ∀ u : Vol, t.discardRequest b d (v.drive d) oc r = u → q.EndsAs oc (u.req r) → ended :=
        fun u hu h => by
          rw [← hu, ← hturn] at h
          exact h
      refine ⟨fun hs => ?_, fun hs => ?_, fun ha hd hk hdrive => ?_, fun ha hd hk hdrive => ?_,
        fun ha hd hk hnames hheld => ?_⟩
      · rw [hturn, Vol.discardRequest_answered b d _ oc ht hs, ht]
      · rw [hturn, Vol.discardRequest_delivering b d _ oc ht hs]
        split
        · rw [Vol.req_modReq_self, ht]
          rfl
        · exact ht
      · refine hended (t.finish r oc [] false) ?_ (Vol.finish_endsAs oc false ht)
        rw [Vol.discardRequest_plain b d _ oc ht ha hd hk, if_pos hdrive]
      · rw [hturn, Vol.discardRequest_plain b d _ oc ht ha hd hk, if_neg hdrive, ht]
      · have hheld : ((v.drive d).sched.hasOrder r || ((v.drive d).seq.unitOf r).isSome) = true :=
          Bool.or_eq_true _ _ ▸ hheld
        refine hended ((t.loseDest d r).copyEnd b r oc false) ?_
          (Request.endsAs_losesDest (Vol.copyEnd_endsAs b oc false (Vol.req_loseDest d ht)))
        rw [Vol.discardRequest_copy b d _ oc ht ha hd hk, if_pos hnames, hheld, Vol.discardCopy_held]
  · intro b d m oc v
    obtain ⟨f, hf⟩ := v.drive_emptied_self d m
    refine ⟨v.emptied d m, v.reqs_emptied d m, fun e he => v.drive_emptied_ne m he, ?_, ?_, ?_⟩
    · rw [hf]
      rfl
    · rw [hf]
      rfl
    · rw [← allReqs_eq]
      exact v.discard_eq b d m oc
  · intro b d x oc v r q hr hk ha hd names held w ending lingers becomes
    have hturn := Vol.discardRequest_copy b d x oc hr ha hd hk
    have hnames : q.copyNames d = true ↔ names := q.copyNames_iff d
    have hheld : (x.sched.hasOrder r || (x.seq.unitOf r).isSome) = true ↔ held := held_iff x r
    have hw : v.loseDest d r = w := rfl
    have hwr : w.req r = some (q.losesDest d) := Vol.req_loseDest d hr
    obtain ⟨hdrive, hdest, houtcome, -⟩ := q.losesDest_keeps d
    have hnot : names → ¬ held → v.discardRequest b d x oc r = w.discardCopy b r q false oc := fun hn hh => by
      rw [hturn, if_pos (hnames.mpr hn), Bool.eq_false_iff.mpr (mt hheld.mp hh), hw]
    refine ⟨fun hn => ?_, fun hn hh => ?_, ?_, ?_⟩
    · exact hturn.trans (if_neg (mt hnames.mp hn))
    · change v.discardRequest b d x oc r = _
      rw [hturn, if_pos (hnames.mpr hn), hheld.mpr hh, Vol.discardCopy_held, hw]
    · intro hn hh u hj hu stopped midSector
      have hjw : (w.drive q.dest).seq.job = .unit u := hj
      have hmid : (w.drive q.dest).seq.phase.midSector = true ↔ midSector := Phase.midSector_iff _
      refine ⟨fun hku => ?_, fun half hku => ?_⟩
      · exact (hnot hn hh).trans (Vol.discardCopy_lingers b oc hjw hu hku)
      · have hstop := (hnot hn hh).trans ((Vol.discardCopy_catalog b oc hjw hu hku).trans
          (Vol.stopCatalogUnit_eq b oc hwr houtcome))
        exact ⟨fun hs => hstop.trans (if_pos (hmid.mpr hs)), fun hs => hstop.trans (if_neg (mt hmid.mp hs))⟩
    · intro hn hh hj p
      have horders := (hnot hn hh).trans (Vol.discardCopy_orders b oc hj)
      refine ⟨fun hs => horders.trans (if_pos hs), fun hs => horders.trans ((if_neg hs).trans ?_)⟩
      rw [Vol.copyStops_eq b oc false hwr, hdrive, hdest]
      rfl

end Sys2Proof.Machine
end

section
/-! PROOFS. Allocation: the run taken for a write, as the search meets the free sectors (R31, R32). -/

namespace Sys2Proof.Machine

/-! ## Runs in the order of search -/

/-- The length of the run that a search order begins with: it goes on to the next sector of the same track side. -/
def leadingRun : List Nat → Nat
  | [] => 0
  | [_] => 1
  | x :: y :: rest => if y = x + 1 ∧ y % 8 ≠ 0 then leadingRun (y :: rest) + 1 else 1

/-- The first sector of a search order from which a run of at least `m` goes on. -/
def firstWithRun (m : Nat) : List Nat → Option Nat
  | [] => none
  | x :: rest => if m ≤ leadingRun (x :: rest) then some x else firstWithRun m rest

theorem leadingRun_pos (x : Nat) (rest : List Nat) : 1 ≤ leadingRun (x :: rest) := by
  cases rest with
  | nil => exact Nat.le_refl 1
  | cons y rest =>
    unfold leadingRun
    split <;> omega

/-- R31: a search order begins with a run whose length is that of its leading run, and goes on with the others. -/
theorem runsOf_cons (x : Nat) (xs : List Nat) :
    ∃ rest, runsOf (x :: xs) = (x, leadingRun (x :: xs)) :: rest
      ∧ (runsOf xs = rest ∨ ∃ y n, runsOf xs = (y, n) :: rest ∧ n + 1 = leadingRun (x :: xs)) := by
  induction xs generalizing x with
  | nil => exact ⟨[], rfl, .inl rfl⟩
  | cons y ys ih =>
    obtain ⟨rest, hrest, -⟩ := ih y
    rw [runsOf, hrest, leadingRun]
    by_cases h : y = x + 1 ∧ y % 8 ≠ 0
    · simp only [if_pos h]
      exact ⟨rest, rfl, .inr ⟨y, _, rfl, rfl⟩⟩
    · simp only [if_neg h]
      exact ⟨_, rfl, .inl rfl⟩

/-- R32: the first run of at least `m` sectors begins at the first sector from which one goes on. -/
theorem firstLongRun_runsOf (m : Nat) (l : List Nat) :
    (firstLongRun m (runsOf l)).map Prod.fst = firstWithRun m l := by
  induction l with
  | nil => rfl
  | cons x xs ih =>
    obtain ⟨rest, hrest, hxs⟩ := runsOf_cons x xs
    rw [hrest, firstWithRun]
    by_cases hm : m ≤ leadingRun (x :: xs)
    · simp [firstLongRun, hm]
    · rw [if_neg hm, ← ih]
      obtain hxs | ⟨y, n, hxs, hn⟩ := hxs
      · simp [firstLongRun, hm, hxs]
      · have hn' : ¬ m ≤ n := by omega
        simp [firstLongRun, hm, hxs, hn']

theorem firstWithRun_none_mono {m n : Nat} (h : m ≤ n) {l : List Nat} (hm : firstWithRun m l = none) :
    firstWithRun n l = none := by
  induction l with
  | nil => rfl
  | cons x xs ih =>
    rw [firstWithRun] at hm ⊢
    split at hm
    · cases hm
    · next hlt => rw [if_neg (by omega), ih hm]

theorem longestRun_eq_none {rs : List (Nat × Nat)} (h : longestRun rs = none) : rs = [] := by
  cases rs with
  | nil => rfl
  | cons p rest =>
    unfold longestRun at h
    split at h
    · cases h
    · split at h <;> cases h

theorem longestRun_cons (p : Nat × Nat) (rs : List (Nat × Nat)) :
    longestRun (p :: rs) = match longestRun rs with
      | none => some p
      | some q => if p.2 < q.2 then some q else some p := rfl

/-- R32: no sector goes on for longer than the first of the longest runs, which begins at the first sector from which one
of its length goes on. -/
theorem longestRun_runsOf {l : List Nat} {x k : Nat} (h : longestRun (runsOf l) = some (x, k)) :
    1 ≤ k ∧ firstWithRun k l = some x ∧ firstWithRun (k + 1) l = none := by
  induction l generalizing x k with
  | nil => cases h
  | cons z xs ih =>
    obtain ⟨rest, hrest, hxs⟩ := runsOf_cons z xs
    have hskip : ∀ m, leadingRun (z :: xs) < m → firstWithRun m (z :: xs) = firstWithRun m xs := fun m hm => by
      rw [firstWithRun, if_neg (by omega)]
    have hhead : firstWithRun (leadingRun (z :: xs) + 1) xs = none → (z, leadingRun (z :: xs)) = (x, k) →
        1 ≤ k ∧ firstWithRun k (z :: xs) = some x ∧ firstWithRun (k + 1) (z :: xs) = none := by
      rintro hnone ⟨⟩
      refine ⟨leadingRun_pos z xs, ?_, (hskip _ (Nat.lt_succ_self _)).trans hnone⟩
      rw [firstWithRun, if_pos (Nat.le_refl _)]
    have hlater : leadingRun (z :: xs) < k → longestRun (runsOf xs) = some (x, k) →
        1 ≤ k ∧ firstWithRun k (z :: xs) = some x ∧ firstWithRun (k + 1) (z :: xs) = none := by
      intro hlt hl
      rw [hskip _ hlt, hskip _ (Nat.lt_succ_of_lt hlt)]
      exact ih hl
    have hshort : ∀ p, longestRun (runsOf xs) = some p → p.2 ≤ leadingRun (z :: xs) →
        firstWithRun (leadingRun (z :: xs) + 1) xs = none := fun p hp hle =>
      firstWithRun_none_mono (Nat.succ_le_succ hle) (ih (x := p.1) (k := p.2) hp).2.2
    rw [hrest, longestRun_cons] at h
    obtain hxs | ⟨y, n, hxs, hn⟩ := hxs
    · -- the run of `z` ends before `xs`
      rw [← hxs] at h
      cases hl : longestRun (runsOf xs) with
      | none =>
        rw [hl] at h
        have hnil : xs = [] := by
          cases xs with
          | nil => rfl
          | cons y ys =>
            obtain ⟨_, hy, -⟩ := runsOf_cons y ys
            rw [hy] at hl
            cases longestRun_eq_none hl
        subst hnil
        exact hhead rfl (Option.some.inj h)
      | some q =>
        rw [hl] at h
        dsimp only at h
        split at h
        · next hlt =>
          cases h
          exact hlater hlt hl
        · next hle => exact hhead (hshort q hl (by omega)) (Option.some.inj h)
    · -- the run of `z` goes on at the head of `xs`
      have hl : longestRun (runsOf xs) = match longestRun rest with
          | none => some (y, n)
          | some q => if n < q.2 then some q else some (y, n) := by
        rw [hxs, longestRun_cons]
      cases hr : longestRun rest with
      | none =>
        rw [hr] at h hl
        exact hhead (hshort _ hl (by dsimp only; omega)) (Option.some.inj h)
      | some q =>
        rw [hr] at h hl
        dsimp only at h hl
        split at h
        · next hlt =>
          cases h
          rw [if_pos (by dsimp only at hlt ⊢; omega)] at hl
          exact hlater hlt hl
        · next hle =>
          refine hhead ?_ (Option.some.inj h)
          split at hl
          · exact hshort _ hl (by omega)
          · exact hshort _ hl (by dsimp only; omega)

/-- R32: a run is taken at the first sector from which one of its length goes on; a run shorter than asked for is taken
only where none of more sectors is left. -/
theorem chooseRun_cases {free : List Nat} {start n x k : Nat} (hn : 1 ≤ n) (h : chooseRun free start n = some (x, k)) :
    1 ≤ k ∧ k ≤ n ∧ firstWithRun k (searchOrder free start) = some x
      ∧ (k < n → firstWithRun (k + 1) (searchOrder free start) = none) := by
  unfold chooseRun at h
  have hlong := firstLongRun_runsOf n (searchOrder free start)
  cases hf : firstLongRun n (runsOf (searchOrder free start)) with
  | some p =>
    rw [hf] at h hlong
    cases h
    exact ⟨hn, Nat.le_refl _, hlong.symm, fun hlt => absurd hlt (Nat.lt_irrefl _)⟩
  | none =>
    rw [hf] at h hlong
    obtain ⟨hk, hx, hnext⟩ := longestRun_runsOf h
    refine ⟨hk, ?_, hx, fun _ => hnext⟩
    by_contra hgt
    rw [firstWithRun_none_mono (by omega : n ≤ k) hlong.symm] at hx
    cases hx

/-! ## The order of search (R31) -/

theorem mem_searchOrder (free : List Nat) (start x : Nat) : x ∈ searchOrder free start ↔ x ∈ free := by
  unfold searchOrder
  simp only [List.mem_append, List.mem_filter, decide_eq_true_eq, ← and_or_left]
  exact and_iff_left (by omega)

/-- R31: the search meets `y` before `x`. -/
def MetBefore (start y x : Nat) : Prop := (start ≤ y ∧ (x < start ∨ y < x)) ∨ (y < start ∧ x < start ∧ y < x)

/-- R31: the search meets the free sectors from the start point on, then those below it. -/
theorem searchOrder_pairwise {free : List Nat} (start : Nat) (h : free.Pairwise (fun x y => x < y)) :
    (searchOrder free start).Pairwise (MetBefore start) := by
  unfold searchOrder MetBefore
  rw [List.pairwise_append]
  refine ⟨?_, ?_, ?_⟩
  · refine (h.filter _).imp_of_mem (fun hx _ hlt => ?_)
    have := (List.mem_filter.mp hx).2
    simp only [decide_eq_true_eq] at this
    omega
  · refine (h.filter _).imp_of_mem (fun hx hy hlt => ?_)
    have hx := (List.mem_filter.mp hx).2
    have hy := (List.mem_filter.mp hy).2
    simp only [decide_eq_true_eq] at hx hy
    omega
  · intro x hx y hy
    simp only [List.mem_filter, decide_eq_true_eq] at hx hy
    omega

/-- R31: `m` neighbouring free sectors of one track side from `y` on, with none after the first at the start point. -/
def FreeRow (free : List Nat) (start y m : Nat) : Prop :=
  (∀ i, i < m → y + i ∈ free) ∧ y / 8 = (y + m - 1) / 8 ∧ ∀ i, 1 ≤ i → i < m → y + i ≠ start

theorem freeRow_one (free : List Nat) (start y : Nat) : FreeRow free start y 1 ↔ y ∈ free := by
  unfold FreeRow
  refine ⟨fun h => h.1 0 Nat.one_pos, fun h => ⟨fun i hi => ?_, rfl, fun i h1 h2 => by omega⟩⟩
  rwa [Nat.lt_one_iff.mp hi]

theorem freeRow_succ (free : List Nat) (start y m : Nat) :
    FreeRow free start y (m + 2)
      ↔ y ∈ free ∧ (y + 1) % 8 ≠ 0 ∧ y + 1 ≠ start ∧ FreeRow free start (y + 1) (m + 1) := by
  unfold FreeRow
  constructor
  · rintro ⟨hmem, hside, hstart⟩
    refine ⟨hmem 0 (by omega), by omega, hstart 1 (by omega) (by omega), fun i hi => ?_, by omega, fun i h1 h2 => ?_⟩
    · rw [Nat.add_assoc, Nat.add_comm 1 i]
      exact hmem (i + 1) (by omega)
    · rw [Nat.add_assoc, Nat.add_comm 1 i]
      exact hstart (i + 1) (by omega) (by omega)
  · rintro ⟨hy, hside, hstart, hmem, hsame, hlater⟩
    refine ⟨fun i hi => ?_, by omega, fun i h1 h2 => ?_⟩
    · cases i with
      | zero => exact hy
      | succ i =>
        rw [Nat.add_comm i 1, ← Nat.add_assoc]
        exact hmem i (by omega)
    · obtain rfl | h : i = 1 ∨ 1 ≤ i - 1 := by omega
      · exact hstart
      · have := hlater (i - 1) h (by omega)
        omega

/-- The search meets the next sector right after a sector where it is free, unless it is the start point. -/
theorem searchOrder_next {free pre post : List Nat} {start y : Nat} (h : free.Pairwise (fun x y => x < y))
    (hl : searchOrder free start = pre ++ y :: post) :
    (∃ rest, post = (y + 1) :: rest) ↔ y + 1 ∈ free ∧ y + 1 ≠ start := by
  have hp := searchOrder_pairwise start h
  rw [hl, List.pairwise_append, List.pairwise_cons] at hp
  obtain ⟨-, ⟨hy, hpost⟩, hpre⟩ := hp
  constructor
  · rintro ⟨rest, rfl⟩
    have hbefore := hy (y + 1) (List.mem_cons_self ..)
    unfold MetBefore at hbefore
    refine ⟨(mem_searchOrder free start _).mp ?_, by omega⟩
    rw [hl]
    simp
  · rintro ⟨hfree, hstart⟩
    have hmem := (mem_searchOrder free start _).mpr hfree
    rw [hl, List.mem_append, List.mem_cons] at hmem
    obtain hmem | hmem | hmem := hmem
    · have := hpre _ hmem y (List.mem_cons_self ..)
      unfold MetBefore at this
      omega
    · omega
    · cases post with
      | nil => cases hmem
      | cons z rest =>
        obtain hz | hmem := List.mem_cons.mp hmem
        · exact ⟨rest, by rw [hz]⟩
        · have h1 := hy z (List.mem_cons_self ..)
          have h2 := (List.pairwise_cons.mp hpost).1 _ hmem
          unfold MetBefore at h1 h2
          omega

/-- R31: the run that goes on from a sector the search meets has as many sectors as a row of free sectors from it. -/
theorem le_leadingRun_iff {free pre post : List Nat} {start y : Nat} (m : Nat) (h : free.Pairwise (fun x y => x < y))
    (hl : searchOrder free start = pre ++ y :: post) : m + 1 ≤ leadingRun (y :: post) ↔ FreeRow free start y (m + 1) := by
  have hfree : y ∈ free := (mem_searchOrder free start y).mp (by rw [hl]; simp)
  induction m generalizing pre y post with
  | zero => exact iff_of_true (leadingRun_pos y post) ((freeRow_one free start y).mpr hfree)
  | succ m ih =>
    have hnext := searchOrder_next h hl
    rw [freeRow_succ]
    cases post with
    | nil =>
      refine iff_of_false (by simp [leadingRun]) ?_
      rintro ⟨-, -, hstart, hrow⟩
      obtain ⟨rest, hrest⟩ := hnext.mpr ⟨hrow.1 0 (by omega), hstart⟩
      cases hrest
    | cons z rest =>
      rw [leadingRun]
      by_cases hz : z = y + 1
      · subst hz
        obtain ⟨hmem, hstart⟩ := hnext.mp ⟨rest, rfl⟩
        have := ih (pre := pre ++ [y]) (by simpa using hl) hmem
        split
        · next hside => simp [hfree, hside.2, hstart, ← this]
        · next hside =>
          refine iff_of_false (by omega) (fun hrow => hside ⟨rfl, hrow.2.1⟩)
      · rw [if_neg (fun g => hz g.1)]
        refine iff_of_false (by omega) ?_
        rintro ⟨-, -, hstart, hrow⟩
        obtain ⟨rest', hrest⟩ := hnext.mpr ⟨hrow.1 0 (by omega), hstart⟩
        exact hz (List.cons.inj hrest).1

theorem firstWithRun_some {m x : Nat} {l : List Nat} (h : firstWithRun m l = some x) :
    ∃ pre post, l = pre ++ x :: post ∧ m ≤ leadingRun (x :: post)
      ∧ ∀ a y b, pre = a ++ y :: b → leadingRun (y :: b ++ x :: post) < m := by
  induction l with
  | nil => cases h
  | cons z xs ih =>
    rw [firstWithRun] at h
    split at h
    · next hm =>
      cases h
      exact ⟨[], xs, rfl, hm, fun a y b hab => by simp at hab⟩
    · next hm =>
      obtain ⟨pre, post, rfl, hx, hpre⟩ := ih h
      refine ⟨z :: pre, post, rfl, hx, fun a y b hab => ?_⟩
      cases a with
      | nil =>
        cases hab
        exact Nat.lt_of_not_le hm
      | cons a as => exact hpre as y b (List.cons.inj hab).2

theorem firstWithRun_none {m : Nat} {l : List Nat} (h : firstWithRun m l = none) {pre post : List Nat} {y : Nat}
    (hl : l = pre ++ y :: post) : leadingRun (y :: post) < m := by
  subst hl
  induction pre with
  | nil =>
    rw [List.nil_append, firstWithRun] at h
    split at h
    · cases h
    · omega
  | cons z pre ih =>
    rw [List.cons_append, firstWithRun] at h
    split at h
    · cases h
    · exact ih h

/-- R31: a row of free sectors begins at a sector the search meets. -/
theorem FreeRow.met {free : List Nat} {start y m : Nat} (h : FreeRow free start y (m + 1)) :
    ∃ pre post, searchOrder free start = pre ++ y :: post :=
  List.append_of_mem ((mem_searchOrder free start y).mpr (h.1 0 (Nat.succ_pos m)))

/-- R32: the first sector from which a run goes on begins a row, and the search meets no row as long before it. -/
theorem firstWithRun_freeRow {free : List Nat} {start x k : Nat} (h : free.Pairwise (fun x y => x < y))
    (hx : firstWithRun (k + 1) (searchOrder free start) = some x) :
    FreeRow free start x (k + 1) ∧ ∀ y, MetBefore start y x → ¬ FreeRow free start y (k + 1) := by
  obtain ⟨pre, post, hl, hlong, hpre⟩ := firstWithRun_some hx
  refine ⟨(le_leadingRun_iff k h hl).mp hlong, fun y hyx hrow => ?_⟩
  have hp := searchOrder_pairwise start h
  rw [hl, List.pairwise_append, List.pairwise_cons] at hp
  have hmem : y ∈ searchOrder free start := (mem_searchOrder free start y).mpr (hrow.1 0 (Nat.succ_pos k))
  rw [hl, List.mem_append, List.mem_cons] at hmem
  obtain hmem | rfl | hmem := hmem
  · obtain ⟨a, b, rfl⟩ := List.append_of_mem hmem
    have hlead := (le_leadingRun_iff k h (pre := a) (post := b ++ x :: post) (by simpa using hl)).mpr hrow
    have := hpre a y b rfl
    rw [List.cons_append] at this
    omega
  · unfold MetBefore at hyx
    omega
  · have := hp.2.1.1 y hmem
    unfold MetBefore at hyx this
    omega

theorem chooseRun_eq_none_iff (free : List Nat) (start n : Nat) : chooseRun free start n = none ↔ free = [] := by
  constructor
  · intro h
    refine List.eq_nil_iff_forall_not_mem.mpr (fun x hx => ?_)
    unfold chooseRun at h
    split at h
    · cases h
    · have hruns := longestRun_eq_none h
      cases hl : searchOrder free start with
      | nil =>
        have := (mem_searchOrder free start x).mpr hx
        rw [hl] at this
        cases this
      | cons y ys =>
        obtain ⟨_, hy, -⟩ := runsOf_cons y ys
        rw [hl, hy] at hruns
        cases hruns
  · rintro rfl
    rfl

/-- Settles O56: the sectors are taken where the search first meets a run of that length. -/
theorem theRunTakenForAWrite : Obligations.TheRunTakenForAWrite := by
  intro free start n hn _ hsorted row before
  refine ⟨chooseRun_eq_none_iff free start n, fun x k h => ?_⟩
  obtain ⟨hk, hkn, hx, hnext⟩ := chooseRun_cases hn h
  obtain ⟨k, rfl⟩ := Nat.exists_eq_add_of_le' hk
  obtain ⟨hrow, hfirst⟩ := firstWithRun_freeRow hsorted hx
  refine ⟨hk, hkn, hrow, hfirst, fun hlt y hy => ?_⟩
  obtain ⟨pre, post, hl⟩ := FreeRow.met hy
  exact Nat.not_le_of_lt (firstWithRun_none (hnext hlt) hl) ((le_leadingRun_iff (k + 1) hsorted hl).mpr hy)

end Sys2Proof.Machine
end

section
/-! PROOFS. Stories read and filed: FETCH, DRAW and FILE as they are admitted, the reader of an entry and its READ orders,
and a reader released. -/

namespace Sys2Proof.Machine

/-! ## Commands as their own effects -/

/-- A command that is a whole frame on a line that hears it comes to its own effects. -/
theorem exec_hears {i : Instr} {s : State} {k : Line} (h : s.hears k) (hi : frameLineOf i = some k) :
    exec i s = .next (s.finish (ownEffect i s.bat s.vol)) := by
  rw [exec_eq, if_pos]
  simp [State.acts, hi, h.1, h.2]

section
variable {s : State} {k : Line}

theorem exec_fetch (h : s.hears k) (tag drive cls edition : Byte) (slug : List Byte) :
    exec (.fetch k tag drive cls edition slug) s
      = .next (s.finish (s.bat, s.vol.takeFetch s.bat k tag drive cls edition slug)) := exec_hears h rfl

theorem exec_draw (h : s.hears k) (tag drive cls edition : Byte) (slug : List Byte) :
    exec (.draw k tag drive cls edition slug) s
      = .next (s.finish (s.bat, s.vol.takeDraw s.bat k tag drive cls edition slug)) := exec_hears h rfl

theorem exec_file (h : s.hears k) (tag drive cls edition : Byte) (slug : List Byte) :
    exec (.file k tag drive cls edition slug) s
      = .next (s.finish (s.bat, s.vol.takeFile s.bat k tag drive cls edition slug)) := exec_hears h rfl

end

/-! ## The checks (R28, R44, R140, R147) -/

theorem Vol.ready_of {v : Vol} {d : DriveNo} (h : v.mount d = .ready) : v.ready d = true := by
  unfold Vol.ready
  rw [h]
  rfl

section
variable {b : Battery} {v : Vol} {k : Line} {tag drive cls edition : Byte} {slug : List Byte} {f : StoryFields} {r : ReqId}

/-- R140: FETCH and DRAW where the common checks and the gate pass. -/
theorem Vol.readChecks_pass (go : StoryFields → ReqId → Vol → Vol) (hp : parseStory tag drive cls edition slug = some f)
    (hmay : b.mayRead k f.drive = true) (hr : v.freeSlotOf k = some r) (ht : v.tagInUse k tag = false)
    (hready : v.mount f.drive = .ready) : v.readChecks b k tag drive cls edition slug go = go f r v := by
  simp only [Vol.readChecks, hp, hmay, slotCheck_ok hr ht, Vol.ready_of hready, Bool.not_true, Bool.false_eq_true, if_false,
    if_true]

/-- R44: FETCH of an entry that is not DAMAGED. -/
theorem Vol.fetchLookup_admits {slot : Nat} {e : Entry}
    (hl : (v.mirror f.drive).bind (fun m => m.lookup f.slug) = some slot) (he : v.entry f.drive slot = some e)
    (hd : e.image.state ≠ .damaged) :
    v.fetchLookup b k tag f r = v.admitFetch b k tag .fetch f r slot e.catWrite.isSome := by
  simp only [Vol.fetchLookup, hl, he, if_neg hd]

theorem foreign_own {o : Option ReqId} (h : ∀ p, o = some p → reqLine p = k) : foreign k o = false := by
  cases o with
  | none => rfl
  | some p => simp [foreign, h p rfl]

/-- R28: DRAW of an entry that its line may hold, neither filed nor spiked by another line. -/
theorem Vol.drawCheck_none {e : Entry} (hd : e.image.state ≠ .damaged)
    (hh : e.holder = some k ∨ (e.holder = none ∧ v.holdCount k < 8)) (hf : ∀ p, e.filing = some p → reqLine p = k)
    (hs : ∀ p, e.spike = some p → reqLine p = k) : v.drawCheck k e = none := by
  unfold Vol.drawCheck
  rw [if_neg hd, foreign_own hf, foreign_own hs]
  obtain hh | ⟨hh, hc⟩ := hh
  · simp [hh]
  · simp [hh, Config.lineHolds, Nat.not_le.mpr hc]

theorem Vol.drawLookup_admits {slot : Nat} {e : Entry}
    (hl : (v.mirror f.drive).bind (fun m => m.lookup f.slug) = some slot) (he : v.entry f.drive slot = some e)
    (hc : v.drawCheck k e = none) :
    v.drawLookup b k tag f r = v.admitFetch b k tag .draw f r slot e.catWrite.isSome := by
  simp only [Vol.drawLookup, hl, he, hc]

/-- R140: FILE where the common checks and the gate pass. -/
theorem Vol.takeFile_pass (hp : parseStory tag drive cls edition slug = some f) (hmay : b.mayFile k f.drive = true)
    (hr : v.freeSlotOf k = some r) (ht : v.tagInUse k tag = false) (hg : v.writeGate f.drive = none) :
    v.takeFile b k tag drive cls edition slug = v.fileLookup b k tag f r := by
  simp only [Vol.takeFile, Vol.writeChecks, hp, hmay, slotCheck_ok hr ht, hg, Bool.not_true, Bool.false_eq_true, if_false]

/-- R147: FILE of a slug that an entry carries. -/
theorem Vol.fileLookup_found {m : Mirror} {slot : Nat} {e : Entry} (hed : b.editionState f.edition ≠ .closed)
    (hm : v.mirror f.drive = some m) (hl : m.lookup f.slug = some slot) (he : m.entry slot = some e)
    (hw : writeRefusal k e = none) : v.fileLookup b k tag f r = v.admitFile b k tag f r slot none := by
  simp only [Vol.fileLookup, if_neg hed, hm, hl, he, Option.bind_some, hw]

/-- R34, R147: FILE of a new slug, on the lowest FREE slot. -/
theorem Vol.fileLookup_new {m : Mirror} {slot : Nat} (hed : b.editionState f.edition ≠ .closed)
    (hm : v.mirror f.drive = some m) (hl : m.lookup f.slug = none) (hres : m.reservedFor f.slug = false)
    (hs : m.freeSlot = some slot) : v.fileLookup b k tag f r = v.admitFile b k tag f r slot (some f.slug) := by
  simp only [Vol.fileLookup, if_neg hed, hm, hl, hres, hs, Bool.false_eq_true, if_false]

end

/-! ## The reader of an entry (R106, R107) -/

/-- R106: what a fetch takes from an entry. -/
def Entry.info (e : Entry) : VersionInfo :=
  { length := e.image.length, revision := e.image.revision, timestamp := e.image.timestamp, extents := e.image.extents }

/-- R28, R106: a request as it becomes a reader of an entry, a DRAW with its hold. -/
def Vol.asReader (v : Vol) (r : ReqId) (q : Request) (slot : Nat) (e : Entry) : Vol :=
  let read := v.modEntry q.drive slot (fun e => { e with readers := e.readers + 1 })
  (if q.kind = .draw then read.setHold q.drive slot (reqLine r) else read).modReq r (fun q =>
    { q with version := some (.entry slot), info := e.info, slot := slot, onEntry := true, stage := .reading })

section
variable {v : Vol} {r : ReqId} {q : Request} {slot : Nat} {e : Entry}

theorem Vol.req_asReader (h : v.req r = some q) : (v.asReader r q slot e).req r
    = some { q with version := some (.entry slot), info := e.info, slot := slot, onEntry := true, stage := .reading } := by
  unfold Vol.asReader
  rw [Vol.req_modReq_self]
  split
  · unfold Vol.setHold
    rw [Vol.req_nextStamp, Vol.req_modEntry, Vol.req_modEntry, h]
    rfl
  · rw [Vol.req_modEntry, h]
    rfl

theorem Vol.asReader_draw (h : q.kind = .draw) : v.asReader r q slot e
    = ((v.modEntry q.drive slot (fun e => { e with readers := e.readers + 1 })).setHold q.drive slot (reqLine r)).modReq r
      (fun q => { q with version := some (.entry slot), info := e.info, slot := slot, onEntry := true, stage := .reading }) := by
  unfold Vol.asReader
  dsimp only
  rw [if_pos h]

theorem Vol.asReader_fetch (h : q.kind ≠ .draw) : v.asReader r q slot e
    = (v.modEntry q.drive slot (fun e => { e with readers := e.readers + 1 })).modReq r
      (fun q => { q with version := some (.entry slot), info := e.info, slot := slot, onEntry := true, stage := .reading }) := by
  unfold Vol.asReader
  dsimp only
  rw [if_neg h]

theorem Vol.readNext_some (b : Battery) {x : Extent} (h : v.req r = some q) (hx : q.info.extents[q.ordersMade]? = some x) :
    v.readNext b r = (v.makeOrder b r q.drive .read ⟨x.cyl, x.side, x.first, x.count, [], []⟩).modReq r
      (fun q => { q with ordersMade := q.ordersMade + 1 }) := by
  unfold Vol.readNext
  rw [h]
  dsimp only
  rw [hx]

theorem Vol.becomeReader_eq (b : Battery) (direct : Bool) (h : v.req r = some q) (he : v.entry q.drive slot = some e) :
    v.becomeReader b r slot direct = if e.image.extents.isEmpty then
      ((v.asReader r q slot e).releaseReader r).finish r .done e.info.data direct else (v.asReader r q slot e).readNext b r := by
  unfold Vol.becomeReader
  rw [h]
  dsimp only
  rw [he]
  rfl

theorem Vol.becomeReader_empty (b : Battery) (direct : Bool) (h : v.req r = some q) (he : v.entry q.drive slot = some e)
    (hx : e.image.extents = []) :
    v.becomeReader b r slot direct = ((v.asReader r q slot e).releaseReader r).finish r .done e.info.data direct := by
  rw [Vol.becomeReader_eq b direct h he, if_pos (by rw [hx]; rfl)]

theorem Vol.becomeReader_reads (b : Battery) (direct : Bool) {x : Extent} (h : v.req r = some q)
    (he : v.entry q.drive slot = some e) (hx : e.image.extents[q.ordersMade]? = some x) :
    v.becomeReader b r slot direct
      = ((v.asReader r q slot e).makeOrder b r q.drive .read ⟨x.cyl, x.side, x.first, x.count, [], []⟩).modReq r
        (fun q => { q with ordersMade := q.ordersMade + 1 }) := by
  have hne : ¬ e.image.extents.isEmpty = true := fun hn => by
    rw [List.isEmpty_iff.mp hn] at hx
    cases hx
  have hnext := Vol.readNext_some b (Vol.req_asReader (slot := slot) (e := e) h) hx
  rw [Vol.becomeReader_eq b direct h he, if_neg hne, hnext]

/-- R36, R44: a fetch admitted while its entry's catalog write is in flight waits; else it becomes a reader. -/
theorem Vol.admitFetch_waits (b : Battery) (k : Line) (tag : Byte) (kind : ReqKind) (f : StoryFields) :
    v.admitFetch b k tag kind f r slot true = v.openRequest r
      (newRequest tag kind { f with cls := clampClass (b.ceiling k) f.cls } .waiting slot v.stamp) := rfl

theorem Vol.admitFetch_reads (b : Battery) (k : Line) (tag : Byte) (kind : ReqKind) (f : StoryFields) :
    v.admitFetch b k tag kind f r slot false = (v.openRequest r
      (newRequest tag kind { f with cls := clampClass (b.ceiling k) f.cls } .waiting slot v.stamp)).becomeReader b r slot
        true := rfl

/-! ## A reader released (R25, R26) -/

theorem Vol.releaseReader_some {x : VersionRef} (h : v.req r = some q) (hx : q.version = some x) :
    v.releaseReader r = (v.releaseVersion q.drive x).modReq r (fun q => { q with version := none }) := by
  unfold Vol.releaseReader
  rw [h]
  dsimp only
  rw [hx]

theorem Vol.releaseReader_none (h : v.req r = some q) (hx : q.version = none) : v.releaseReader r = v := by
  unfold Vol.releaseReader
  rw [h]
  dsimp only
  rw [hx]

theorem Vol.releaseVersion_record {k : RecNo} {d : DriveNo} {xs : List Extent} {n : Nat} (e : DriveNo)
    (h : v.record k = .inUse d xs n) :
    v.releaseVersion e (.record k) = if n ≤ 1 then (v.setRecord k .free).addFree d (extentSectors xs)
      else v.setRecord k (.inUse d xs (n - 1)) := by
  unfold Vol.releaseVersion
  dsimp only
  rw [h]

/-! ## The ends of orders (R59, R107) -/

/-- R59: the outcome of an order goes to its request by the kind of the order. -/
theorem Vol.respond_read {o : Order} (b : Battery) (oc : OutcomeCode) (h : v.req o.req = some q) (hs : q.stage ≠ .ending)
    (hk : o.kind = .read) :
    v.respond b o oc = if oc = .done then v.fetchOrderDone b o.req else v.finish o.req oc [] false := by
  unfold Vol.respond
  rw [h]
  simp only [if_neg hs, hk]

theorem Vol.fetchOrderDone_next (b : Battery) {x : Extent} (h : v.req r = some q)
    (hx : q.info.extents[q.ordersMade]? = some x) : v.fetchOrderDone b r = v.readNext b r := by
  unfold Vol.fetchOrderDone
  rw [h]
  exact if_pos (List.getElem?_eq_some_iff.mp hx).1

theorem Vol.fetchOrderDone_last (b : Battery) (h : v.req r = some q) (hx : q.info.extents[q.ordersMade]? = none) :
    v.fetchOrderDone b r = (v.releaseReader r).modReq r (fun q => { q with stage := .delivering }) := by
  unfold Vol.fetchOrderDone
  rw [h]
  exact if_neg (Nat.not_lt.mpr (List.getElem?_eq_none_iff.mp hx))

/-! ## A request that waited on a catalog write (R36) -/

theorem Vol.proceed_gone (b : Battery) {m : Mirror} (h : v.req r = some q) (hm : v.mirror q.drive = some m)
    (hl : m.lookup q.slug = none) : v.proceed b r = v.finish r .notFound [] false := by
  unfold Vol.proceed
  rw [h]
  simp only [hm, Option.bind_some, hl]

theorem Vol.proceed_found (b : Battery) {m : Mirror} (h : v.req r = some q) (hm : v.mirror q.drive = some m)
    (hl : m.lookup q.slug = some slot) (he : m.entry slot = some e) :
    v.proceed b r = if q.kind = .draw ∧ 8 ≤ v.holdCount (reqLine r) ∧ e.holder ≠ some (reqLine r) then
      v.finish r .noSlot [] false else v.becomeReader b r slot false := by
  unfold Vol.proceed
  rw [h]
  simp only [hm, Option.bind_some, hl, Vol.entry_of_mirror hm, he, Bool.and_eq_true, decide_eq_true_eq, bne_iff_ne,
    and_assoc]
  rfl

end

/-- Settles O21. -/
theorem fetchAndDrawOpenTheirRequests : Obligations.FetchAndDrawOpenTheirRequests := by
  refine ⟨?_, ?_, ?_, ?_, ?_⟩
  · intro s k tag drive cls edition slug f r slot e hk hp hmay hr ht hready hl he hd q info reading
    have hexec : exec (.fetch k tag drive cls edition slug) s
        = .next (s.finish (s.bat, s.vol.admitFetch s.bat k tag .fetch f r slot e.catWrite.isSome)) := by
      rw [exec_fetch hk, Vol.takeFetch, Vol.readChecks_pass _ hp hmay hr ht hready, Vol.fetchLookup_admits hl he hd]
    have hq : (s.vol.openRequest r q).req r = some q := req_openRequest ..
    have hread : (s.vol.openRequest r q).asReader r q slot e = reading := Vol.asReader_fetch (show ReqKind.fetch ≠ .draw by decide)
    rw [hexec]
    refine ⟨fun h => ?_, fun h x xs hx => ?_, fun h hx => ?_⟩
    · rw [h, Vol.admitFetch_waits]
    · have hfirst : e.image.extents[q.ordersMade]? = some x := by rw [hx]; rfl
      rw [h, Option.isSome_none, Vol.admitFetch_reads, Vol.becomeReader_reads s.bat true hq he hfirst, hread]
      rfl
    · rw [h, Option.isSome_none, Vol.admitFetch_reads, Vol.becomeReader_empty s.bat true hq he hx, hread]
      rfl
  · intro s k tag drive cls edition slug f r slot e hk hp hmay hr ht hready hl he hd hh hf hs q info reading
    have hexec : exec (.draw k tag drive cls edition slug) s
        = .next (s.finish (s.bat, s.vol.admitFetch s.bat k tag .draw f r slot e.catWrite.isSome)) := by
      rw [exec_draw hk, Vol.takeDraw, Vol.readChecks_pass _ hp hmay hr ht hready,
        Vol.drawLookup_admits hl he (Vol.drawCheck_none hd hh hf hs)]
    have hq : (s.vol.openRequest r q).req r = some q := req_openRequest ..
    have hread : (s.vol.openRequest r q).asReader r q slot e = reading := by
      rw [Vol.asReader_draw rfl, reqLine_freeSlotOf hr]
      rfl
    rw [hexec]
    refine ⟨fun h => ?_, fun h x xs hx => ?_, fun h hx => ?_⟩
    · rw [h, Vol.admitFetch_waits]
    · have hfirst : e.image.extents[q.ordersMade]? = some x := by rw [hx]; rfl
      rw [h, Option.isSome_none, Vol.admitFetch_reads, Vol.becomeReader_reads s.bat true hq he hfirst, hread]
      rfl
    · rw [h, Option.isSome_none, Vol.admitFetch_reads, Vol.becomeReader_empty s.bat true hq he hx, hread]
      rfl
  · intro b v d o q hs hk hq hst w
    have hw : w.req o.req = some q := hq
    have hend : ∀ oc, v.orderEnd b d oc = w.respond b o oc := fun oc => Vol.orderEnd_eq b oc hs
    refine ⟨fun x hx => ?_, fun hx => ?_, fun oc hoc => ?_⟩
    · rw [hend, Vol.respond_read b _ hw hst hk, if_pos rfl, Vol.fetchOrderDone_next b hw hx, Vol.readNext_some b hw hx]
    · rw [hend, Vol.respond_read b _ hw hst hk, if_pos rfl, Vol.fetchOrderDone_last b hw hx]
    · rw [hend, Vol.respond_read b _ hw hst hk, if_neg hoc]
  · intro v r q hq left
    refine ⟨fun i hv => Vol.releaseReader_some hq hv, fun k d xs n hv hrec => ⟨fun hn => ?_, fun hn => ?_⟩⟩
    · rw [Vol.releaseReader_some hq hv, Vol.releaseVersion_record _ hrec, if_neg (by omega)]
    · rw [Vol.releaseReader_some hq hv, Vol.releaseVersion_record _ hrec, if_pos hn]
      rfl
  · intro b v r q m hq hm
    refine ⟨Vol.proceed_gone b hq hm, ?_⟩
    intro slot e hl he info read reading full
    have hv : v.entry q.drive slot = some e := (Vol.entry_of_mirror hm).trans he
    have hread : v.asReader r q slot e = reading := rfl
    rw [Vol.proceed_found b hq hm hl he]
    refine ⟨fun h => if_pos h, fun h hx => ?_, fun h x hx => ?_⟩
    · rw [if_neg h, Vol.becomeReader_empty b false hq hv hx, hread]
      rfl
    · rw [if_neg h, Vol.becomeReader_reads b false hq hv hx, hread]

/-- Settles O22. -/
theorem fileOpensItsFiling : Obligations.FileOpensItsFiling := by
  intro s k tag drive cls edition slug f r m hk hp hmay hr ht hready hwp hfault hcopy hed hm opened
  have hexec : exec (.file k tag drive cls edition slug) s
      = .next (s.finish (s.bat, s.vol.fileLookup s.bat k tag f r)) := by
    rw [exec_file hk, Vol.takeFile_pass hp hmay hr ht (writeGate_ok hready hwp hfault hcopy)]
  rw [hexec]
  refine ⟨fun slot e hl he hh hfil hspk hcat => ?_, fun slot hl hres hs => ?_⟩
  · rw [Vol.fileLookup_found hed hm hl he (writeRefusal_none hh hfil hspk hcat)]
    rfl
  · rw [Vol.fileLookup_new hed hm hl hres hs]
    rfl

end Sys2Proof.Machine
end

section
/-! PROOFS. The end of a CATALOG WRITE: the old version retired, what the ends and the goings-on of requests leave of the
entries, and the requests that waited on the slot. -/

namespace Sys2Proof.Machine

/-! ## Requests by the moment of their admission (R136, log 25) -/

/-- The moment the request in a slot was admitted. -/
def Vol.age (v : Vol) (r : ReqId) : Nat := ((v.req r).map Request.admitted).getD 0

theorem Vol.age_eq {v : Vol} {r : ReqId} {q : Request} (h : v.req r = some q) : v.age r = q.admitted := by
  unfold Vol.age
  rw [h]
  rfl

theorem insertByAge_cons (v : Vol) (r x : ReqId) (xs : List ReqId) :
    insertByAge v r (x :: xs) = if v.age r < v.age x then r :: x :: xs else x :: insertByAge v r xs := rfl

theorem insertByAge_perm (v : Vol) (r : ReqId) (l : List ReqId) : (insertByAge v r l).Perm (r :: l) := by
  induction l with
  | nil => exact List.Perm.refl _
  | cons x xs ih =>
    rw [insertByAge_cons]
    split
    · exact List.Perm.refl _
    · exact (ih.cons x).trans (List.Perm.swap r x xs)

theorem insertByAge_sorted (v : Vol) (r : ReqId) {l : List ReqId} (h : l.Pairwise (fun a c => v.age a ≤ v.age c)) :
    (insertByAge v r l).Pairwise (fun a c => v.age a ≤ v.age c) := by
  induction l with
  | nil => exact List.pairwise_singleton _ _
  | cons x xs ih =>
    obtain ⟨hx, hxs⟩ := List.pairwise_cons.mp h
    rw [insertByAge_cons]
    split
    · next hlt =>
      refine List.pairwise_cons.mpr ⟨fun y hy => ?_, h⟩
      obtain rfl | hy := List.mem_cons.mp hy
      · exact Nat.le_of_lt hlt
      · exact Nat.le_trans (Nat.le_of_lt hlt) (hx y hy)
    · next hle =>
      refine List.pairwise_cons.mpr ⟨fun y hy => ?_, ih hxs⟩
      obtain rfl | hy := List.mem_cons.mp ((insertByAge_perm v r xs).mem_iff.mp hy)
      · exact Nat.le_of_not_lt hle
      · exact hx y hy

theorem Vol.foldl_insertByAge (v : Vol) (rs : List ReqId) (acc : List ReqId)
    (h : acc.Pairwise (fun a c => v.age a ≤ v.age c)) :
    (rs.foldl (fun acc r => insertByAge v r acc) acc).Perm (rs ++ acc)
      ∧ (rs.foldl (fun acc r => insertByAge v r acc) acc).Pairwise (fun a c => v.age a ≤ v.age c) := by
  induction rs generalizing acc with
  | nil => exact ⟨List.Perm.refl _, h⟩
  | cons r rs ih =>
    obtain ⟨hperm, hsorted⟩ := ih _ (insertByAge_sorted v r h)
    exact ⟨hperm.trans (((insertByAge_perm v r acc).append_left rs).trans List.perm_middle), hsorted⟩

/-- The occupied slots among some, each as often as there. -/
theorem Vol.byAge_perm (v : Vol) (rs : List ReqId) : (v.byAge rs).Perm (rs.filter (fun r => (v.req r).isSome)) := by
  have h := (v.foldl_insertByAge (rs.filter (fun r => (v.req r).isSome)) [] List.Pairwise.nil).1
  rwa [List.append_nil] at h

/-- The earliest admitted first. -/
theorem Vol.byAge_sorted (v : Vol) (rs : List ReqId) : (v.byAge rs).Pairwise (fun a c => v.age a ≤ v.age c) :=
  (v.foldl_insertByAge _ [] List.Pairwise.nil).2

theorem Vol.mem_byAge {v : Vol} {rs : List ReqId} {r : ReqId} {q : Request} (h : v.req r = some q) :
    r ∈ v.byAge rs ↔ r ∈ rs := by
  rw [(v.byAge_perm rs).mem_iff, List.mem_filter, h]
  exact and_iff_left rfl

/-! ## What the ends of requests leave of the entries -/

/-- An entry keeps its image, and takes no catalog write, no reservation, no filing and no spike. -/
structure Entry.Stands (e e' : Entry) : Prop where
  image : e'.image = e.image
  catWrite : e.catWrite = none → e'.catWrite = none
  reserved : e.reserved = none → e'.reserved = none
  filing : e.filing = none → e'.filing = none
  spike : e.spike = none → e'.spike = none

theorem Entry.Stands.refl (e : Entry) : e.Stands e := ⟨rfl, id, id, id, id⟩

theorem Entry.Stands.trans {e f g : Entry} (h : e.Stands f) (k : f.Stands g) : e.Stands g :=
  ⟨k.image.trans h.image, k.catWrite ∘ h.catWrite, k.reserved ∘ h.reserved, k.filing ∘ h.filing, k.spike ∘ h.spike⟩

/-- The work of one request that begins no catalog write: the other requests stand, the entries stand, and so do the
catalog fault conditions. -/
structure LeavesEntries (r : ReqId) (v w : Vol) : Prop where
  reqs : ∀ p, p ≠ r → w.req p = v.req p
  fault : ∀ d, (w.drive d).cat.fault = (v.drive d).cat.fault
  entries : ∀ d i e, v.entry d i = some e → ∃ e', w.entry d i = some e' ∧ e.Stands e'

theorem LeavesEntries.refl (r : ReqId) (v : Vol) : LeavesEntries r v v :=
  ⟨fun _ _ => rfl, fun _ => rfl, fun _ _ e h => ⟨e, h, Entry.Stands.refl e⟩⟩

theorem LeavesEntries.trans {r : ReqId} {u v w : Vol} (h : LeavesEntries r u v) (g : LeavesEntries r v w) :
    LeavesEntries r u w := by
  refine ⟨fun p hp => (g.reqs p hp).trans (h.reqs p hp), fun d => (g.fault d).trans (h.fault d), fun d i e he => ?_⟩
  obtain ⟨f, hf, hef⟩ := h.entries d i e he
  obtain ⟨e', he', hfe⟩ := g.entries d i f hf
  exact ⟨e', he', hef.trans hfe⟩

theorem Vol.entry_of_cat {v w : Vol} {d : DriveNo} (h : (w.drive d).cat = (v.drive d).cat) (i : Nat) :
    w.entry d i = v.entry d i := by
  unfold Vol.entry Vol.mirror
  rw [h]

theorem leavesEntries_of_cat {r : ReqId} {v w : Vol} (hr : ∀ p, p ≠ r → w.req p = v.req p)
    (hc : ∀ d, (w.drive d).cat = (v.drive d).cat) : LeavesEntries r v w :=
  ⟨hr, fun d => by rw [hc d], fun d i e he => ⟨e, (Vol.entry_of_cat (hc d) i).trans he, Entry.Stands.refl e⟩⟩

/-- A change outside the requests and the drives. -/
theorem leavesEntries_of_fields {r : ReqId} {v w : Vol} (hr : w.reqs = v.reqs) (hd : w.drives = v.drives) :
    LeavesEntries r v w := by
  refine leavesEntries_of_cat (fun p _ => Vol.req_of_reqs hr p) (fun d => ?_)
  unfold Vol.drive
  rw [hd]

theorem Mirror.entry_modEntry_ne (m : Mirror) {i j : Nat} (f : Entry → Entry) (h : j ≠ i) :
    (m.modEntry i f).entry j = m.entry j := by
  unfold Mirror.modEntry Mirror.entry
  dsimp only
  rw [List.getElem?_set_ne (Ne.symm h)]

theorem Vol.mirror_modMirror_ne (v : Vol) {d j : DriveNo} (f : Mirror → Mirror) (h : j ≠ d) :
    (v.modMirror d f).mirror j = v.mirror j := by
  unfold Vol.mirror Vol.modMirror
  rw [Vol.drive_modCat_ne _ _ _ _ h]

theorem Vol.fault_modMirror (v : Vol) (d j : DriveNo) (f : Mirror → Mirror) :
    ((v.modMirror d f).drive j).cat.fault = (v.drive j).cat.fault := by
  unfold Vol.modMirror
  by_cases h : j = d
  · subst h
    rw [Vol.drive_modCat_self]
  · rw [Vol.drive_modCat_ne _ _ _ _ h]

/-- A mirror that changes its sets but not its slots keeps its entries. -/
theorem Vol.entry_modMirror {f : Mirror → Mirror} (h : ∀ m, (f m).slots = m.slots) (v : Vol) (d j : DriveNo) (i : Nat) :
    (v.modMirror d f).entry j i = v.entry j i := by
  unfold Vol.entry
  by_cases hj : j = d
  · subst hj
    rw [Vol.mirror_modMirror_self]
    cases v.mirror j with
    | none => rfl
    | some m => simp [Mirror.entry, h m]
  · rw [Vol.mirror_modMirror_ne _ _ hj]

section
variable (r : ReqId) (v : Vol)

theorem leavesEntries_modMirror (d : DriveNo) {f : Mirror → Mirror} (h : ∀ m, (f m).slots = m.slots) :
    LeavesEntries r v (v.modMirror d f) :=
  ⟨fun _ _ => rfl, fun j => v.fault_modMirror d j f,
    fun j i e he => ⟨e, (Vol.entry_modMirror h v d j i).trans he, Entry.Stands.refl e⟩⟩

theorem leavesEntries_modEntry (d : DriveNo) (i : Nat) (f : Entry → Entry) (h : ∀ e : Entry, e.Stands (f e)) :
    LeavesEntries r v (v.modEntry d i f) := by
  refine ⟨fun _ _ => rfl, fun j => v.fault_modMirror d j _, fun j n e he => ?_⟩
  by_cases hj : j = d
  · subst hj
    by_cases hn : n = i
    · subst hn
      exact ⟨f e, by rw [Vol.entry_modEntry_self, he]; rfl, h e⟩
    · refine ⟨e, ?_, Entry.Stands.refl e⟩
      rw [← he]
      unfold Vol.entry Vol.modEntry
      rw [Vol.mirror_modMirror_self]
      cases v.mirror j with
      | none => rfl
      | some m => exact m.entry_modEntry_ne f hn
  · refine ⟨e, ?_, Entry.Stands.refl e⟩
    rw [← he]
    unfold Vol.entry Vol.modEntry
    rw [Vol.mirror_modMirror_ne _ _ hj]

theorem leavesEntries_modReq (f : Request → Request) : LeavesEntries r v (v.modReq r f) :=
  leavesEntries_of_cat (fun p hp => Vol.req_modReq_ne v r p f hp) (fun _ => rfl)

theorem leavesEntries_setReq (q : Option Request) : LeavesEntries r v (v.setReq r q) :=
  leavesEntries_of_cat (fun p hp => Vol.req_setReq_ne v r p q hp) (fun _ => rfl)

theorem leavesEntries_addFree (d : DriveNo) (xs : List Nat) : LeavesEntries r v (v.addFree d xs) := by
  refine leavesEntries_modMirror r v d ?_
  exact fun _ => rfl

theorem leavesEntries_releaseVersion (d : DriveNo) (x : VersionRef) : LeavesEntries r v (v.releaseVersion d x) := by
  unfold Vol.releaseVersion
  cases x with
  | entry i => exact leavesEntries_modEntry r v d i _ (fun e => ⟨rfl, id, id, id, id⟩)
  | record k =>
    dsimp only
    have hrecord : ∀ x, LeavesEntries r v (v.setRecord k x) := fun _ => leavesEntries_of_fields rfl rfl
    cases v.record k with
    | free => exact LeavesEntries.refl r v
    | claimed _ _ => exact LeavesEntries.refl r v
    | inUse c xs n =>
      dsimp only
      split
      · exact (hrecord .free).trans (leavesEntries_addFree r _ c _)
      · exact hrecord _

theorem leavesEntries_releaseReader : LeavesEntries r v (v.releaseReader r) := by
  cases hq : v.req r with
  | none =>
    unfold Vol.releaseReader
    rw [hq]
    exact LeavesEntries.refl r v
  | some q =>
    cases hx : q.version with
    | none =>
      rw [Vol.releaseReader_none hq hx]
      exact LeavesEntries.refl r v
    | some x =>
      rw [Vol.releaseReader_some hq hx]
      exact (leavesEntries_releaseVersion r v q.drive x).trans (leavesEntries_modReq r _ _)

theorem leavesEntries_dropDraw (q : Request) (oc : OutcomeCode) : LeavesEntries r v (v.dropDraw r q oc) := by
  unfold Vol.dropDraw
  split
  · refine leavesEntries_modEntry r v _ _ _ (fun e => ?_)
    split
    · exact ⟨rfl, id, id, id, id⟩
    · exact Entry.Stands.refl e
  · exact LeavesEntries.refl r v

theorem leavesEntries_dropFiling (q : Request) : LeavesEntries r v (v.dropFiling r q) := by
  unfold Vol.dropFiling
  cases q.session with
  | none => exact LeavesEntries.refl r v
  | some ses =>
    refine (leavesEntries_modMirror r v q.drive ?_).trans (leavesEntries_modEntry r _ q.drive q.slot _ ?_)
    · exact fun _ => rfl
    · intro e
      split
      · exact ⟨rfl, id, fun _ => rfl, fun _ => rfl, id⟩
      · exact Entry.Stands.refl e

theorem leavesEntries_dropSpike (q : Request) : LeavesEntries r v (v.dropSpike r q) := by
  unfold Vol.dropSpike
  split
  · refine leavesEntries_modEntry r v _ _ _ (fun e => ?_)
    split
    · exact ⟨rfl, id, id, id, fun _ => rfl⟩
    · exact Entry.Stands.refl e
  · exact LeavesEntries.refl r v

theorem leavesEntries_returnAll : LeavesEntries r v (v.returnAll r) := by
  rw [Vol.returnAll_eq]
  exact leavesEntries_of_fields rfl rfl

theorem leavesEntries_letGo (oc : OutcomeCode) : LeavesEntries r v (v.letGo r oc) := by
  cases hq : v.req r with
  | none =>
    unfold Vol.letGo
    rw [hq]
    exact LeavesEntries.refl r v
  | some q =>
    rw [Vol.letGo_eq oc hq]
    refine (leavesEntries_releaseReader r v).trans ?_
    refine (leavesEntries_dropDraw r _ q oc).trans ?_
    refine (leavesEntries_dropFiling r _ q).trans ?_
    exact (leavesEntries_dropSpike r _ q).trans (leavesEntries_returnAll r _)

/-- R103: the end of a request. -/
theorem leavesEntries_finish (oc : OutcomeCode) (data : List Byte) (direct : Bool) :
    LeavesEntries r v (v.finish r oc data direct) := by
  cases hq : v.req r with
  | none =>
    unfold Vol.finish
    rw [hq]
    exact LeavesEntries.refl r v
  | some q =>
    cases hs : q.silent with
    | false =>
      rw [Vol.finish_heard oc data direct hq hs]
      exact ((leavesEntries_letGo r v oc).trans (leavesEntries_modReq r _ _)).trans
        (leavesEntries_of_fields rfl rfl)
    | true =>
      rw [Vol.finish_silent oc data direct hq hs]
      exact (leavesEntries_letGo r v oc).trans (leavesEntries_setReq r _ none)

theorem leavesEntries_makeOrder (b : Battery) (d : DriveNo) (kind : OrderKind) (p : OrderPlace) :
    LeavesEntries r v (v.makeOrder b r d kind p) := by
  have hsched : ∀ f, LeavesEntries r v (v.modSched d f) := fun f => by
    refine leavesEntries_of_cat (fun _ _ => rfl) (fun j => ?_)
    by_cases hj : j = d
    · subst hj
      rw [Vol.drive_modSched_self]
    · rw [Vol.drive_modSched_ne _ _ _ _ hj]
  have htests : ∀ (u : Vol) ts, LeavesEntries r u { u with tests := ts } := fun _ _ => leavesEntries_of_fields rfl rfl
  unfold Vol.makeOrder
  cases v.req r with
  | none => exact LeavesEntries.refl r v
  | some q =>
    dsimp only
    split
    · exact (hsched _).trans (htests _ _)
    · exact hsched _

theorem leavesEntries_setHold (d : DriveNo) (i : Nat) (k : Line) : LeavesEntries r v (v.setHold d i k) := by
  have hstamp : ∀ u : Vol, LeavesEntries r u u.nextStamp := fun _ => leavesEntries_of_fields rfl rfl
  unfold Vol.setHold
  refine (leavesEntries_modEntry r v d i _ (fun e => ?_)).trans (hstamp _)
  split
  · exact Entry.Stands.refl e
  · exact ⟨rfl, id, id, id, id⟩

theorem leavesEntries_asReader (q : Request) (slot : Nat) (e : Entry) : LeavesEntries r v (v.asReader r q slot e) := by
  have hread := leavesEntries_modEntry r v q.drive slot (fun e => { e with readers := e.readers + 1 })
    (fun e => ⟨rfl, id, id, id, id⟩)
  by_cases h : q.kind = .draw
  · rw [Vol.asReader_draw h]
    exact (hread.trans (leavesEntries_setHold r _ _ _ _)).trans (leavesEntries_modReq r _ _)
  · rw [Vol.asReader_fetch h]
    exact hread.trans (leavesEntries_modReq r _ _)

theorem leavesEntries_becomeReader (b : Battery) (slot : Nat) (direct : Bool) :
    LeavesEntries r v (v.becomeReader b r slot direct) := by
  cases hq : v.req r with
  | none =>
    unfold Vol.becomeReader
    rw [hq]
    exact LeavesEntries.refl r v
  | some q =>
    cases he : v.entry q.drive slot with
    | none =>
      unfold Vol.becomeReader
      rw [hq]
      dsimp only
      rw [he]
      exact LeavesEntries.refl r v
    | some e =>
      rw [Vol.becomeReader_eq b direct hq he]
      have hread := leavesEntries_asReader r v q slot e
      split
      · exact (hread.trans (leavesEntries_releaseReader r _)).trans (leavesEntries_finish r _ _ _ _)
      · refine hread.trans ?_
        unfold Vol.readNext
        split
        · exact LeavesEntries.refl r _
        · split
          · exact LeavesEntries.refl r _
          · exact (leavesEntries_makeOrder r _ b _ _ _).trans (leavesEntries_modReq r _ _)

/-- R36: a request that goes on after a catalog write. -/
theorem leavesEntries_proceed (b : Battery) : LeavesEntries r v (v.proceed b r) := by
  unfold Vol.proceed
  split
  · exact LeavesEntries.refl r v
  · split
    · exact leavesEntries_finish r v _ _ _
    · split
      · exact leavesEntries_finish r v _ _ _
      · exact leavesEntries_becomeReader r v b _ _

end

/-! ## The requests that waited on the slot (R36, log 25) -/

/-- A FETCH or DRAW waits on the catalog write of a slot. -/
def Vol.waitsOn (v : Vol) (d : DriveNo) (slot : Nat) (r : ReqId) : Bool :=
  match v.req r with
  | none => false
  | some q => decide ((q.kind = .fetch ∨ q.kind = .draw) ∧ q.stage = .waiting ∧ q.drive = d ∧ q.slot = slot)

theorem Vol.waitsOn_iff (v : Vol) (d : DriveNo) (slot : Nat) (r : ReqId) :
    v.waitsOn d slot r = true ↔ ∃ q, v.req r = some q ∧ (q.kind = .fetch ∨ q.kind = .draw) ∧ q.stage = .waiting
      ∧ q.drive = d ∧ q.slot = slot := by
  unfold Vol.waitsOn
  cases v.req r <;> simp

/-- A request that goes on changes no other, so those that go on are those that waited at first. -/
theorem Vol.foldl_proceed (b : Battery) (v : Vol) (d : DriveNo) (slot : Nat) {rs : List ReqId} (hn : rs.Nodup) (w : Vol)
    (h : ∀ r ∈ rs, w.req r = v.req r) :
    rs.foldl (fun w r => match w.req r with
      | none => w
      | some q =>
        if (q.kind = .fetch ∨ q.kind = .draw) ∧ q.stage = .waiting ∧ q.drive = d ∧ q.slot = slot then w.proceed b r
        else w) w
      = (rs.filter (v.waitsOn d slot)).foldl (fun w r => w.proceed b r) w := by
  induction rs generalizing w with
  | nil => rfl
  | cons r rs ih =>
    obtain ⟨hr, hn⟩ := List.nodup_cons.mp hn
    have htail : ∀ u, LeavesEntries r w u → ∀ p ∈ rs, u.req p = v.req p := fun u hu p hp =>
      (hu.reqs p (fun hpr => hr (hpr ▸ hp))).trans (h p (List.mem_cons_of_mem r hp))
    have hself := h r (List.mem_cons_self ..)
    have hwaits := v.waitsOn_iff d slot r
    rw [List.foldl_cons, List.filter_cons, hself]
    cases hq : v.req r with
    | none =>
      rw [if_neg (fun hw => by simp [hq] at hwaits; simp [hwaits] at hw)]
      exact ih hn w (htail w (LeavesEntries.refl r w))
    | some q =>
      dsimp only
      simp only [hq, Option.some.injEq, exists_eq_left'] at hwaits
      split
      · next hc =>
        rw [if_pos (hwaits.mpr hc), List.foldl_cons]
        exact ih hn _ (htail _ (leavesEntries_proceed r w b))
      · next hc =>
        rw [if_neg (mt hwaits.mp hc)]
        exact ih hn w (htail w (LeavesEntries.refl r w))

theorem Vol.nodup_byAge (v : Vol) {rs : List ReqId} (h : rs.Nodup) : (v.byAge rs).Nodup :=
  (v.byAge_perm rs).nodup_iff.mpr (h.filter _)

/-- R36: the requests that waited on a slot go on, earliest admitted first. -/
theorem Vol.wake_eq (b : Battery) (v : Vol) (d : DriveNo) (slot : Nat) :
    v.wake b d slot = ((v.byAge allReqs).filter (v.waitsOn d slot)).foldl (fun w r => w.proceed b r) v :=
  Vol.foldl_proceed b v d slot (v.nodup_byAge allReqs_nodup) v (fun _ _ => rfl)

/-- What those requests leave of the entries. -/
theorem Vol.entries_foldl_proceed (b : Battery) (rs : List ReqId) (v : Vol) :
    (∀ d, ((rs.foldl (fun w r => w.proceed b r) v).drive d).cat.fault = (v.drive d).cat.fault)
      ∧ ∀ d i e, v.entry d i = some e →
        ∃ e', (rs.foldl (fun w r => w.proceed b r) v).entry d i = some e' ∧ e.Stands e' := by
  induction rs generalizing v with
  | nil => exact ⟨fun _ => rfl, fun _ _ e he => ⟨e, he, Entry.Stands.refl e⟩⟩
  | cons r rs ih =>
    obtain ⟨-, hfault, hentries⟩ := leavesEntries_proceed r v b
    obtain ⟨ihf, ihe⟩ := ih (v.proceed b r)
    refine ⟨fun d => (ihf d).trans (hfault d), fun d i e he => ?_⟩
    obtain ⟨f, hf, hef⟩ := hentries d i e he
    obtain ⟨e', he', hfe⟩ := ihe d i f hf
    exact ⟨e', he', hef.trans hfe⟩

/-- What is left of an entry once the request of its catalog write has ended and those that waited on a slot have gone
on. -/
theorem Vol.entry_finish_wake {v : Vol} {d : DriveNo} {i : Nat} {e : Entry} (b : Battery) (r : ReqId) (oc : OutcomeCode)
    (data : List Byte) (c : DriveNo) (slot : Nat) (h : v.entry d i = some e) :
    (∃ e', ((v.finish r oc data false).wake b c slot).entry d i = some e' ∧ e.Stands e')
      ∧ (((v.finish r oc data false).wake b c slot).drive d).cat.fault = (v.drive d).cat.fault := by
  obtain ⟨-, hfault, hentries⟩ := leavesEntries_finish r v oc data false
  rw [Vol.wake_eq]
  obtain ⟨wfault, wentries⟩ := Vol.entries_foldl_proceed b
    (((v.finish r oc data false).byAge allReqs).filter ((v.finish r oc data false).waitsOn c slot)) (v.finish r oc data false)
  obtain ⟨f, hf, hef⟩ := hentries d i e h
  obtain ⟨e', he', hfe⟩ := wentries d i f hf
  exact ⟨⟨e', he', hef.trans hfe⟩, (wfault d).trans (hfault d)⟩

/-! ## The old version retired (R23, R26, R37, R42) -/

theorem Vol.req_foldl_modReq (f : Request → Request) {rs : List ReqId} (hn : rs.Nodup) (v : Vol) (r : ReqId) :
    (rs.foldl (fun w p => w.modReq p f) v).req r = if r ∈ rs then (v.req r).map f else v.req r := by
  induction rs generalizing v with
  | nil => rfl
  | cons p rs ih =>
    obtain ⟨hp, hn⟩ := List.nodup_cons.mp hn
    rw [List.foldl_cons, ih hn]
    by_cases hr : r = p
    · subst hr
      rw [if_neg hp, if_pos (List.mem_cons_self ..), Vol.req_modReq_self]
    · rw [Vol.req_modReq_ne _ _ _ _ hr]
      simp only [List.mem_cons, hr, false_or]

theorem Vol.reqs_alone_foldl_modReq (f : Request → Request) (rs : List ReqId) (v : Vol) :
    ∃ q, rs.foldl (fun w p => w.modReq p f) v = { v with reqs := q } := by
  induction rs generalizing v with
  | nil => exact ⟨v.reqs, rfl⟩
  | cons p rs ih =>
    obtain ⟨q, hq⟩ := ih (v.modReq p f)
    exact ⟨q, hq⟩

/-- R26: the readers of an entry's version refer to the record; nothing else changes. -/
theorem Vol.moveReaders_alone (v : Vol) (d : DriveNo) (i : Nat) (k : RecNo) : ∃ q, v.moveReaders d i k = { v with reqs := q } :=
  Vol.reqs_alone_foldl_modReq _ _ _

theorem Vol.req_moveReaders {v : Vol} {r : ReqId} {q : Request} (d : DriveNo) (i : Nat) (k : RecNo) (h : v.req r = some q) :
    (v.moveReaders d i k).req r
      = some (if q.drive = d ∧ q.version = some (.entry i) then { q with version := some (.record k) } else q) := by
  unfold Vol.moveReaders
  rw [Vol.req_foldl_modReq _ allReqs_nodup, if_pos (mem_allReqs r), h]
  rfl

section
variable (v : Vol) (d : DriveNo) (slot : Nat) (e : Entry) {w : CatWrite} {k : RecNo}

theorem Vol.retireOld_unclaimed (h : w.record = none) :
    v.retireOld d slot e w = v.addFree d (extentSectors e.image.extents) := by
  unfold Vol.retireOld
  rw [h]

theorem Vol.retireOld_unread (h : w.record = some k) (hr : e.readers = 0) :
    v.retireOld d slot e w = (v.setRecord k .free).addFree d (extentSectors e.image.extents) := by
  unfold Vol.retireOld
  rw [h]
  exact if_pos hr

theorem Vol.retireOld_read (h : w.record = some k) (hr : 0 < e.readers) :
    v.retireOld d slot e w = (v.setRecord k (.inUse d e.image.extents e.readers)).moveReaders d slot k := by
  unfold Vol.retireOld
  rw [h]
  exact if_neg (Nat.ne_of_gt hr)

/-- The old version leaves the entries and the fault conditions as they are. -/
theorem Vol.catalog_retireOld (w : CatWrite) : (∀ j i, (v.retireOld d slot e w).entry j i = v.entry j i)
    ∧ ∀ j, ((v.retireOld d slot e w).drive j).cat.fault = (v.drive j).cat.fault := by
  have hfree : ∀ (u : Vol) xs, (∀ j i, (u.addFree d xs).entry j i = u.entry j i)
      ∧ ∀ j, ((u.addFree d xs).drive j).cat.fault = (u.drive j).cat.fault := by
    intro u xs
    refine ⟨fun j i => Vol.entry_modMirror ?_ u d j i, fun j => u.fault_modMirror d j _⟩
    exact fun _ => rfl
  cases hw : w.record with
  | none =>
    rw [Vol.retireOld_unclaimed v d slot e hw]
    exact hfree v _
  | some k =>
    obtain hr | hr := Nat.eq_zero_or_pos e.readers
    · rw [Vol.retireOld_unread v d slot e hw hr]
      exact hfree _ _
    · rw [Vol.retireOld_read v d slot e hw hr]
      obtain ⟨q, hq⟩ := Vol.moveReaders_alone (v.setRecord k (.inUse d e.image.extents e.readers)) d slot k
      rw [hq]
      exact ⟨fun _ _ => rfl, fun _ => rfl⟩

end

/-! ## The end of a CATALOG WRITE (R37, R38, R42) -/

/-- R37: whether a filing asked for its hold to be kept. -/
def Request.keepsHold (q : Request) : Bool :=
  match q.session with
  | some ses => ses.keepHold
  | none => false

/-- R37: the entry a commit leaves in service. -/
def Entry.committed (k : Line) (keep drawing : Bool) (w : CatWrite) (e : Entry) : Entry :=
  { e with image := w.image, readers := 0, reserved := none, catWrite := none, filing := none,
           holder := if e.holder = some k ∧ keep = false ∧ drawing = false then none else e.holder }

/-- R42: the entry a spike leaves. -/
def Entry.spiked (e : Entry) : Entry :=
  { e with image := SlotImage.freeImage, readers := 0, catWrite := none, spike := none, holder := none }

/-- R38, R45: the machine with the failed catalog write off its entry. -/
def Vol.writeLost (v : Vol) (q : Request) (w : CatWrite) (oc : OutcomeCode) : Vol :=
  let after := (v.unclaim w).modEntry q.drive q.slot (fun e => { e with catWrite := none })
  if oc = .writeProtected then after else after.modCat q.drive (fun c => { c with fault := true })

theorem Vol.modEntry_congr {v : Vol} {d : DriveNo} {i : Nat} {e : Entry} {f g : Entry → Entry} (h : v.entry d i = some e)
    (hfg : f e = g e) : v.modEntry d i f = v.modEntry d i g := by
  have hm : (v.mirror d).map (fun m => m.modEntry i f) = (v.mirror d).map (fun m => m.modEntry i g) := by
    unfold Vol.entry at h
    cases hv : v.mirror d with
    | none => rfl
    | some m =>
      rw [hv] at h
      have he : m.entry i = some e := h
      simp [Mirror.modEntry, he, hfg]
  unfold Vol.modEntry Vol.modMirror Vol.modCat
  refine Vol.modDrive_congr ?_
  unfold Vol.mirror at hm
  dsimp only
  rw [hm]

section
variable {v : Vol} {r : ReqId} {q : Request} {e : Entry} {w : CatWrite} (b : Battery)

theorem Vol.catalogWriteEnd_failed (h : v.req r = some q) (he : v.entry q.drive q.slot = some e) (hw : e.catWrite = some w)
    {oc : OutcomeCode} (hoc : oc ≠ .done) :
    v.catalogWriteEnd b r oc = ((v.writeLost q w oc).finish r oc [] false).wake b q.drive q.slot := by
  unfold Vol.catalogWriteEnd
  rw [h]
  dsimp only
  rw [he]
  dsimp only
  rw [hw]
  exact if_pos hoc

theorem Vol.catalogWriteEnd_spike (h : v.req r = some q) (he : v.entry q.drive q.slot = some e) (hw : e.catWrite = some w)
    (hk : q.kind = .spike) :
    v.catalogWriteEnd b r .done = ((((v.retireOld q.drive q.slot e w).modEntry q.drive q.slot Entry.spiked).leaveEntry
      q.drive q.slot).finish r .done [] false).wake b q.drive q.slot := by
  unfold Vol.catalogWriteEnd
  rw [h]
  dsimp only
  rw [he]
  dsimp only
  rw [hw]
  simp only [ne_eq, not_true, if_false, hk, if_true]
  rfl

theorem Vol.catalogWriteEnd_commit (h : v.req r = some q) (he : v.entry q.drive q.slot = some e) (hw : e.catWrite = some w)
    (hk : q.kind ≠ .spike) :
    v.catalogWriteEnd b r .done = ((((v.retireOld q.drive q.slot e w).modEntry q.drive q.slot (Entry.committed (reqLine r)
      q.keepsHold (v.drawOpen (reqLine r) q.drive q.slot) w)).modSession r (fun t => { t with pending := [] })).finish r .done
        (be16 w.image.revision ++ w.image.timestamp) false).wake b q.drive q.slot := by
  unfold Vol.catalogWriteEnd
  rw [h]
  dsimp only
  rw [he]
  dsimp only
  rw [hw]
  simp only [ne_eq, not_true, if_false, hk]
  rfl

end

/-- R42: the requests on a spiked story leave it; nothing else changes. -/
theorem Vol.leaveEntry_alone (v : Vol) (d : DriveNo) (i : Nat) : ∃ q, v.leaveEntry d i = { v with reqs := q } :=
  Vol.reqs_alone_foldl_modReq _ _ _

/-- R38, R45: a failed catalog write leaves its entry as it was served. -/
theorem Vol.catalog_writeLost {v : Vol} {q : Request} {e : Entry} (w : CatWrite) (oc : OutcomeCode)
    (he : v.entry q.drive q.slot = some e) :
    (v.writeLost q w oc).entry q.drive q.slot = some { e with catWrite := none }
      ∧ ((v.writeLost q w oc).drive q.drive).cat.fault = ((v.drive q.drive).cat.fault || oc != .writeProtected) := by
  have hdrives : (v.unclaim w).drives = v.drives := by
    unfold Vol.unclaim
    split <;> rfl
  have hcat : ∀ d, (v.unclaim w).drive d = v.drive d := fun d => by
    unfold Vol.drive
    rw [hdrives]
  have hentry : ((v.unclaim w).modEntry q.drive q.slot (fun e => { e with catWrite := none })).entry q.drive q.slot
      = some { e with catWrite := none } := by
    rw [Vol.entry_modEntry_self, Vol.entry_of_cat (congrArg Drive.cat (hcat _)), he]
    rfl
  unfold Vol.writeLost
  dsimp only
  split
  · next hoc =>
    refine ⟨hentry, (Vol.fault_modMirror _ _ _ _).trans ?_⟩
    rw [hcat, hoc]
    exact (Bool.or_false _).symm
  · next hoc =>
    refine ⟨?_, ?_⟩
    · rw [← hentry]
      unfold Vol.entry Vol.mirror
      rw [Vol.drive_modCat_self]
    · rw [Vol.drive_modCat_self, bne_eq_decide_ne, decide_eq_true hoc, Bool.or_true]

/-- R38, R118: what a filing that ends lets go of, when it is no reader. -/
theorem Vol.letGo_filing {v : Vol} {r : ReqId} {q : Request} (oc : OutcomeCode) (h : v.req r = some q)
    (hk : q.kind = .file) (hx : q.version = none) :
    v.letGo r oc = (v.dropFiling r q).returnAll r := by
  have hdraw : v.dropDraw r q oc = v := by
    unfold Vol.dropDraw
    exact if_neg (fun g => by rw [hk] at g; cases g.1)
  have hspike : ∀ u : Vol, u.dropSpike r q = u := fun u => by
    unfold Vol.dropSpike
    exact if_neg (by rw [hk]; decide)
  rw [Vol.letGo_eq oc h, Vol.releaseReader_none h hx, hdraw, hspike]

/-- R37, R38, R42, R45: what the end of a CATALOG WRITE leaves in its entry, and of the catalog fault condition. -/
theorem Vol.entry_catalogWriteEnd {v : Vol} {r : ReqId} {q : Request} {e : Entry} {w : CatWrite} (b : Battery)
    (oc : OutcomeCode) (h : v.req r = some q) (he : v.entry q.drive q.slot = some e) (hw : e.catWrite = some w) :
    ∃ e', (v.catalogWriteEnd b r oc).entry q.drive q.slot = some e' ∧ e'.catWrite = none
      ∧ (oc = .done → q.kind ≠ .spike → e'.image = w.image ∧ e'.reserved = none ∧ e'.filing = none)
      ∧ (oc = .done → q.kind = .spike → e'.image = SlotImage.freeImage ∧ e'.spike = none)
      ∧ (oc ≠ .done → e'.image = e.image)
      ∧ ((v.catalogWriteEnd b r oc).drive q.drive).cat.fault
        = ((v.drive q.drive).cat.fault || (oc != .done && oc != .writeProtected)) := by
  obtain ⟨hold, hfault⟩ := v.catalog_retireOld q.drive q.slot e w
  have hretired : ∀ f : Entry → Entry, ((v.retireOld q.drive q.slot e w).modEntry q.drive q.slot f).entry q.drive q.slot
      = some (f e) := fun f => by rw [Vol.entry_modEntry_self, hold, he]; rfl
  have hkept : ∀ f : Entry → Entry, (((v.retireOld q.drive q.slot e w).modEntry q.drive q.slot f).drive q.drive).cat.fault
      = (v.drive q.drive).cat.fault := fun f => (Vol.fault_modMirror _ _ _ _).trans (hfault _)
  by_cases hoc : oc = .done
  · subst hoc
    by_cases hk : q.kind = .spike
    · obtain ⟨u, hu⟩ := Vol.leaveEntry_alone ((v.retireOld q.drive q.slot e w).modEntry q.drive q.slot Entry.spiked)
        q.drive q.slot
      obtain ⟨⟨e', he', hs⟩, hf⟩ := Vol.entry_finish_wake b r .done [] q.drive q.slot
        (v := { (v.retireOld q.drive q.slot e w).modEntry q.drive q.slot Entry.spiked with reqs := u }) (hretired _)
      rw [Vol.catalogWriteEnd_spike b h he hw hk, hu]
      refine ⟨e', he', hs.catWrite rfl, fun _ g => absurd hk g, fun _ _ => ⟨hs.image, hs.spike rfl⟩, fun g => absurd rfl g, ?_⟩
      exact hf.trans ((hkept _).trans (Bool.or_false _).symm)
    · obtain ⟨⟨e', he', hs⟩, hf⟩ := Vol.entry_finish_wake b r .done (be16 w.image.revision ++ w.image.timestamp) q.drive q.slot
        (v := ((v.retireOld q.drive q.slot e w).modEntry q.drive q.slot (Entry.committed (reqLine r) q.keepsHold
          (v.drawOpen (reqLine r) q.drive q.slot) w)).modSession r (fun t => { t with pending := [] })) (hretired _)
      rw [Vol.catalogWriteEnd_commit b h he hw hk]
      refine ⟨e', he', hs.catWrite rfl, fun _ _ => ⟨hs.image, hs.reserved rfl, hs.filing rfl⟩, fun _ g => absurd g hk,
        fun g => absurd rfl g, ?_⟩
      exact hf.trans ((hkept _).trans (Bool.or_false _).symm)
  · obtain ⟨hlost, hfault⟩ := Vol.catalog_writeLost w oc he
    obtain ⟨⟨e', he', hs⟩, hf⟩ := Vol.entry_finish_wake b r oc [] q.drive q.slot hlost
    rw [Vol.catalogWriteEnd_failed b h he hw hoc]
    refine ⟨e', he', hs.catWrite rfl, fun g => absurd g hoc, fun g => absurd g hoc, fun _ => hs.image, ?_⟩
    rw [hf, hfault, bne_eq_decide_ne oc .done, decide_eq_true hoc, Bool.true_and]

/-- Settles O55. -/
theorem theEndOfACatalogWrite : Obligations.TheEndOfACatalogWrite := by
  refine ⟨?_, ?_, ?_, ?_, ?_⟩
  · intro b v r q e w oc hq he hw
    refine ⟨Vol.entry_catalogWriteEnd b oc hq he hw, ?_, ?_, ?_⟩
    · rintro rfl hk
      exact Vol.catalogWriteEnd_spike b hq he hw hk
    · rintro rfl hk ses hs dropped
      have hkeeps : q.keepsHold = ses.keepHold := by
        unfold Request.keepsHold
        rw [hs]
      have hold : (v.retireOld q.drive q.slot e w).entry q.drive q.slot = some e :=
        ((v.catalog_retireOld q.drive q.slot e w).1 _ _).trans he
      have hentry := Vol.modEntry_congr hold (f := Entry.committed (reqLine r) ses.keepHold
          (v.drawOpen (reqLine r) q.drive q.slot) w) (g := fun x => { x with
            image := w.image, readers := 0, reserved := none, catWrite := none, filing := none,
            holder := if dropped then none else x.holder }) rfl
      rw [Vol.catalogWriteEnd_commit b hq he hw hk, hkeeps, hentry]
    · intro hoc freed after
      exact Vol.catalogWriteEnd_failed b hq he hw hoc
  · intro v d slot e w joins
    refine ⟨Vol.retireOld_unclaimed v d slot e, fun k hk hr => Vol.retireOld_unread v d slot e hk hr, fun k hk hr => ?_⟩
    obtain ⟨p, hp⟩ := Vol.moveReaders_alone (v.setRecord k (.inUse d e.image.extents e.readers)) d slot k
    rw [Vol.retireOld_read v d slot e hk hr]
    refine ⟨?_, ?_, fun r q hq => Vol.req_moveReaders d slot k hq⟩
    · rw [hp]
      exact Vol.record_setRecord_self v k _
    · rw [hp]
      rfl
  · exact fun free xs x => mem_addSectors x xs free
  · intro v r q ses oc hq hk hx hs
    rw [Vol.letGo_filing oc hq hk hx, Vol.dropFiling_eq, hs]
  · intro b v d slot
    refine ⟨(v.byAge allReqs).filter (v.waitsOn d slot), (v.nodup_byAge allReqs_nodup).filter _, fun r => ?_, ?_,
      Vol.wake_eq b v d slot⟩
    · rw [List.mem_filter, v.waitsOn_iff d slot r]
      refine and_iff_right_of_imp ?_
      rintro ⟨q, hq, -⟩
      exact (Vol.mem_byAge hq).mpr (mem_allReqs r)
    · refine ((v.byAge_sorted allReqs).filter _).imp (fun {a c} hac p q hp hq => ?_)
      rwa [Vol.age_eq hp, Vol.age_eq hq] at hac

end Sys2Proof.Machine
end

section
/-! PROOFS. Text ended: CLOSE, the write orders of a filing and their ends, and the commit that is due. -/

namespace Sys2Proof.Machine

/-! ## CLOSE (R116) -/

theorem exec_close {s : State} {k : Line} (h : s.hears k) (tag keep : Byte) :
    exec (.close k tag keep) s = .next (s.finish (s.bat, s.vol.takeClose s.bat k tag keep)) := exec_hears h rfl

/-- R116: a filing in CLOSING, its idle limit stopped and its keep-hold flag taken. -/
def Vol.beginClosing (v : Vol) (r : ReqId) (ses : Session) (on : Bool) : Vol :=
  v.modReq r (fun q => { q with stage := .closing, session := some { ses with keepHold := on, idle := false } })

theorem Vol.takeClose_eq {v : Vol} {k : Line} {tag keep : Byte} {on : Bool} {r : ReqId} {q : Request} {ses : Session}
    (b : Battery) (ht : tag ≠ 0) (hp : parseFlag keep = some on) (hr : v.openFiling k tag = some r) (hq : v.req r = some q)
    (hs : q.session = some ses) :
    v.takeClose b k tag keep = ((v.beginClosing r ses on).flushFill r ses).closeOn b r := by
  simp only [Vol.takeClose, hp, tagOk_of ht, hr, hq, Option.bind_some, hs, Bool.not_true, Bool.false_eq_true, if_false]
  rfl

/-- R116: the session as the fill buffer has joined the full ones. -/
def Session.flushed (ses : Session) : Session :=
  match ses.fill with
  | none => ses
  | some x => { ses with fill := none, fillBytes := 0, full := ses.full ++ [x] }

theorem Session.full_flushed_eq_nil (ses : Session) : ses.flushed.full = [] ↔ ses.fill = none ∧ ses.full = [] := by
  unfold Session.flushed
  cases ses.fill <;> simp

theorem Vol.req_flushFill {v : Vol} {r : ReqId} {q : Request} {ses : Session} (h : v.req r = some q) {t : Session}
    (hs : q.session = some t) (hf : t.fill = ses.fill) : (v.flushFill r ses).req r = some { q with session := some t.flushed } := by
  unfold Vol.flushFill Session.flushed
  rw [← hf]
  cases t.fill with
  | none =>
    dsimp only
    rw [h, ← hs]
  | some x =>
    dsimp only
    unfold Vol.modSession Vol.fillBuf
    rw [Vol.req_modReq_self, Vol.req_setBuf, h, Option.map_some, hs]
    rfl

theorem Vol.drive_flushFill (v : Vol) (r : ReqId) (ses : Session) (d : DriveNo) : (v.flushFill r ses).drive d = v.drive d := by
  unfold Vol.flushFill
  split <;> rfl

/-- R116: with no write order in flight the last buffers are written, or the commit is due. -/
theorem Vol.closeOn_eq {v : Vol} {r : ReqId} {q : Request} {ses : Session} (b : Battery) (h : v.req r = some q)
    (hs : q.session = some ses) :
    v.closeOn b r = if (v.drive q.drive).sched.hasOrder r then v else if ses.full = [] then v.commitDue b r
      else v.formWrite b r true := by
  unfold Vol.closeOn
  rw [h]
  simp only [hs, List.isEmpty_iff]
  rfl

/-! ## The order formed for full buffers (R31 to R33, R114) -/

section
variable {v : Vol} {r : ReqId} {q : Request} {ses : Session} {m : Mirror} (b : Battery) (direct : Bool)

/-- R31, R114: the run chosen for the full buffers of a filing, up to 8 of them. -/
def writeRun (v : Vol) (q : Request) (ses : Session) (m : Mirror) : Option (Nat × Nat) :=
  chooseRun m.free (startPoint ses.lastSector (v.drive q.drive).seq.cyl) (min 8 ses.full.length)

theorem Vol.formWrite_full (h : v.req r = some q) (hs : q.session = some ses) (hm : v.mirror q.drive = some m)
    (hrun : writeRun v q ses m = none) : v.formWrite b r direct = v.finish r .disketteFull [] direct := by
  unfold writeRun at hrun
  simp only [Vol.formWrite, h, hs, hm, Config.requestBuffers, hrun]

theorem Vol.formWrite_fragmented {x k : Nat} (h : v.req r = some q) (hs : q.session = some ses)
    (hm : v.mirror q.drive = some m) (hrun : writeRun v q ses m = some (x, k)) (hg : growExtents ses.pending x k = none) :
    v.formWrite b r direct = v.finish r .fragmented [] direct := by
  unfold writeRun at hrun
  simp only [Vol.formWrite, h, hs, hm, Config.requestBuffers, hrun, hg]

theorem extentSectors_singleton (e : Extent) : extentSectors [e] = e.sectors := List.append_nil _

theorem Vol.formWrite_makes {x k : Nat} {es : List Extent} (h : v.req r = some q) (hs : q.session = some ses)
    (hm : v.mirror q.drive = some m) (hrun : writeRun v q ses m = some (x, k)) (hg : growExtents ses.pending x k = some es) :
    v.formWrite b r direct
      = ((v.modMirror q.drive (fun m => { m with free := removeSectors m.free (extentOfRun x k).sectors })).modSession r
          (fun t => { t with pending := es, lastSector := some (x + k - 1), full := ses.full.drop k })).makeOrder b r q.drive
        .write ⟨(extentOfRun x k).cyl, (extentOfRun x k).side, (extentOfRun x k).first, (extentOfRun x k).count, [],
          ses.full.take k⟩ := by
  have hsession : ∀ u : Vol, u.req r = some q →
      u.modSession r (fun t => { t with pending := es, lastSector := some (x + k - 1), full := t.full.drop k })
        = u.modSession r (fun t => { t with pending := es, lastSector := some (x + k - 1), full := ses.full.drop k }) :=
    fun u hu => Vol.modReq_congr hu (by simp only [hs, Option.map_some])
  unfold writeRun at hrun
  simp only [Vol.formWrite, h, hs, hm, Config.requestBuffers, hrun, hg, extentSectors_singleton]
  rw [hsession _ ((Vol.req_modMirror ..).trans h)]

end

/-! ## The commit that is due (R34, R104) -/

theorem Vol.takeBuf_eq_none_iff (v : Vol) (r : ReqId) : v.takeBuf r = none ↔ v.freeBufs = 0 := by
  unfold Vol.takeBuf Vol.freeBufs
  rw [List.length_eq_zero_iff, List.filter_eq_nil_iff]
  cases h : allBufs.find? (fun b => (v.buf b).owner == none) with
  | none => exact iff_of_true rfl (List.find?_eq_none.mp h)
  | some x => exact iff_of_false nofun (fun g => g x (List.mem_of_find?_eq_some h) (List.find?_some (p := fun b => (v.buf b).owner == none) h))

theorem Vol.takeBuf_some {v w : Vol} {r : ReqId} {x : BufNo} (h : v.takeBuf r = some (x, w)) :
    w = v.setBuf x { v.buf x with owner := some r } := by
  unfold Vol.takeBuf at h
  split at h
  · cases h
  · cases h
    rfl

section
variable {v : Vol} {r : ReqId} {q : Request}

theorem Vol.takeForCommit_eq (h : v.req r = some q) : v.takeForCommit r = match q.catBuf, v.takeBuf r with
    | none, some (x, w) => w.modReq r (fun q => { q with catBuf := some x })
    | _, _ => v := by
  unfold Vol.takeForCommit
  rw [h, Option.bind_some]
  cases q.catBuf with
  | some x => rfl
  | none => cases v.takeBuf r <;> rfl

/-- R34: a filing whose commit is due has a buffer exactly where it kept one or one was free. -/
theorem Vol.takeForCommit_spec (h : v.req r = some q) : ∃ c, (v.takeForCommit r).req r = some { q with catBuf := c }
    ∧ ((c ≠ none ∨ 1 ≤ (v.takeForCommit r).freeBufs) ↔ (q.catBuf ≠ none ∨ 1 ≤ v.freeBufs))
    ∧ (v.takeForCommit r).stamp = v.stamp ∧ (v.takeForCommit r).freeRecord = v.freeRecord
    ∧ ∀ d i, (v.takeForCommit r).entry d i = v.entry d i := by
  rw [Vol.takeForCommit_eq h]
  cases hc : q.catBuf with
  | some x =>
    have hq : q = { q with catBuf := some x } := by rw [← hc]
    exact ⟨some x, h.trans (congrArg some hq), iff_of_true (.inl nofun) (.inl nofun), rfl, rfl, fun _ _ => rfl⟩
  | none =>
    cases ht : v.takeBuf r with
    | none =>
      have hq : q = { q with catBuf := none } := by rw [← hc]
      exact ⟨none, h.trans (congrArg some hq), Iff.rfl, rfl, rfl, fun _ _ => rfl⟩
    | some p =>
      obtain ⟨x, w⟩ := p
      have hw := Vol.takeBuf_some ht
      have hfree : v.freeBufs ≠ 0 := fun g => by
        rw [(v.takeBuf_eq_none_iff r).mpr g] at ht
        cases ht
      subst hw
      refine ⟨some x, ?_, iff_of_true (.inl nofun) (.inr (Nat.one_le_iff_ne_zero.mpr hfree)), rfl, rfl, fun _ _ => rfl⟩
      dsimp only
      rw [Vol.req_modReq_self, Vol.req_setBuf, h]
      rfl

/-- R34: a filing whose commit is due goes on where it has a buffer and, for a version with readers, a record is free. -/
theorem Vol.canWrite_takeForCommit {e : Entry} (h : v.req r = some q) (he : v.entry q.drive q.slot = some e) :
    ∃ p, (v.takeForCommit r).req r = some p ∧ p.kind = q.kind ∧ ((v.takeForCommit r).canWrite p = true
      ↔ (q.catBuf ≠ none ∨ 1 ≤ v.freeBufs) ∧ (e.readers = 0 ∨ v.freeRecord ≠ none)) := by
  obtain ⟨c, hreq, hbuf, -, hrecord, hentry⟩ := Vol.takeForCommit_spec h
  refine ⟨_, hreq, rfl, ?_⟩
  rw [Vol.canWrite_iff, hrecord, hentry, he]
  simp only [Option.some.injEq, exists_eq_left']
  rw [hbuf, imp_iff_not_or, Nat.pos_iff_ne_zero, not_not]

theorem Vol.commitDue_eq (b : Battery) : v.commitDue b r = (v.takeForCommit r).writeDue b r := rfl

end

/-! ## The end of a write order (R59, R115) -/

section
variable {v : Vol} {o : Order} {q : Request} {ses : Session} (b : Battery)

theorem Vol.respond_write (oc : OutcomeCode) (h : v.req o.req = some q) (hs : q.stage ≠ .ending) (hk : o.kind = .write) :
    v.respond b o oc = if oc = .done then v.writeOrderDone b o.req o else v.finish o.req oc [] false := by
  unfold Vol.respond
  rw [h]
  simp only [if_neg hs, hk]

theorem Vol.writeOrderDone_eq (h : v.req o.req = some q) (hs : q.session = some ses) :
    v.writeOrderDone b o.req o = if ses.full = [] then
      (if q.stage = .closing then
        ((v.returnBufs o.buffers.tail).modReq o.req (fun q => { q with catBuf := o.buffers.head? })).commitDue b o.req
      else v.returnBufs o.buffers)
      else (v.returnBufs o.buffers).formWrite b o.req false := by
  unfold Vol.writeOrderDone
  rw [h]
  cases hf : ses.full <;> simp [hs, hf]

end

/-- Settles O25. -/
theorem closeEndsTheText : Obligations.CloseEndsTheText := by
  refine ⟨?_, ?_, ?_, ?_⟩
  · intro s k tag keep on r q ses hk ht hp hr hq hs closing v closed inFlight
    have hclosing : closing.req r
        = some { q with stage := .closing, session := some { ses with keepHold := on, idle := false } } := by
      rw [Vol.req_modReq_self, hq]
      rfl
    have hv : closing.flushFill r ses = v := by
      unfold Vol.flushFill
      cases hf : ses.fill with
      | none =>
        simp only [v, hf]
      | some x =>
        simp only [v, hf]
        rfl
    have hvr : v.req r = _ := hv ▸ Vol.req_flushFill (ses := ses) hclosing rfl rfl
    have hinFlight : (v.drive q.drive).sched.hasOrder r = inFlight := by
      rw [← hv, Vol.drive_flushFill]
      rfl
    have hfull := Session.full_flushed_eq_nil { ses with keepHold := on, idle := false }
    have hexec : exec (.close k tag keep) s = .next (s.finish (s.bat, v.closeOn s.bat r)) := by
      rw [exec_close hk, Vol.takeClose_eq s.bat ht hp hr hq hs, ← hv]
      rfl
    have hclose := Vol.closeOn_eq s.bat hvr rfl
    dsimp only at hclose hfull
    rw [hinFlight] at hclose
    rw [hclose] at hexec
    refine ⟨fun h => ?_, fun h hbufs => ?_, fun h hfill hnone => ?_⟩
    · rwa [if_pos h] at hexec
    · rwa [if_neg (by rw [h]; decide), if_neg (mt hfull.mp (not_and_or.mpr hbufs))] at hexec
    · rwa [if_neg (by rw [h]; decide), if_pos (hfull.mpr ⟨hfill, hnone⟩)] at hexec
  · intro b v r direct q ses m hq hs hm run
    refine ⟨Vol.formWrite_full b direct hq hs hm, fun x k hrun => ⟨Vol.formWrite_fragmented b direct hq hs hm hrun, ?_⟩⟩
    intro es hg e
    exact Vol.formWrite_makes b direct hq hs hm hrun hg
  · intro b v r q e hq hk he taken ready
    have htaken : v.takeForCommit r = taken := Vol.takeForCommit_eq hq
    obtain ⟨p, hp, hpk, hcan⟩ := Vol.canWrite_takeForCommit hq he
    obtain ⟨-, -, -, hstamp, -, -⟩ := Vol.takeForCommit_spec hq
    rw [Vol.commitDue_eq, Vol.writeDue_eq hp, hstamp]
    refine ⟨fun h => ?_, fun h => ?_⟩
    · rw [if_pos (hcan.mpr h), htaken]
    · have hstage : (if p.kind = .spike then Stage.waiting else .commitWait) = .commitWait := by
        rw [hpk, hk]
        rfl
      rw [if_neg (mt hcan.mp h), ← htaken]
      refine congrArg Vol.nextStamp (Vol.modReq_congr hp ?_)
      rw [hstage]
  · intro b v d o q ses hserv hk hq hs hst w
    have hw : w.req o.req = some q := hq
    have hend : ∀ oc, v.orderEnd b d oc = w.respond b o oc := fun oc => Vol.orderEnd_eq b oc hserv
    have hdone : v.orderEnd b d .done = w.writeOrderDone b o.req o := by
      rw [hend, Vol.respond_write b _ hw hst hk, if_pos rfl]
    rw [hdone, Vol.writeOrderDone_eq b hw hs]
    refine ⟨fun h => if_neg h, fun h hc => ?_, fun h hc => ?_, fun oc hoc => ?_⟩
    · rw [if_pos h, if_pos hc]
    · rw [if_pos h, if_neg hc]
    · rw [hend, Vol.respond_write b _ hw hst hk, if_neg hoc]

end Sys2Proof.Machine
end

section
/-! PROOFS. Holds dropped and stories listed: RELEASE, BREAK and LIST. -/

namespace Sys2Proof.Machine

section
variable {s : State} {k : Line}

theorem exec_release (h : s.hears k) (tag drive : Byte) (slug : List Byte) :
    exec (.release k tag drive slug) s = .next (s.finish (s.bat, s.vol.takeRelease k tag drive slug)) := exec_hears h rfl

theorem exec_breakHold (h : s.hears k) (tag drive : Byte) (slug : List Byte) :
    exec (.breakHold k tag drive slug) s = .next (s.finish (takeBreak k tag drive slug s.bat s.vol)) := exec_hears h rfl

theorem exec_list (h : s.hears k) (tag drive count : Byte) (pattern : List Byte) :
    exec (.list k tag drive count pattern) s
      = .next (s.finish (s.bat, s.vol.takeList s.bat k tag drive count pattern)) := exec_hears h rfl

end

/-! ## RELEASE and BREAK (R30, R154) -/

section
variable {v : Vol} {k : Line} {tag drive : Byte} {slug g : List Byte} {d : DriveNo} {slot : Nat} {e : Entry}

/-- R30: RELEASE of an entry found drops the line's own hold. -/
theorem Vol.takeRelease_found (hp : parseNamed tag drive slug = some (d, g)) (hready : v.mount d = .ready)
    (hl : (v.mirror d).bind (fun m => m.lookup g) = some slot) (he : v.entry d slot = some e) :
    v.takeRelease k tag drive slug = if e.holder = some k then
      (v.modEntry d slot (fun e => { e with holder := none })).answer k tag .done [] else v.answer k tag .notFound [] := by
  simp only [Vol.takeRelease, hp, Vol.ready_of hready, hl, he, Option.bind_some, Bool.not_true, Bool.false_eq_true, if_false]
  rfl

/-- R154: BREAK of an entry found drops the hold of whatever line, with HOLD LOST on that line's record. -/
theorem takeBreak_found {j : Line} (b : Battery) (hk : k = supervisorLine) (hp : parseNamed tag drive slug = some (d, g))
    (hready : v.mount d = .ready) (hl : (v.mirror d).bind (fun m => m.lookup g) = some slot) (he : v.entry d slot = some e)
    (hj : e.holder = some j) :
    takeBreak k tag drive slug b v = (b, ((v.holdLost j d).modEntry d slot (fun e => { e with holder := none })).answer k tag
      .done []) := by
  have hsup : isSupervisor k = true := by rw [hk]; rfl
  simp only [takeBreak, hp, onlySupervisor, hsup, Vol.ready_of hready, if_true, Vol.breakHold, hl, he, Option.bind_some, hj]
  rfl

end

/-- Settles O26. -/
theorem releaseAndBreakDropTheHold : Obligations.ReleaseAndBreakDropTheHold := by
  intro s k j tag drive slug g d slot e hk hp hready hl he hj
  rw [exec_release hk, exec_breakHold hk, Vol.takeRelease_found hp hready hl he, hj]
  refine ⟨fun h => ?_, fun h => ?_, fun h => ?_⟩
  · rw [if_pos (by rw [h])]
  · rw [if_neg (fun g => h (Option.some.inj g).symm)]
  · rw [takeBreak_found s.bat h hp hready hl he hj]
    rfl

/-! ## LIST (R43) -/

/-- R43: the record of a slot whose entry is not FREE and has a slug that begins with the pattern. -/
def listed (pattern : List Byte) (i : Nat) (o : Option Entry) : Option (List Byte) :=
  o.bind (fun e => if e.image.state ≠ .free ∧ e.image.slug.take pattern.length = pattern then some (listingRecord i e)
    else none)

theorem listRecords_entry (pattern : List Byte) (e : Entry) (slots : List (Option Entry)) (i : Nat) :
    listRecords pattern (some e :: slots) i
      = if e.image.state != .free && e.image.slug.take pattern.length == pattern then
          listingRecord i e :: listRecords pattern slots (i + 1)
        else listRecords pattern slots (i + 1) := rfl

theorem listRecords_cons (pattern : List Byte) (o : Option Entry) (slots : List (Option Entry)) (i : Nat) :
    listRecords pattern (o :: slots) i = (listed pattern i o).toList ++ listRecords pattern slots (i + 1) := by
  cases o with
  | none => rfl
  | some e =>
    rw [listRecords_entry]
    unfold listed
    rw [Option.bind_some]
    by_cases h : e.image.state ≠ .free ∧ e.image.slug.take pattern.length = pattern
    · rw [if_pos h, if_pos (by simpa [Bool.and_eq_true] using h)]
      rfl
    · rw [if_neg h, if_neg (by simpa [Bool.and_eq_true] using h)]
      rfl

/-- R43: the records are those of the slots in their order. -/
theorem listRecords_eq (pattern : List Byte) (slots : List (Option Entry)) (n : Nat) :
    listRecords pattern slots n
      = (List.range slots.length).filterMap (fun i => listed pattern (n + i) (slots[i]?).join) := by
  induction slots generalizing n with
  | nil => rfl
  | cons o slots ih =>
    rw [listRecords_cons, ih, List.length_cons, List.range_succ_eq_map, List.filterMap_cons, List.filterMap_map]
    have hrest : ((fun i => listed pattern (n + i) ((o :: slots)[i]?).join) ∘ Nat.succ)
        = fun i => listed pattern (n + 1 + i) (slots[i]?).join := by
      funext i
      simp only [Function.comp, Nat.succ_eq_add_one, List.getElem?_cons_succ, Nat.add_assoc, Nat.add_comm 1 i]
    rw [hrest]
    change (listed pattern n o).toList ++ _ = _
    cases h : listed pattern n o with
    | none => simp [h]
    | some x => simp [h]

/-- R43: LIST where its checks pass. -/
theorem Vol.takeList_pass {b : Battery} {v : Vol} {k : Line} {tag drive count : Byte} {pattern g : List Byte} {d : DriveNo}
    {m : Mirror} (hp : parseList tag drive count pattern = some (d, g)) (hmay : b.mayRead k d = true)
    (hready : v.mount d = .ready) (hm : v.mirror d = some m) :
    v.takeList b k tag drive count pattern
      = v.addReply k (.listing tag (listRecords g m.slots 0) (listRecords g m.slots 0).length) true .plain := by
  simp only [Vol.takeList, hp, hmay, Vol.ready_of hready, hm, Bool.not_true, Bool.false_eq_true, if_false]

/-- Settles O27. -/
theorem listJoinsTheReplyList : Obligations.ListJoinsTheReplyList := by
  intro s k tag drive count pattern g d m hk hp hmay hready hm records
  have hrecords : listRecords g m.slots 0 = records := by
    rw [listRecords_eq]
    simp only [Nat.zero_add]
    rfl
  rw [exec_list hk, Vol.takeList_pass hp hmay hready hm, hrecords]

end Sys2Proof.Machine
end

section
/-! PROOFS. Breaks, silence and mark: the line reset with what becomes of the line's holds, marks and requests, and the
events of a line that is held off by a break. -/

namespace Sys2Proof.Machine

/-- An event comes to its own effects where the blocks run. -/
theorem exec_live {i : Instr} {s : State} (h : s.vol.live = true) (hi : frameLineOf i = none) :
    exec i s = .next (s.finish (ownEffect i s.bat s.vol)) := by
  rw [exec_eq, if_pos]
  simp [State.acts, hi, h]

section
variable {s : State} (h : s.vol.live = true) (k : Line)
include h

theorem exec_lineBreak : exec (.lineBreak k) s = .next (s.finish (s.bat, s.vol.takeBreakLine s.bat k)) := exec_live h rfl

theorem exec_silenceTimerExpiry : exec (.silenceTimerExpiry k) s = .next (s.finish (s.bat, s.vol.silenceExpires k)) :=
  exec_live h rfl

theorem exec_lineReturnToMark : exec (.lineReturnToMark k) s = .next (s.finish (s.bat, s.vol.returnsToMark k)) :=
  exec_live h rfl

theorem exec_characterReceived (x : Byte) :
    exec (.characterReceived k x) s = .next (s.finish (takeByte k x s.bat s.vol)) := exec_live h rfl

theorem exec_frameComplete (x : Byte) :
    exec (.frameComplete k x) s = .next (s.finish (takeCompletion k x s.bat s.vol)) := exec_live h rfl

theorem exec_frameFault (cause : FrameFaultCause) :
    exec (.frameFault k cause) s = .next (s.finish (takeFault k cause s.bat s.vol)) := exec_live h rfl

end

/-! ## The holds of a line dropped (R29, R131) -/

theorem Vol.mirror_foldl_modMirror (f : Mirror → Mirror) {ds : List DriveNo} (hn : ds.Nodup) (v : Vol) (d : DriveNo) :
    (ds.foldl (fun w d => w.modMirror d f) v).mirror d = if d ∈ ds then (v.mirror d).map f else v.mirror d := by
  induction ds generalizing v with
  | nil => rfl
  | cons e ds ih =>
    obtain ⟨he, hn⟩ := List.nodup_cons.mp hn
    rw [List.foldl_cons, ih hn]
    by_cases hd : d = e
    · subst hd
      rw [if_neg he, if_pos (List.mem_cons_self ..), Vol.mirror_modMirror_self]
    · rw [Vol.mirror_modMirror_ne _ _ hd]
      simp only [List.mem_cons, hd, false_or]

theorem Vol.mirror_dropLine (v : Vol) (k : Line) (d : DriveNo) :
    (v.dropLine k).mirror d = (v.mirror d).map (fun m => { m with slots := dropLineHolds k m.slots }) := by
  unfold Vol.dropLine
  rw [Vol.mirror_foldl_modMirror _ (by decide), if_pos (mem_allDrives d)]

/-- R29, R131: of every entry the line holds, the hold is gone; nothing else of an entry changes. -/
theorem Vol.entry_dropLine (v : Vol) (k : Line) (d : DriveNo) (i : Nat) :
    (v.dropLine k).entry d i
      = (v.entry d i).map (fun e => if e.holder = some k then { e with holder := none } else e) := by
  unfold Vol.entry
  rw [Vol.mirror_dropLine]
  cases v.mirror d with
  | none => rfl
  | some m =>
    simp only [Option.map_some, Option.bind_some, Mirror.entry, dropLineHolds, List.getElem?_map]
    cases m.slots[i]? <;> rfl

/-! ## The line reset (R121, R131, R176) -/

theorem Vol.takeBreakLine_timing {v : Vol} {k : Line} (b : Battery) (h : (v.port k).detector = .timing) :
    v.takeBreakLine b k = v := by
  unfold Vol.takeBreakLine
  exact if_neg (by rw [h]; decide)

theorem Vol.takeBreakLine_idle {v : Vol} {k : Line} (b : Battery) (h : (v.port k).detector = .idle) :
    v.takeBreakLine b k = (lineReqs k).foldl (fun w r => w.lineResetRequest b r)
      ((v.port k).marks.foldl (Vol.discardMark b) ((v.modPort k Port.lineReset).dropLine k)) := by
  unfold Vol.takeBreakLine
  exact if_pos h

section
variable {v : Vol} {r : ReqId} {q : Request} (b : Battery)

theorem Vol.runsOn_iff (v : Vol) (q : Request) :
    v.runsOn q = true ↔ q.stage = .ending ∨ q.stage = .committing ∨ q.stage = .writing
      ∨ (q.kind = .format ∧ ∃ u, (v.drive q.drive).seq.job = .unit u ∧ u.kind = .label)
      ∨ (q.kind = .copy ∧ q.stage = .label) := by
  unfold Vol.runsOn
  simp only [Bool.or_eq_true, beq_iff_eq, v.inLabelUnit_iff, or_assoc]

/-- R121: a request that runs on, or ends, without its replies. -/
def Vol.silence (v : Vol) (r : ReqId) : Vol := v.modReq r (fun q => { q with replies := [], silent := true })

theorem Vol.req_silence (h : v.req r = some q) : (v.silence r).req r = some { q with replies := [], silent := true } := by
  unfold Vol.silence
  rw [Vol.req_modReq_self, h]
  rfl

theorem Vol.lineResetRequest_answered (h : v.req r = some q) (hs : q.stage = .answered) :
    v.lineResetRequest b r = v.setReq r none := by
  unfold Vol.lineResetRequest
  rw [h]
  exact if_pos hs

theorem Vol.lineResetRequest_open (h : v.req r = some q) (hs : q.stage ≠ .answered) :
    v.lineResetRequest b r = if v.runsOn q then v.silence r else (v.silence r).cancelRequest b r := by
  unfold Vol.lineResetRequest
  rw [h]
  exact if_neg hs

theorem Vol.req_takeOut (v : Vol) (r : ReqId) (d e : DriveNo) (p : ReqId) : (v.takeOut r d e).1.req p = v.req p := by
  unfold Vol.takeOut
  dsimp only
  split <;> rfl

/-- R121, R73: a request that ends silent is gone at once, or stays in ENDING until its order's boundary. -/
theorem Vol.cancelRequest_silent (h : v.req r = some q) (hs : q.silent = true) (hf : q.kind ≠ .format)
    (hc : q.kind ≠ .copy) :
    v.cancelRequest b r = if (v.takeOut r q.drive q.dest).2 then
      ((v.takeOut r q.drive q.dest).1.letGo r .cancelled).setReq r none
      else (v.takeOut r q.drive q.dest).1.setEnding r .cancelled := by
  rw [Vol.cancelRequest_order b h hf hc, Vol.finish_silent _ _ _ ((Vol.req_takeOut ..).trans h) hs]

end

/-! ## A line held off by a break (R131) -/

section
variable {v : Vol} {k : Line} (b : Battery) (h : (v.port k).detector = .timing)
include h

theorem takeByte_timing (x : Byte) : takeByte k x b v = (b, v) := by
  unfold takeByte
  exact if_pos (by rw [h]; rfl)

theorem takeCompletion_timing (x : Byte) : takeCompletion k x b v = (b, v) := by
  unfold takeCompletion
  exact if_pos (by rw [h]; rfl)

theorem takeFault_timing (cause : FrameFaultCause) : takeFault k cause b v = (b, v) := by
  unfold takeFault
  exact if_pos (by rw [h]; rfl)

end

theorem Vol.silenceExpires_running {v : Vol} {k : Line} (h : (v.port k).silenceTimer = true) :
    v.silenceExpires k
      = v.modPort k (fun p => { p with assembler := .hunt, gapTimer := false, silenceTimer := false }) := by
  unfold Vol.silenceExpires
  exact if_pos h

/-- Settles O35. -/
theorem breaksSilenceAndMark : Obligations.BreaksSilenceAndMark := by
  refine ⟨?_, ?_, ?_, ?_, ?_⟩
  · intro s k hlive
    rw [exec_lineBreak hlive]
    refine ⟨fun h => by rw [Vol.takeBreakLine_timing s.bat h], fun h => ?_⟩
    intro emptied marks v
    refine ⟨fun d slot => Vol.entry_dropLine emptied k d slot, ?_⟩
    rw [Vol.takeBreakLine_idle s.bat h]
    rfl
  · exact fun b v => ⟨rfl, rfl, fun j => rfl⟩
  · intro b v r q hq w runsOn p ending
    have hw : w.req r = some { q with replies := [], silent := true } := Vol.req_silence hq
    have hruns : v.runsOn q = true ↔ runsOn := v.runsOn_iff q
    have hopen : q.stage ≠ .answered → v.lineResetRequest b r = if v.runsOn q then w else w.cancelRequest b r :=
      Vol.lineResetRequest_open b hq
    refine ⟨Vol.lineResetRequest_answered b hq, fun ha hr => ?_, fun ha hr hk => ?_, fun ha hr hk hs => ?_,
      fun ha hr hf hc => ?_⟩
    · rw [hopen ha, if_pos (hruns.mpr hr)]
    · rw [hopen ha, if_neg (mt hruns.mp hr), Vol.cancelRequest_unit b hw hk]
      rfl
    · rw [hopen ha, if_neg (mt hruns.mp hr), Vol.cancelRequest_tracks b hw hk hs]
      rfl
    · rw [hopen ha, if_neg (mt hruns.mp hr), Vol.cancelRequest_silent b hw rfl hf hc]
      rfl
  · intro s k hlive
    refine ⟨fun h => ?_, ?_⟩
    · rw [exec_silenceTimerExpiry hlive, Vol.silenceExpires_running h]
    · rw [exec_lineReturnToMark hlive]
      rfl
  · intro s k h hlive
    refine ⟨fun x => ?_, fun x => ?_, fun cause => ?_⟩
    · rw [exec_characterReceived hlive, takeByte_timing s.bat h]
    · rw [exec_frameComplete hlive, takeCompletion_timing s.bat h]
    · rw [exec_frameFault hlive, takeFault_timing s.bat h]

end Sys2Proof.Machine
end

section
/-! PROOFS. What enters a store: the oldest reply, LIST items and notices, story text, and what an answer made with nothing
else to do ends with. -/

namespace Sys2Proof.Machine

theorem mem_lineReqs (k : Line) (r : ReqId) : r ∈ lineReqs k ↔ reqLine r = k := by
  unfold lineReqs reqLine
  simp only [List.mem_cons, List.not_mem_nil, or_false, Fin.ext_iff]
  omega

theorem Vol.modPort_modPort (v : Vol) (k : Line) (f g : Port → Port) :
    (v.modPort k f).modPort k g = v.modPort k (fun p => g (f p)) := by
  unfold Vol.modPort
  simp

theorem Vol.modPort_congr {v : Vol} {k : Line} {f g : Port → Port} (h : f (v.port k) = g (v.port k)) :
    v.modPort k f = v.modPort k g := by
  unfold Vol.port at h
  unfold Vol.modPort
  rw [h]

/-! ## The oldest waiting reply (R133) -/

/-- A reply is the first of one of a line's two kinds of place: its reply list, or the replies of one of its requests. -/
def Vol.FirstReply (v : Vol) (k : Line) (w : Waiting) : Option ReqId → Prop
  | none => (v.port k).replies.head? = some w
  | some r => reqLine r = k ∧ ∃ q, v.req r = some q ∧ q.replies.head? = some w

/-- The first reply of a request's slot, with the slot. -/
def Vol.reqReply (v : Vol) (r : ReqId) : Option (Waiting × Option ReqId) :=
  ((v.req r).bind (fun q => q.replies.head?)).map (fun w => (w, some r))

theorem Vol.reqReply_eq_some (v : Vol) (r : ReqId) (w : Waiting) (src : Option ReqId) :
    v.reqReply r = some (w, src) ↔ src = some r ∧ ∃ q, v.req r = some q ∧ q.replies.head? = some w := by
  unfold Vol.reqReply
  simp only [Option.map_eq_some_iff, Option.bind_eq_some_iff, Prod.mk.injEq]
  grind

theorem earlier_none_right (x : Option (Waiting × Option ReqId)) : earlier x none = x := by cases x <;> rfl

theorem earlier_eq_none_iff (x y : Option (Waiting × Option ReqId)) : earlier x y = none ↔ x = none ∧ y = none := by
  cases x with
  | none => simp [earlier]
  | some a =>
    cases y with
    | none => simp [earlier]
    | some c =>
      unfold earlier
      dsimp only
      split <;> simp

/-- The earlier made of two replies is one of them, and neither was made before it. -/
theorem earlier_eq_some {x y : Option (Waiting × Option ReqId)} {c : Waiting × Option ReqId} (h : earlier x y = some c) :
    (x = some c ∨ y = some c) ∧ ∀ c', (x = some c' ∨ y = some c') → c.1.made ≤ c'.1.made := by
  cases x with
  | none =>
    have hy : y = some c := h
    subst hy
    exact ⟨.inr rfl, by rintro c' (h | h) <;> cases h; exact Nat.le_refl _⟩
  | some a =>
    cases y with
    | none =>
      rw [earlier_none_right] at h
      cases h
      exact ⟨.inl rfl, by rintro c' (h | h) <;> cases h; exact Nat.le_refl _⟩
    | some d =>
      unfold earlier at h
      dsimp only at h
      split at h
      · next hlt =>
        cases h
        exact ⟨.inr rfl, by rintro c' (h | h) <;> cases h <;> omega⟩
      · next hle =>
        cases h
        exact ⟨.inl rfl, by rintro c' (h | h) <;> cases h <;> omega⟩

section
variable {f : ReqId → Option (Waiting × Option ReqId)}

theorem foldl_earlier_eq_none_iff (rs : List ReqId) (acc : Option (Waiting × Option ReqId)) :
    rs.foldl (fun acc r => earlier acc (f r)) acc = none ↔ acc = none ∧ ∀ r ∈ rs, f r = none := by
  induction rs generalizing acc with
  | nil => simp
  | cons r rs ih =>
    rw [List.foldl_cons, ih, earlier_eq_none_iff, List.forall_mem_cons, and_assoc]

theorem foldl_earlier_none {rs : List ReqId} (h : ∀ r ∈ rs, f r = none) (acc : Option (Waiting × Option ReqId)) :
    rs.foldl (fun acc r => earlier acc (f r)) acc = acc := by
  induction rs generalizing acc with
  | nil => rfl
  | cons r rs ih =>
    rw [List.forall_mem_cons] at h
    rw [List.foldl_cons, ih h.2, h.1, earlier_none_right]

theorem foldl_earlier_eq_some {rs : List ReqId} {acc : Option (Waiting × Option ReqId)} {c : Waiting × Option ReqId}
    (h : rs.foldl (fun acc r => earlier acc (f r)) acc = some c) :
    (acc = some c ∨ ∃ r ∈ rs, f r = some c)
      ∧ ∀ c', (acc = some c' ∨ ∃ r ∈ rs, f r = some c') → c.1.made ≤ c'.1.made := by
  induction rs generalizing acc with
  | nil =>
    have hacc : acc = some c := h
    subst hacc
    refine ⟨.inl rfl, ?_⟩
    rintro c' (h | ⟨r, hr, -⟩)
    · cases h
      exact Nat.le_refl _
    · cases hr
  | cons r rs ih =>
    obtain ⟨hc, hle⟩ := ih h
    constructor
    · obtain hc | ⟨p, hp, hc⟩ := hc
      · obtain hx | hy := (earlier_eq_some hc).1
        · exact .inl hx
        · exact .inr ⟨r, List.mem_cons_self .., hy⟩
      · exact .inr ⟨p, List.mem_cons_of_mem r hp, hc⟩
    · intro c' hc'
      have hhead : acc = some c' ∨ f r = some c' → c.1.made ≤ c'.1.made := fun hx => by
        cases he : earlier acc (f r) with
        | none =>
          obtain ⟨hacc, hf⟩ := (earlier_eq_none_iff acc (f r)).mp he
          rw [hacc, hf] at hx
          cases hx <;> contradiction
        | some d => exact Nat.le_trans (hle d (.inl he)) ((earlier_eq_some he).2 c' hx)
      obtain hx | ⟨p, hp, hx⟩ := hc'
      · exact hhead (.inl hx)
      · obtain rfl | hp := List.mem_cons.mp hp
        · exact hhead (.inr hx)
        · exact hle c' (.inr ⟨p, hp, hx⟩)

end

theorem Vol.oldestReply_eq (v : Vol) (k : Line) :
    v.oldestReply k
      = (lineReqs k).foldl (fun acc r => earlier acc (v.reqReply r)) ((v.port k).replies.head?.map (fun w => (w, none))) := rfl

theorem Vol.firstReply_iff (v : Vol) (k : Line) (w : Waiting) (src : Option ReqId) :
    v.FirstReply k w src ↔ (v.port k).replies.head?.map (fun w => (w, (none : Option ReqId))) = some (w, src)
      ∨ ∃ r ∈ lineReqs k, v.reqReply r = some (w, src) := by
  simp only [Vol.reqReply_eq_some, mem_lineReqs]
  cases src with
  | none => simp [Vol.FirstReply]
  | some r => simp [Vol.FirstReply]

theorem Vol.oldestReply_eq_none_iff (v : Vol) (k : Line) : v.oldestReply k = none ↔ ∀ w src, ¬ v.FirstReply k w src := by
  rw [Vol.oldestReply_eq, foldl_earlier_eq_none_iff]
  simp only [Vol.firstReply_iff, not_or, not_exists, not_and]
  constructor
  · rintro ⟨hport, hreqs⟩ w src
    refine ⟨by rw [hport]; nofun, fun r hr => by rw [hreqs r hr]; nofun⟩
  · intro h
    refine ⟨Option.eq_none_iff_forall_ne_some.mpr (fun c => (h c.1 c.2).1),
      fun r hr => Option.eq_none_iff_forall_ne_some.mpr (fun c => (h c.1 c.2).2 r hr)⟩

theorem Vol.oldestReply_eq_some {v : Vol} {k : Line} {w : Waiting} {src : Option ReqId}
    (h : v.oldestReply k = some (w, src)) :
    v.FirstReply k w src ∧ ∀ w' src', v.FirstReply k w' src' → w.made ≤ w'.made := by
  rw [Vol.oldestReply_eq] at h
  obtain ⟨hc, hle⟩ := foldl_earlier_eq_some h
  exact ⟨(v.firstReply_iff k w src).mpr hc, fun w' src' hw => hle (w', src') ((v.firstReply_iff k w' src').mp hw)⟩

/-! ## What is placed first (R134, R135, R138) -/

theorem Vol.hasRoom_iff (v : Vol) (k : Line) : v.hasRoom k = true ↔ (v.port k).store.length < 6 := decide_eq_true_iff

section
variable {v : Vol} {k : Line}

theorem Vol.placeFirst_full (h : 6 ≤ (v.port k).store.length) : v.placeFirst k = none := by
  unfold Vol.placeFirst
  exact if_neg (fun g => Nat.not_lt.mpr h ((v.hasRoom_iff k).mp g))

theorem Vol.placeFirst_reply {w : Waiting} {src : Option ReqId} (h : (v.port k).store.length < 6)
    (hw : v.oldestReply k = some (w, src)) : v.placeFirst k = some (v.placeReply k w src) := by
  unfold Vol.placeFirst
  rw [if_pos ((v.hasRoom_iff k).mpr h), hw]

theorem Vol.placeFirst_notice (h : (v.port k).store.length < 6) (hw : v.oldestReply k = none) :
    v.placeFirst k = if (v.port k).notice.some? then some (v.placeNotice k) else none := by
  unfold Vol.placeFirst
  rw [if_pos ((v.hasRoom_iff k).mpr h), hw]

theorem Vol.placeFirst_eq_none_iff : v.placeFirst k = none
    ↔ ((v.port k).store.length < 6 → v.oldestReply k = none ∧ (v.port k).notice.some? = false) := by
  by_cases h : (v.port k).store.length < 6
  · cases hw : v.oldestReply k with
    | some c => simp [Vol.placeFirst_reply h hw, h]
    | none => simp [Vol.placeFirst_notice h hw, h]
  · simp [Vol.placeFirst_full (Nat.not_lt.mp h), h]

/-- What is placed first on a line is a matter of its port and its requests. -/
theorem Vol.oldestReply_congr {u : Vol} (hr : u.reqs = v.reqs) (hp : (u.port k).replies = (v.port k).replies) :
    u.oldestReply k = v.oldestReply k := by
  have hreq : ∀ r, u.reqReply r = v.reqReply r := fun r => by
    unfold Vol.reqReply
    rw [Vol.req_of_reqs hr]
  rw [Vol.oldestReply_eq, Vol.oldestReply_eq, hp]
  simp only [hreq]

end

theorem Notice.some?_eq_false_iff (n : Notice) : n.some? = false ↔ n = Notice.clear := by
  obtain ⟨a, c, w, x, y, z⟩ := n
  simp [Notice.some?, Notice.clear, and_assoc]

theorem Notice.bytes_eq (n : Notice) :
    n.bytes = [(if n.ready then 1 else 0) + (if n.settingsLost then 2 else 0), n.warning, n.closed, n.holdLost,
      n.driveChange] := by
  unfold Notice.bytes
  cases n.ready <;> cases n.settingsLost <;> rfl

/-- R138: a NOTICE frame carries the whole record, which is then clear. -/
theorem Vol.placeNotice_eq (v : Vol) (k : Line) :
    v.placeNotice k = v.modPort k (fun p => { p with
      store := p.store ++ [{ body := [0x83, 0] ++ (v.port k).notice.bytes, mark := .plain }], notice := Notice.clear }) := by
  unfold Vol.placeNotice Vol.place Vol.modNotice
  rw [Vol.modPort_modPort]
  rfl

/-! ## Story text (R108 to R110, R136) -/

theorem Request.textReady_iff (q : Request) : q.textReady = true
    ↔ (q.kind = .fetch ∨ q.kind = .draw) ∧ (q.stage = .reading ∨ q.stage = .delivering) ∧ 0 < q.filled := by
  unfold Request.textReady
  simp [and_assoc]

/-- A request in a slot has text ready. -/
def Vol.hasText (v : Vol) (r : ReqId) : Bool :=
  match v.req r with
  | none => false
  | some q => q.textReady

theorem Vol.hasText_eq {v : Vol} {r : ReqId} {q : Request} (h : v.req r = some q) : v.hasText r = q.textReady := by
  unfold Vol.hasText
  rw [h]

theorem Vol.req_of_hasText {v : Vol} {r : ReqId} (h : v.hasText r = true) : ∃ q, v.req r = some q ∧ q.textReady = true := by
  unfold Vol.hasText at h
  split at h
  · cases h
  · next q hq => exact ⟨q, hq, h⟩

theorem Vol.textSource_eq (v : Vol) (k : Line) : v.textSource k = (v.byAge (lineReqs k)).find? v.hasText := rfl

theorem insertByAge_congr {u v : Vol} (h : u.reqs = v.reqs) (r : ReqId) (l : List ReqId) :
    insertByAge u r l = insertByAge v r l := by
  have hage : ∀ p, u.age p = v.age p := fun p => by
    unfold Vol.age
    rw [Vol.req_of_reqs h]
  induction l with
  | nil => rfl
  | cons x xs ih => rw [insertByAge_cons, insertByAge_cons, ih, hage, hage]

/-- Which fetch text is taken from is a matter of the requests. -/
theorem Vol.textSource_congr {u v : Vol} (h : u.reqs = v.reqs) (k : Line) : u.textSource k = v.textSource k := by
  have hreq : ∀ r, u.req r = v.req r := Vol.req_of_reqs h
  unfold Vol.textSource Vol.byAge
  simp only [hreq, insertByAge_congr h]

theorem Vol.textSource_none {v : Vol} {k : Line} (h : v.textSource k = none) {r : ReqId} {q : Request} (hr : reqLine r = k)
    (hq : v.req r = some q) : q.textReady = false := by
  rw [Vol.textSource_eq, List.find?_eq_none] at h
  rw [← Vol.hasText_eq hq]
  exact Bool.eq_false_iff.mpr (h r ((Vol.mem_byAge hq).mpr ((mem_lineReqs k r).mpr hr)))

/-- R136: the fetch text is taken from was admitted no later than any other of the line with text ready. -/
theorem Vol.textSource_some {v : Vol} {k : Line} {r : ReqId} (h : v.textSource k = some r) :
    reqLine r = k ∧ ∃ q, v.req r = some q ∧ q.textReady = true ∧ ∀ r' q', reqLine r' = k → v.req r' = some q' →
      q'.textReady = true → q.admitted ≤ q'.admitted := by
  rw [Vol.textSource_eq] at h
  obtain ⟨hready, as, bs, hl, has⟩ := List.find?_eq_some_iff_append.mp h
  obtain ⟨q, hq, hqr⟩ := Vol.req_of_hasText hready
  have hmem : r ∈ v.byAge (lineReqs k) := List.mem_of_find?_eq_some h
  refine ⟨(mem_lineReqs k r).mp ((Vol.mem_byAge hq).mp hmem), q, hq, hqr, fun r' q' hr' hq' hready' => ?_⟩
  have hmem' := (Vol.mem_byAge hq').mpr ((mem_lineReqs k r').mpr hr')
  have hsorted := v.byAge_sorted (lineReqs k)
  rw [hl] at hmem' hsorted
  rw [List.mem_append, List.mem_cons] at hmem'
  obtain hbefore | rfl | hafter := hmem'
  · have := has r' hbefore
    rw [Vol.hasText_eq hq', hready'] at this
    cases this
  · rw [hq] at hq'
    cases hq'
    exact Nat.le_refl _
  · have := (List.pairwise_cons.mp (List.pairwise_append.mp hsorted).2.1).1 r' hafter
    rwa [Vol.age_eq hq, Vol.age_eq hq'] at this

theorem Request.bufferGone_iff (q : Request) :
    q.bufferGone = true ↔ (q.delivered + q.textCount) % 1024 = 0 ∨ q.info.length ≤ q.delivered + q.textCount := by
  unfold Request.bufferGone
  simp [Config.sectorBytes]

/-- R109, R110: a TEXT frame placed. -/
theorem Vol.placeText_eq {v : Vol} {r : ReqId} {q : Request} {x : BufNo} {rest : List BufNo} (k : Line)
    (h : v.req r = some q) (hx : q.chain = x :: rest) :
    v.placeText k r =
      let placed := (v.place k ([0x81, q.tag] ++ slice (v.buf x).data (q.delivered % Config.sectorBytes) q.textCount)
        .plain).modReq r (fun p => { p with delivered := q.delivered + q.textCount })
      let after := if q.bufferGone then
          (placed.returnBuf x).modReq r (fun p => { p with chain := rest, filled := p.filled - 1 }) else placed
      if q.info.length ≤ q.delivered + q.textCount then after.finish r .done q.info.data false else after := by
  unfold Vol.placeText
  rw [h]
  dsimp only
  rw [hx]
  rfl

/-! ## Replies and LIST items placed (R43, R101, R102, R133) -/

theorem Vol.placeListing_last (v : Vol) (k : Line) (w : Waiting) (tag : Byte) (total : Nat) :
    v.placeListing k w tag [] total = (v.dropReply k).place k [0x80, tag, 0x00, BitVec.ofNat 8 total] w.mark := rfl

theorem Vol.placeListing_next (v : Vol) (k : Line) (w : Waiting) (tag : Byte) {records : List (List Byte)} (total : Nat)
    (h : records ≠ []) :
    v.placeListing k w tag records total = (v.modPort k (fun p =>
        { p with replies := { w with body := .listing tag (records.drop 9) total } :: p.replies.tail })).place k
      ([0x82, tag, BitVec.ofNat 8 (min 9 records.length)] ++ (records.take 9).flatten) .plain := by
  unfold Vol.placeListing
  rw [if_neg (by rwa [List.isEmpty_iff]), ← List.length_take]
  rfl

/-! ## The follow-on work of a machine with nothing to do (log 5) -/

section
variable {b : Battery} {v : Vol}

theorem Vol.dropTest_eq_none (h : v.tests = []) : v.dropTest b = none := by
  unfold Vol.dropTest
  rw [h]
  rfl

theorem Vol.beginNext_eq_none_iff :
    v.beginNext b = none ↔ allDrives.find? (fun d => (v.drive d).seq.phase == .ready) = none := Option.map_eq_none_iff

theorem Vol.idleNext_eq_none_iff : v.idleNext b = none ↔ allDrives.find? v.idleBegins = none := Option.map_eq_none_iff

theorem Vol.placeNext_eq_none_iff : v.placeNext = none ↔ ∀ k, v.placeFirst k = none := by
  unfold Vol.placeNext
  rw [List.findSome?_eq_none_iff]
  exact ⟨fun h k => h k (mem_allLines k), fun h k _ => h k⟩

theorem Vol.meetOne_eq_none_iff : v.meetOne b = none ↔ v.claims = [] := by
  unfold Vol.meetOne
  split <;> simp_all

theorem Vol.claims_eq_nil_iff : v.claims = [] ↔ v.tests = [] ∧ allDrives.filter v.selectable = [] ∧ v.offeredWrites = []
    ∧ ∀ k, v.hasRoom k = true → v.textSource k = none := by
  unfold Vol.claims
  simp only [List.append_eq_nil_iff, List.map_eq_nil_iff, and_assoc]
  refine and_congr_right fun _ => and_congr_right fun _ => and_congr_right fun _ => ?_
  unfold Vol.textClaims
  rw [List.flatMap_eq_nil_iff]
  refine ⟨fun h k hk => ?_, fun h k _ => ?_⟩
  · have := h k (mem_allLines k)
    rw [if_pos hk] at this
    cases ht : v.textSource k with
    | none => rfl
    | some r => simp [ht] at this
  · split
    · next hk => rw [h k hk]
    · rfl

theorem Vol.followOn_eq_none_iff : v.followOn b = none
    ↔ v.dropTest b = none ∧ v.beginNext b = none ∧ v.placeNext = none ∧ v.idleNext b = none ∧ v.claims = [] := by
  unfold Vol.followOn
  rw [← Vol.meetOne_eq_none_iff (b := b)]
  cases v.dropTest b <;> cases v.beginNext b <;> cases v.placeNext <;> cases v.idleNext b <;> simp

/-- With no test noted and no head positioned, what is placed next goes first. -/
theorem Vol.followOn_places {w : Vol} (ht : v.dropTest b = none) (hb : v.beginNext b = none) (hp : v.placeNext = some w) :
    v.followOn b = some w := by
  unfold Vol.followOn
  rw [ht, hb, hp]
  rfl

theorem findSome?_unique {α β : Type} {f : α → Option β} {l : List α} {a : α} {c : β} (ha : a ∈ l) (hc : f a = some c)
    (h : ∀ x ∈ l, x ≠ a → f x = none) : l.findSome? f = some c := by
  induction l with
  | nil => cases ha
  | cons x xs ih =>
    rw [List.findSome?_cons]
    by_cases hx : x = a
    · rw [hx, hc]
    · rw [h x (List.mem_cons_self ..) hx]
      exact ih ((List.mem_cons.mp ha).resolve_left (Ne.symm hx)) (fun y hy => h y (List.mem_cons_of_mem x hy))

theorem settleLoop_succ {w : Vol} (n : Nat) (h : v.followOn b = some w) :
    settleLoop b (n + 1) v = settleLoop b n (noteEligible v w) := by
  rw [settleLoop, h]

theorem settleLoop_stops (n : Nat) (h : v.followOn b = none) : settleLoop b n v = v := by
  cases n with
  | zero => rfl
  | succ n => rw [settleLoop, h]

/-- R65: freed buffers occasion no preemption test where no order is in service. -/
theorem noteEligible_idle (u : Vol) (h : ∀ d, (v.drive d).sched.service = none) : noteEligible u v = v := by
  unfold noteEligible
  have hnone : allDrives.flatMap (fun d =>
      if (v.drive d).sched.service.isSome then (newlyEligible u v d).map (fun a => (d, a)) else []) = [] := by
    rw [List.flatMap_eq_nil_iff]
    intro d _
    rw [h d]
    rfl
  rw [hnone, List.append_nil]

/-- A change of the ports that makes no room and gives no line anything to place leaves a machine with nothing to do as
idle as it was. -/
theorem Vol.followOn_ports {u : Vol} (hu : ∃ p n, u = { v with ports := p, stamp := n }) (h : v.followOn b = none)
    (hroom : ∀ k, u.hasRoom k = true → v.hasRoom k = true) (hplace : ∀ k, u.placeFirst k = none) : u.followOn b = none := by
  obtain ⟨p, n, rfl⟩ := hu
  obtain ⟨-, hbegin, -, hidle, hclaims⟩ := Vol.followOn_eq_none_iff.mp h
  obtain ⟨htests, hselect, hwrites, htext⟩ := Vol.claims_eq_nil_iff.mp hclaims
  rw [Vol.beginNext_eq_none_iff] at hbegin
  rw [Vol.idleNext_eq_none_iff] at hidle
  have hsource : ∀ k, ({ v with ports := p, stamp := n } : Vol).textSource k = v.textSource k := fun k =>
    Vol.textSource_congr (u := { v with ports := p, stamp := n }) (v := v) rfl k
  refine Vol.followOn_eq_none_iff.mpr ⟨Vol.dropTest_eq_none htests, Vol.beginNext_eq_none_iff.mpr ?_,
    Vol.placeNext_eq_none_iff.mpr hplace, Vol.idleNext_eq_none_iff.mpr ?_,
    Vol.claims_eq_nil_iff.mpr ⟨htests, hselect, hwrites, fun k hk => ?_⟩⟩
  · exact hbegin
  · exact hidle
  · exact (hsource k).trans (htext k (hroom k hk))

section
variable {k : Line} (body : List Byte) (direct : Bool) (mark : Mark)

/-- A machine with a frame more in the store of a line. -/
def Vol.sent (v : Vol) (k : Line) (body : List Byte) (mark : Mark) : Vol :=
  (v.modPort k (fun p => { p with store := p.store ++ [{ body := body, mark := mark }] })).nextStamp

theorem Vol.replies_of_idle (h : v.placeFirst k = none) (hroom : (v.port k).store.length < 6) :
    (v.port k).replies = [] ∧ v.oldestReply k = none ∧ (v.port k).notice.some? = false := by
  obtain ⟨hold, hnotice⟩ := Vol.placeFirst_eq_none_iff.mp h hroom
  refine ⟨?_, hold, hnotice⟩
  cases hp : (v.port k).replies with
  | nil => rfl
  | cons w ws => exact absurd (by simp [Vol.FirstReply, hp]) ((v.oldestReply_eq_none_iff k).mp hold w none)

/-- The other lines have no more to place than before. -/
theorem Vol.placeFirst_congr {u : Vol} {j : Line} (hr : u.reqs = v.reqs) (hp : u.port j = v.port j)
    (h : v.placeFirst j = none) : u.placeFirst j = none := by
  rw [Vol.placeFirst_eq_none_iff] at h ⊢
  rw [Vol.oldestReply_congr hr (by rw [hp]), hp]
  exact h

theorem Vol.port_addReply_ne {j : Line} (h : j ≠ k) (x : ReplyBody) : (v.addReply k x direct mark).port j = v.port j := by
  unfold Vol.addReply
  rw [Vol.port_nextStamp, Vol.port_modPort_ne _ _ _ _ h]

theorem Vol.port_sent_ne {j : Line} (h : j ≠ k) : (v.sent k body mark).port j = v.port j := by
  unfold Vol.sent
  rw [Vol.port_nextStamp, Vol.port_modPort_ne _ _ _ _ h]

theorem Vol.port_sent_self : (v.sent k body mark).port k
    = { v.port k with store := (v.port k).store ++ [{ body := body, mark := mark }] } := by
  unfold Vol.sent
  rw [Vol.port_nextStamp, Vol.port_modPort_self]

/-- R135: a reply made where none waits and the store has room is what its line places. -/
theorem Vol.placeFirst_addReply (h : v.placeFirst k = none) (hroom : (v.port k).store.length < 6) :
    (v.addReply k (.single body) direct mark).placeFirst k = some (v.sent k body mark) := by
  obtain ⟨hreplies, hold, -⟩ := Vol.replies_of_idle h hroom
  have hport : (v.addReply k (.single body) direct mark).port k = { v.port k with
      replies := [{ body := .single body, direct, final := false, mark, made := v.stamp }] } := by
    unfold Vol.addReply
    rw [Vol.port_nextStamp, Vol.port_modPort_self, hreplies]
    rfl
  have hfirst : (v.addReply k (.single body) direct mark).oldestReply k
      = some ({ body := .single body, direct, final := false, mark, made := v.stamp }, none) := by
    rw [Vol.oldestReply_eq, foldl_earlier_eq_none_iff] at hold
    rw [Vol.oldestReply_eq, hport]
    exact foldl_earlier_none (f := v.reqReply) hold.2 _
  rw [Vol.placeFirst_reply (by rw [hport]; exact hroom) hfirst]
  have hcomp : (v.addReply k (.single body) direct mark).placeReply k
      { body := .single body, direct, final := false, mark, made := v.stamp } none
      = (((v.modPort k (fun p => { p with replies := p.replies
          ++ [{ body := .single body, direct, final := false, mark, made := v.stamp }] })).modPort k (fun p =>
            { p with replies := p.replies.tail })).modPort k (fun p =>
              { p with store := p.store ++ [{ body := body, mark := mark }] })).nextStamp := rfl
  rw [hcomp, Vol.modPort_modPort, Vol.modPort_modPort]
  refine congrArg (fun w => some (Vol.nextStamp w)) (Vol.modPort_congr ?_)
  dsimp only
  rw [hreplies]
  rfl

/-- R133, R135: with nothing else to do, a reply that joins the list of a line with room is placed first. -/
theorem Vol.followOn_addReply (h : v.followOn b = none) (hroom : (v.port k).store.length < 6) :
    (v.addReply k (.single body) direct mark).followOn b = some (v.sent k body mark) := by
  obtain ⟨-, hbegin, hplace, -, hclaims⟩ := Vol.followOn_eq_none_iff.mp h
  obtain ⟨htests, -⟩ := Vol.claims_eq_nil_iff.mp hclaims
  have hfirst := Vol.placeNext_eq_none_iff.mp hplace
  rw [Vol.beginNext_eq_none_iff] at hbegin
  refine Vol.followOn_places (Vol.dropTest_eq_none htests) (Vol.beginNext_eq_none_iff.mpr ?_) ?_
  · exact hbegin
  · exact findSome?_unique (mem_allLines k) (Vol.placeFirst_addReply body direct mark (hfirst k) hroom)
      (fun j _ hj => Vol.placeFirst_congr (v := v) rfl (Vol.port_addReply_ne direct mark hj _) (hfirst j))

/-- And then there is nothing left to do. -/
theorem Vol.followOn_sent (h : v.followOn b = none) (hroom : (v.port k).store.length < 6) :
    (v.sent k body mark).followOn b = none := by
  obtain ⟨-, -, hplace, -, -⟩ := Vol.followOn_eq_none_iff.mp h
  have hfirst := Vol.placeNext_eq_none_iff.mp hplace
  obtain ⟨-, hold, hnotice⟩ := Vol.replies_of_idle (hfirst k) hroom
  have hself := Vol.port_sent_self (v := v) (k := k) body mark
  refine Vol.followOn_ports (v := v) ⟨(v.sent k body mark).ports, v.stamp + 1, rfl⟩ h (fun j hj => ?_) (fun j => ?_)
  · rw [Vol.hasRoom_iff] at hj ⊢
    by_cases hjk : j = k
    · rwa [hjk]
    · rwa [Vol.port_sent_ne body mark hjk] at hj
  · by_cases hjk : j = k
    · subst hjk
      have hsame : (v.sent j body mark).oldestReply j = v.oldestReply j := Vol.oldestReply_congr rfl (by rw [hself])
      refine Vol.placeFirst_eq_none_iff.mpr (fun _ => ⟨?_, ?_⟩)
      · exact hsame.trans hold
      · rw [hself]
        exact hnotice
    · exact Vol.placeFirst_congr (v := v) rfl (Vol.port_sent_ne body mark hjk) (hfirst j)

/-- R134, R135: the follow-on work of such an answer places its frame and does nothing more. -/
theorem settle_addReply (hlive : v.live = true) (h : v.followOn b = none) (hserv : ∀ d, (v.drive d).sched.service = none)
    (hroom : (v.port k).store.length < 6) : settle b (v.addReply k (.single body) direct mark) = v.sent k body mark := by
  have hbound : Config.settleBound = 3999 + 1 := rfl
  have hlive' : (v.addReply k (.single body) direct mark).live = true := hlive
  have hnote : noteEligible (v.addReply k (.single body) direct mark) (v.sent k body mark) = v.sent k body mark :=
    noteEligible_idle _ hserv
  unfold settle
  rw [if_pos hlive', hbound, settleLoop_succ _ (Vol.followOn_addReply body direct mark h hroom), hnote,
    settleLoop_stops _ (Vol.followOn_sent body mark h hroom)]

end

end

/-- Settles O37. -/
theorem repliesNoticesAndTextArePlaced : Obligations.RepliesNoticesAndTextArePlaced := by
  have hfinish : ∀ (s : State) (b : Battery) (v : Vol) (k : Line) (body : List Byte) (direct : Bool) (mark : Mark),
      v.live = true → v.followOn b = none → (∀ d, (v.drive d).sched.service = none) → (v.port k).store.length < 6 →
      s.finish (b, v.addReply k (.single body) direct mark) = { s with bat := b, vol := v.sent k body mark } := by
    intro s b v k body direct mark hlive h hserv hroom
    have hnote : noteEligible s.vol (v.addReply k (.single body) direct mark) = v.addReply k (.single body) direct mark :=
      noteEligible_idle _ hserv
    unfold State.finish
    dsimp only
    rw [hnote, settle_addReply body direct mark hlive h hserv hroom]
  refine ⟨hfinish, ?_, ?_, ?_, ?_, ?_, ?_⟩
  · intro s k tag hk ht h hserv hroom
    have htime : s.vol.takeTime s.bat k tag = s.vol.answer k tag .done s.bat.clock.report := by
      unfold Vol.takeTime
      rw [if_pos (tagOk_of ht)]
    have hexec : exec (.time k tag) s = .next (s.finish (s.bat, s.vol.takeTime s.bat k tag)) := exec_hears hk rfl
    rw [hexec, htime]
    exact congrArg Host.Outcome.next (hfinish s s.bat s.vol k _ true .plain hk.1 h hserv hroom)
  · intro v k n clear flags
    refine ⟨Vol.placeFirst_full, fun hroom hreplies hreqs => ?_⟩
    have hold : v.oldestReply k = none := by
      rw [Vol.oldestReply_eq_none_iff]
      rintro w (_ | r)
      · simp [Vol.FirstReply, hreplies]
      · rintro ⟨hr, q, hq, hw⟩
        rw [hreqs r q hr hq] at hw
        cases hw
    rw [Vol.placeFirst_notice hroom hold]
    refine ⟨fun h => ?_, fun h => ?_⟩
    · rw [if_neg (by rw [(Notice.some?_eq_false_iff n).mpr h]; decide)]
    · rw [if_pos (by rw [← Bool.not_eq_false]; exact mt (Notice.some?_eq_false_iff n).mp h), Vol.placeNotice_eq,
        Notice.bytes_eq]
      rfl
  · intro v k waits
    have hwaits : ∀ w src, waits w src ↔ v.FirstReply k w src := by
      rintro w (_ | r) <;> exact Iff.rfl
    refine ⟨?_, fun w src h => ?_⟩
    · simp only [hwaits]
      exact v.oldestReply_eq_none_iff k
    · simp only [hwaits]
      exact Vol.oldestReply_eq_some h
  · intro v k w src hroom hw gone sends
    have hplace := Vol.placeFirst_reply hroom hw
    refine ⟨fun body hb => ⟨?_, ?_⟩, ?_⟩
    · rintro rfl
      rw [hplace]
      unfold Vol.placeReply
      rw [hb]
      rfl
    · rintro r rfl
      unfold Vol.placeReply at hplace
      rw [hb] at hplace
      refine ⟨fun hf => hplace.trans (congrArg some ?_), fun hf => hplace.trans (congrArg some ?_)⟩
      · exact if_pos hf
      · exact if_neg (by rw [hf]; decide)
    · rintro tag records total hb rfl
      have hlist : v.placeReply k w none = v.placeListing k w tag records total := by
        unfold Vol.placeReply
        rw [hb]
      rw [hplace, hlist]
      refine ⟨?_, fun hne => ?_⟩
      · rintro rfl
        rw [Vol.placeListing_last]
        rfl
      · rw [Vol.placeListing_next v k w tag total hne]
        rfl
  · intro v k textReady
    refine ⟨fun h r q hr hq hready => ?_, fun r h => ?_⟩
    · have := Vol.textSource_none h hr hq
      rw [(q.textReady_iff).mpr hready] at this
      cases this
    · obtain ⟨hr, q, hq, hready, hfirst⟩ := Vol.textSource_some h
      exact ⟨hr, q, hq, q.textReady_iff.mp hready, fun r' q' hr' hq' h' => hfirst r' q' hr' hq' (q'.textReady_iff.mpr h')⟩
  · intro v k r q x rest hq hx start count upTo placed after
    rw [Vol.placeText_eq k hq hx]
    simp only [Request.bufferGone_iff]
    rfl

end Sys2Proof.Machine
end

section
/-! PROOFS. The values of a battery loss (R17, R45, R76, R77, R125, R137, R157, R165, R174). -/

namespace Sys2Proof.Machine

theorem Vol.port_initial_other {k : Line} (h : k ≠ supervisorLine) : Vol.initial.port k = Port.afterReset 3 := by
  have h' : (8 : ℕ) ≠ k := fun e => h (Fin.ext e.symm)
  simp [Vol.port, Vol.initial, Vector.getElem_set_ne, h']

theorem Vol.port_initial_supervisor : Vol.initial.port supervisorLine = (Port.afterReset 3).settingsLost := rfl

@[simp] theorem Vol.req_initial (r : ReqId) : Vol.initial.req r = none := by
  simp [Vol.req, Vol.initial]

@[simp] theorem Vol.buf_initial (x : BufNo) :
    Vol.initial.buf x = { owner := none, data := List.replicate Config.sectorBytes 0 } := by
  simp [Vol.buf, Vol.initial]

@[simp] theorem Vol.record_initial (k : RecNo) : Vol.initial.record k = .free := by
  simp [Vol.record, Vol.initial]

@[simp] theorem Vol.drive_initial (d : DriveNo) : Vol.initial.drive d = Drive.afterReset Cable.initial := by
  simp [Vol.drive, Vol.initial]

/-- Settles O4. -/
theorem resetHoldsTheSpecsValues : Obligations.ResetHoldsTheSpecsValues := by
  unfold Obligations.ResetHoldsTheSpecsValues
  intro s
  have hports : ∀ k, s.vol.port k
      = { Port.afterReset 3 with notice := { Notice.afterReset with settingsLost := decide (k = supervisorLine) } } := by
    intro k
    by_cases h : k = supervisorLine
    · subst h
      rfl
    · rw [decide_eq_false h]
      exact Vol.port_initial_other h
  have hdrive : ∀ d, s.vol.drive d = Drive.afterReset Cable.initial := Vol.drive_initial
  refine ⟨rfl, fun i => ?_, fun k => ?_, fun d => ?_, rfl, fun k => ?_, Vol.req_initial, fun x => ?_, Vol.record_initial,
    fun d => ?_, fun d => ?_, fun d => ?_, rfl⟩
  · exact Vector.getElem_replicate ..
  · exact Vector.getElem_replicate ..
  · exact Vector.getElem_replicate ..
  · rw [hports k]
    exact ⟨rfl, rfl, rfl, rfl, rfl, rfl, rfl, rfl⟩
  · exact congrArg Buffer.owner (Vol.buf_initial x)
  · rw [hdrive d]
    exact ⟨rfl, rfl, rfl, rfl, rfl, rfl⟩
  · rw [hdrive d]
    exact ⟨rfl, rfl, rfl, rfl, rfl, rfl, rfl, rfl, rfl⟩
  · rw [hdrive d]
    rfl

end Sys2Proof.Machine
end

section
/-! PROOFS. The suspend stacks of R52 under every step, and the invariants at reset. -/

namespace Sys2Proof.Machine

/-- R52: the end of a command keeps the stacks its own effects leave in order; the tests noted for freed buffers reach
no drive. -/
theorem State.stacksOk_finish (s : State) (p : Battery × Vol) (h : p.2.stacksOk) : (s.finish p).vol.stacksOk :=
  Vol.stacksOk_settle _ _ (Vol.stacksOk_tests _ _ h)

/-- Settles O10: a command's own effects keep the stacks, and so does the follow-on work. -/
theorem stepKeepsTheSuspendStacksOrdered : Obligations.StepKeepsTheSuspendStacksOrdered := by
  intro s t hs h
  rcases step_cases h with rfl | ⟨c, rest, -, he⟩
  · exact hs
  · rcases exec_cases he with rfl | ⟨-, rfl⟩
    · exact hs
    · exact State.stacksOk_finish _ _ (Vol.stacksOk_ownEffect c _ _ hs)

/-! ## The machine right after a battery loss -/

theorem Vol.store_initial (k : Line) : (Vol.initial.port k).store = [] := by
  by_cases h : k = supervisorLine
  · rw [h]
    rfl
  · rw [Vol.port_initial_other h]
    rfl

theorem Scheduler.stackOk_afterReset : Scheduler.afterReset.stackOk := ⟨by decide, List.Pairwise.nil⟩

/-- Settles O5: the clock is not valid and the blocks run, so that two of the invariants ask nothing. -/
theorem resetMeetsTheInvariants : Obligations.ResetMeetsTheInvariants := by
  refine ⟨Battery.ok_default, fun _ hvalid => absurd hvalid (by decide), fun k => ?_, ⟨List.forall_mem_nil _, fun d => ?_⟩, fun d => ?_,
    fun hlive => absurd hlive (by decide)⟩
  · change (Vol.initial.port k).store.length ≤ _
    rw [Vol.store_initial]
    exact Nat.zero_le _
  · change (Vol.initial.drive d).cable.disk.wf = true
    rw [Vol.drive_initial]
    rfl
  · change (Vol.initial.drive d).sched.stackOk
    rw [Vol.drive_initial]
    exact Scheduler.stackOk_afterReset

end Sys2Proof.Machine
end

section
/-! PROOFS. The access cost: the seek and the positioning of an order (R61, R62), its wait and cost (R63), and the
effective cost (R64). -/

namespace Sys2Proof.Machine

/-! ## The seek and the positioning (R61, R62) -/

theorem stepsTo_known (h c : Nat) : (stepsTo (some h) false c : Int) = |(c : Int) - h| := by
  unfold stepsTo
  dsimp only
  rw [if_neg Bool.false_ne_true]
  split
  · next hc => rw [abs_of_nonneg (by omega), Nat.cast_sub hc]
  · next hc => rw [abs_of_neg (by omega), Nat.cast_sub (Nat.le_of_not_le hc), neg_sub]

theorem seekUnits_eq (t : Timing) (n : Nat) : seekUnits t n = n * t.step + if 0 < n then t.settle else 0 := by
  unfold seekUnits
  rcases Nat.eq_zero_or_pos n with rfl | hn
  · rfl
  · rw [if_neg (Nat.pos_iff_ne_zero.mp hn), if_pos hn]

/-- Settles O51. -/
theorem theSeekAndPositioningOfAnOrder : Obligations.TheSeekAndPositioningOfAnOrder :=
  ⟨⟨stepsTo_known, fun _ => rfl, fun _ _ => rfl, fun _ => rfl, fun b d n => seekUnits_eq (b.timing d) n, rfl, rfl, rfl⟩,
    fun _ _ _ => ⟨rfl, rfl⟩, rfl, rfl⟩

/-! ## The wait (R63) -/

theorem waitFor_le (angle pos n : Nat) : waitFor angle pos n ≤ 999 := by
  unfold waitFor
  omega

theorem arrival_waitFor (angle pos : Nat) {n : Nat} (h : n ≤ 7) :
    ((angle + pos) % 1000 + waitFor angle pos n) % 1000 = 125 * n + 8 := by
  unfold waitFor headerAngle
  omega

/-! ## The cost (R63) and its range -/

theorem costOf_eq (t : Timing) (head : Option Nat) (loaded : Bool) (angle : Nat) (o : Order) :
    costOf t head loaded angle o =
      let pos := positioning t loaded (seekUnits t (stepsTo head (o.kind == .recalibrate) o.cyl))
      if o.kind = .recalibrate then pos else pos + waitFor angle pos o.first := by
  unfold costOf
  by_cases h : o.kind = .recalibrate <;> simp [h]

theorem stepsTo_le {head : Option Nat} {c : Nat} (recal : Bool) (hh : ∀ h, head = some h → h ≤ 76) (hc : c ≤ 76) :
    stepsTo head recal c ≤ 152 := by
  unfold stepsTo
  cases head with
  | none => cases recal <;> dsimp only <;> split <;> omega
  | some h =>
    have := hh h rfl
    dsimp only
    repeat' split
    all_goals omega

theorem stepMillis_le (code : Nat) : stepMillis code ≤ 15 := by
  unfold stepMillis
  rcases Nat.lt_or_ge code 8 with h | h
  · interval_cases code <;> decide
  · rw [List.getD_eq_default _ _ h]

theorem DriveSettings.ok_iff (t : DriveSettings) : t.ok = true ↔
    t.stepCode ≤ 7 ∧ t.settle ≤ 30 ∧ t.headLoad ≤ 60 ∧ t.unload ≤ 15 ∧ t.verify ≤ 2 ∧ t.preempt ≤ 1 := by
  simp [DriveSettings.ok, and_assoc]

/-- R60, R174: the times of a drive whose settings are in their ranges. -/
theorem Battery.timing_le {b : Battery} (h : b.ok) (d : DriveNo) :
    (b.timing d).step ≤ 90 ∧ (b.timing d).settle ≤ 180 ∧ (b.timing d).load ≤ 360 := by
  obtain ⟨-, -, -, hd, -⟩ := h
  obtain ⟨-, hsettle, hload, -⟩ := (DriveSettings.ok_iff _).mp (hd d)
  have hstep := stepMillis_le (b.drive d).stepCode
  exact ⟨Nat.mul_le_mul_left 6 hstep, Nat.mul_le_mul_left 6 hsettle, Nat.mul_le_mul_left 6 hload⟩

/-- R61, R62: no positioning is longer than 152 steps of 90 units and a settle of 180. -/
theorem positioning_le {t : Timing} (loaded : Bool) {n : Nat} (hstep : t.step ≤ 90) (hsettle : t.settle ≤ 180)
    (hload : t.load ≤ 360) (hn : n ≤ 152) : positioning t loaded (seekUnits t n) ≤ 13860 := by
  have hseek : seekUnits t n ≤ 13860 := by
    have hmul : n * t.step ≤ 152 * 90 := Nat.mul_le_mul hn hstep
    unfold seekUnits
    split <;> omega
  unfold positioning
  split
  · exact hseek
  · exact max_le hseek (by omega)

theorem costOf_le {b : Battery} {d : DriveNo} {head : Option Nat} {o : Order} (loaded : Bool) (angle : Nat) (hb : b.ok)
    (hh : ∀ h, head = some h → h ≤ 76) (hc : o.cyl ≤ 76) : costOf (b.timing d) head loaded angle o ≤ 14859 := by
  obtain ⟨hstep, hsettle, hload⟩ := Battery.timing_le hb d
  have hpos := positioning_le loaded hstep hsettle hload (stepsTo_le (o.kind == .recalibrate) hh hc)
  rw [costOf_eq]
  dsimp only
  split
  · omega
  · exact Nat.add_le_add hpos (waitFor_le ..)

/-! ## Both ends of the range are reached -/

/-- R174: the longest times a drive can have. -/
def slowestDrive : DriveSettings :=
  { stepCode := 7, settle := 30, headLoad := 60, unload := 4, verify := 2, preempt := 1 }

/-- The battery domain with the longest times on every drive. -/
def slowestBattery : Battery :=
  let settings : Settings := { Settings.default with drives := Vector.replicate 4 slowestDrive }
  { Battery.default with settings := settings }

theorem Battery.ok_slowest : slowestBattery.ok := by
  obtain ⟨hclock, heditions, hlines, -, hrate⟩ := Battery.ok_default
  refine ⟨hclock, heditions, hlines, fun d => ?_, hrate⟩
  rw [show slowestBattery.settings.drives[d] = slowestDrive from Vector.getElem_replicate ..]
  decide

/-- A READ order for sector 0 of a cylinder, never passed over. -/
def readAt (cyl : Nat) : Order :=
  { req := 0, kind := .read, cyl, side := 0, first := 0, count := 1, cls := .routine, bypass := 0, arrival := 0,
    progress := 0, pass := .read, tries := Tries.fresh, buffers := [], skip := [], sampled := false, troubled := [] }

/-- Settles O52: the cost is greatest from an unknown cylinder to cylinder 76, arriving just past the header. -/
theorem theWaitAndCostOfAnOrder : Obligations.TheWaitAndCostOfAnOrder := by
  refine ⟨fun angle pos n hn => ⟨waitFor_le .., arrival_waitFor angle pos hn⟩, fun t head loaded angle o =>
    ⟨costOf_eq .., rfl⟩, fun b d head loaded angle o hb hh hc _ => ?_, ?_, ?_⟩
  · have hcost := costOf_le (d := d) loaded angle hb hh hc
    exact ⟨hcost, (Nat.sub_le ..).trans hcost⟩
  · exact ⟨slowestBattery, 149, readAt 76, Battery.ok_slowest, by decide, by decide, by decide, rfl, by decide, by decide⟩
  · exact ⟨Battery.default, 8, readAt 0, Battery.ok_default, by decide, by decide, by decide, by decide⟩

end Sys2Proof.Machine
end

section
/-! PROOFS. How an order is made (R47, R49, R50), RECAL and RESTART as they are taken, and the idle limit of a filing. -/

namespace Sys2Proof.Machine

/-! ## Orders made (R47, R49, R50, R65) -/

theorem orderClass_eq (b : Battery) (q : Request) (kind : OrderKind) :
    orderClass b q kind = if kind = .recalibrate then .flash
      else if kind = .copyRead ∨ kind = .copyWrite then .background
      else if q.cls = .routine ∧ 1 ≤ q.edition ∧ b.editionState q.edition = .warning then .edition else q.cls := by
  cases kind <;> rfl

theorem OrderKind.firstPass_eq (kind : OrderKind) :
    kind.firstPass = if kind = .write ∨ kind = .catalogWrite ∨ kind = .copyWrite then .write else .read := by
  cases kind <;> rfl

/-- R47, R49, R50: the order a request makes, at an arrival position. -/
def newOrder (b : Battery) (r : ReqId) (q : Request) (kind : OrderKind) (p : OrderPlace) (arrival : Nat) : Order :=
  { req := r, kind, cyl := p.cyl, side := p.side, first := p.first, count := p.count, cls := orderClass b q kind,
    bypass := 0, arrival, progress := 0, pass := kind.firstPass, tries := Tries.fresh, buffers := p.buffers,
    skip := p.skip, sampled := false, troubled := [] }

/-- R50, R65: an order joins the queue; where an order is in service it is to be tested for preemption. -/
theorem Vol.makeOrder_eq {v : Vol} {r : ReqId} {q : Request} (b : Battery) (d : DriveNo) (kind : OrderKind)
    (p : OrderPlace) (h : v.req r = some q) :
    v.makeOrder b r d kind p =
      let n := (v.drive d).sched.nextArrival
      let w := v.modSched d (fun x => { x with queue := x.queue ++ [newOrder b r q kind p n], nextArrival := n + 1 })
      if (v.drive d).sched.service.isSome then { w with tests := w.tests ++ [(d, n)] } else w := by
  have hnext : ∀ o, v.modSched d (fun x => { x with queue := x.queue ++ [o], nextArrival := x.nextArrival + 1 })
      = v.modSched d (fun x => { x with queue := x.queue ++ [o], nextArrival := (v.drive d).sched.nextArrival + 1 }) :=
    fun _ => Vol.modDrive_congr rfl
  unfold Vol.makeOrder
  rw [h]
  dsimp only
  rw [hnext]
  rfl

/-! ## RECAL and RESTART (R99, R156) -/

theorem takeRecal_admits {b : Battery} {v : Vol} {tag drive : Byte} {d : DriveNo} {r : ReqId}
    (hp : parseOnlyDrive tag drive = some d) (hs : v.slotCheck supervisorLine tag = .ok r) (hm : v.mount d = .ready) :
    takeRecal supervisorLine tag drive b v = (b, v.admitRecal b tag d r) := by
  have hgate : v.recalGate d = none := by
    unfold Vol.recalGate
    rw [hm]
  unfold takeRecal
  rw [hp]
  change (b, _) = _
  rw [hs]
  dsimp only
  rw [hgate]

theorem takeRestart_taken {tag : Byte} (b : Battery) (v : Vol) (ht : tag ≠ 0) :
    takeRestart supervisorLine tag b v
      = (b, v.addReply supervisorLine (.single (answerBody tag .done [])) true .restart) := by
  unfold takeRestart
  rw [tagOk_of ht]
  rfl

/-- Settles O30. -/
theorem recalAndRestartAreTaken : Obligations.RecalAndRestartAreTaken := by
  refine ⟨?_, ?_, ?_⟩
  · intro s tag drive d r hk hp hr ht hm n o v
    have hexec : exec (.recal supervisorLine tag drive) s
        = .next (s.finish (takeRecal supervisorLine tag drive s.bat s.vol)) := exec_hears hk rfl
    rw [hexec, takeRecal_admits hp (slotCheck_ok hr ht) hm]
    unfold Vol.admitRecal
    rw [Vol.makeOrder_eq s.bat d .recalibrate _ (req_openRequest ..)]
    rfl
  · intro s tag hk ht
    have hexec : exec (.restart supervisorLine tag) s
        = .next (s.finish (takeRestart supervisorLine tag s.bat s.vol)) := exec_hears hk rfl
    rw [hexec, takeRestart_taken s.bat s.vol ht]
    rfl
  · intro b v r d kind p q hq n own o w
    have ho : newOrder b r q kind p n = o := by
      simp only [newOrder, orderClass_eq, OrderKind.firstPass_eq, o, own]
      rfl
    rw [Vol.makeOrder_eq b d kind p hq]
    dsimp only
    rw [ho]

/-! ## The idle limit (R73, R102, R117) -/

/-- R73, R102: a request ended with its order, where that may be taken out at once, else in ENDING. -/
theorem Vol.endWithOrder_eq {v : Vol} {r : ReqId} {q : Request} (oc : OutcomeCode) (direct : Bool)
    (h : v.req r = some q) :
    v.endWithOrder r oc direct =
      let p := v.takeOut r q.drive q.dest
      if p.2 then p.1.finish r oc [] direct
      else p.1.modReq r (fun q => { q with stage := .ending, outcome := some oc }) := by
  unfold Vol.endWithOrder
  rw [h]
  rfl

theorem Vol.idleExpires_eq {v : Vol} {r : ReqId} {q : Request} {ses : Session} (h : v.req r = some q)
    (hs : q.session = some ses) (hopen : q.stage = .opened) (hidle : ses.idle = true) :
    v.idleExpires r = v.endWithOrder r .cancelled false := by
  unfold Vol.idleExpires
  rw [h]
  simp only [hs, hopen, hidle, and_self, if_true]

/-- Settles O47. -/
theorem theIdleLimitEndsAFiling : Obligations.TheIdleLimitEndsAFiling := by
  intro s r q ses hlive hq hs hopen hidle p
  have hexec : exec (.idleLimitExpiry r) s = .next (s.finish (s.bat, s.vol.idleExpires r)) :=
    whenLive_live (fun _ v => (_, v.idleExpires r)) hlive
  rw [hexec, Vol.idleExpires_eq hq hs hopen hidle, Vol.endWithOrder_eq .cancelled false hq]

end Sys2Proof.Machine
end

section
/-! PROOFS. Text filed: TEXT as it reaches its filing, the buffers it takes and the bytes it appends. -/

namespace Sys2Proof.Machine

/-! ## A buffer taken and buffers returned (R104, log 42) -/

theorem Vol.takeBuf_eq_none (v : Vol) (r : ReqId) : v.takeBuf r = none ↔ ∀ x, (v.buf x).owner ≠ none := by
  rw [Vol.takeBuf_eq_none_iff]
  unfold Vol.freeBufs
  rw [List.length_eq_zero_iff, List.filter_eq_nil_iff]
  simp [mem_allBufs]

/-- The buffer taken is free, and every lower-numbered one has an owner. -/
theorem Vol.takeBuf_lowest {v w : Vol} {r : ReqId} {x : BufNo} (h : v.takeBuf r = some (x, w)) :
    (v.buf x).owner = none ∧ ∀ y < x, (v.buf y).owner ≠ none := by
  have hfind : (List.finRange 40).find? (fun b => (v.buf b).owner == none) = some x := by
    unfold Vol.takeBuf at h
    split at h
    · cases h
    · next hf =>
      cases h
      exact hf
  obtain ⟨hfree, i, hi, hx, hbefore⟩ := List.find?_eq_some_iff_getElem.mp hfind
  have hxi : x.val = i := by
    rw [← hx, List.getElem_finRange]
    rfl
  refine ⟨beq_iff_eq.mp hfree, fun y hy hnone => ?_⟩
  have howned := hbefore y.val (hxi ▸ hy)
  simp [hnone] at howned

theorem Vol.buf_returnBufs (v : Vol) (bs : List BufNo) (x : BufNo) :
    (v.returnBufs bs).buf x = if x ∈ bs then { v.buf x with owner := none } else v.buf x := by
  rw [Vol.returnBufs_eq]
  simp [Vol.buf]

/-! ## Bytes appended (R113) -/

/-- R104, R113: the bytes of a buffer set, its owner standing. -/
def Vol.putBuf (v : Vol) (x : BufNo) (data : List Byte) : Vol := v.setBuf x { v.buf x with data := data }

theorem Vol.writeBuf_start (v : Vol) (x : BufNo) (bytes : List Byte) :
    v.writeBuf x 0 bytes = v.putBuf x (bytes ++ (v.buf x).data.drop bytes.length) := by
  unfold Vol.writeBuf overwrite
  rw [List.take_zero, List.nil_append, Nat.zero_add]
  rfl

/-- R113: bytes that fit where the text of the fill buffer ends. -/
theorem Vol.writeBuf_fits (v : Vol) (x : BufNo) {n : Nat} {bytes : List Byte}
    (h : n + bytes.length ≤ Config.sectorBytes) :
    v.writeBuf x n (bytes.take (Config.sectorBytes - n))
      = v.putBuf x ((v.buf x).data.take n ++ bytes ++ (v.buf x).data.drop (n + bytes.length)) := by
  rw [List.take_of_length_le (Nat.le_sub_of_add_le' h)]
  rfl

/-- R113: bytes that run past the end of the fill buffer. -/
theorem Vol.writeBuf_over (v : Vol) (x : BufNo) {n : Nat} {bytes : List Byte} (hn : n ≤ Config.sectorBytes)
    (h : Config.sectorBytes < n + bytes.length) :
    v.writeBuf x n (bytes.take (Config.sectorBytes - n))
      = v.putBuf x ((v.buf x).data.take n ++ bytes.take (Config.sectorBytes - n)
          ++ (v.buf x).data.drop Config.sectorBytes) := by
  have hend : n + (bytes.take (Config.sectorBytes - n)).length = Config.sectorBytes := by
    rw [List.length_take]
    omega
  unfold Vol.writeBuf overwrite
  rw [hend]
  rfl

section
variable {v w : Vol} {r : ReqId} {ses : Session} {bytes : List Byte} {x : BufNo}

theorem Vol.appendText_fresh (hf : ses.fill = none) (ht : v.takeBuf r = some (x, w)) :
    v.appendText r ses bytes = (w.putBuf x (bytes ++ (w.buf x).data.drop bytes.length)).modSession r (fun t =>
      { t with length := ses.length + bytes.length, fill := some x, fillBytes := bytes.length }) := by
  unfold Vol.appendText
  simp only [hf, ht]
  rw [Vol.writeBuf_start]

theorem Vol.appendText_room (hf : ses.fill = some x) (hc : ses.fillBytes + bytes.length < Config.sectorBytes) :
    v.appendText r ses bytes
      = (v.putBuf x ((v.buf x).data.take ses.fillBytes ++ bytes
          ++ (v.buf x).data.drop (ses.fillBytes + bytes.length))).modSession r (fun t =>
        { t with length := ses.length + bytes.length, fillBytes := ses.fillBytes + bytes.length }) := by
  unfold Vol.appendText
  simp only [hf, if_pos hc, Vol.writeBuf_fits v x hc.le]

theorem Vol.appendText_full (hf : ses.fill = some x) (hc : ses.fillBytes + bytes.length = Config.sectorBytes) :
    v.appendText r ses bytes
      = (v.putBuf x ((v.buf x).data.take ses.fillBytes ++ bytes
          ++ (v.buf x).data.drop (ses.fillBytes + bytes.length))).modSession r (fun t =>
        { t with length := ses.length + bytes.length, fill := none, fillBytes := 0, full := t.full ++ [x] }) := by
  unfold Vol.appendText
  simp only [hf, if_neg (Nat.not_lt.mpr hc.ge), if_pos hc, Vol.writeBuf_fits v x hc.le]

theorem Vol.appendText_over {y : BufNo} (hf : ses.fill = some x) (hn : ses.fillBytes ≤ Config.sectorBytes)
    (hc : Config.sectorBytes < ses.fillBytes + bytes.length)
    (ht : (v.putBuf x ((v.buf x).data.take ses.fillBytes ++ bytes.take (Config.sectorBytes - ses.fillBytes)
      ++ (v.buf x).data.drop Config.sectorBytes)).takeBuf r = some (y, w)) :
    v.appendText r ses bytes
      = (w.putBuf y (bytes.drop (Config.sectorBytes - ses.fillBytes)
          ++ (w.buf y).data.drop (ses.fillBytes + bytes.length - Config.sectorBytes))).modSession r (fun t =>
        { t with length := ses.length + bytes.length, fill := some y,
                 fillBytes := ses.fillBytes + bytes.length - Config.sectorBytes, full := t.full ++ [x] }) := by
  have hrest : (bytes.drop (Config.sectorBytes - ses.fillBytes)).length
      = ses.fillBytes + bytes.length - Config.sectorBytes := by
    rw [List.length_drop]
    omega
  unfold Vol.appendText
  simp only [hf, if_neg (Nat.not_lt.mpr hc.le), if_neg hc.ne', Vol.writeBuf_over v x hn hc, ht]
  rw [Vol.writeBuf_start, hrest]

end

/-! ## TEXT (R113, R114, R118) -/

section
variable {v : Vol} {k : Line} {tag : Byte} {bytes : List Byte} {r : ReqId} {q : Request} {ses : Session} (b : Battery)

theorem Vol.takeText_reaches (ht : tag ≠ 0) (h1 : 1 ≤ bytes.length) (h2 : bytes.length ≤ 256)
    (hr : v.openFiling k tag = some r) (hq : v.req r = some q) (hs : q.session = some ses) :
    v.takeText b k tag bytes = v.fileText b r ses bytes := by
  have hform : (!tagOk tag || bytes.length == 0 || decide (256 < bytes.length)) = false := by
    simp [tagOk_of ht, Nat.one_le_iff_ne_zero.mp h1, Nat.not_lt.mpr h2]
  unfold Vol.takeText
  rw [hform]
  simp only [Bool.false_eq_true, if_false, hr, hq, Option.bind_some, hs]

theorem Session.needsFresh_iff (ses : Session) (m : Nat) :
    ses.needsFresh m = true ↔ ses.fill = none ∨ Config.sectorBytes < ses.fillBytes + m := by
  simp [Session.needsFresh]

/-- R113: a TEXT needs a fresh buffer and none is to be had: none is free, or its filing holds its 8. -/
def Vol.textStarved (v : Vol) (r : ReqId) (ses : Session) (m : Nat) : Prop :=
  (ses.fill = none ∨ Config.sectorBytes < ses.fillBytes + m) ∧ (v.freeBufs = 0 ∨ Config.requestBuffers ≤ v.heldBufs r)

theorem Vol.textStarved_iff (v : Vol) (r : ReqId) (ses : Session) (m : Nat) :
    (ses.needsFresh m && (v.freeBufs == 0 || decide (Config.requestBuffers ≤ v.heldBufs r))) = true
      ↔ v.textStarved r ses m := by
  rw [Bool.and_eq_true, Session.needsFresh_iff, Bool.or_eq_true, beq_iff_eq, decide_eq_true_iff]
  rfl

theorem Vol.fileText_tooLong (h : Config.maxLength < ses.length + bytes.length) :
    v.fileText b r ses bytes = v.endWithOrder r .tooLong true := if_pos h

theorem Vol.fileText_poolBusy (hn : ses.length + bytes.length ≤ Config.maxLength) (h : v.textStarved r ses bytes.length) :
    v.fileText b r ses bytes
      = (v.modSession r (fun s => { s with idle := true })).reqAnswer r .poolBusy (be16 ses.length) true false := by
  unfold Vol.fileText
  rw [if_neg (Nat.not_lt.mpr hn), if_pos ((Vol.textStarved_iff ..).mpr h)]

theorem Vol.fileText_taken (hn : ses.length + bytes.length ≤ Config.maxLength) (h : ¬ v.textStarved r ses bytes.length) :
    v.fileText b r ses bytes
      = (((v.appendText r ses bytes).modSession r (fun s => { s with idle := true })).reqAnswer r .taken
          (be16 (ses.length + bytes.length)) true false).formIfFull b r true := by
  unfold Vol.fileText
  rw [if_neg (Nat.not_lt.mpr hn), if_neg (mt (Vol.textStarved_iff ..).mp h)]

theorem Vol.formIfFull_eq (hq : v.req r = some q) (hs : q.session = some ses) (direct : Bool) :
    v.formIfFull b r direct
      = if ses.full = [] ∨ (v.drive q.drive).sched.hasOrder r = true then v else v.formWrite b r direct := by
  unfold Vol.formIfFull
  rw [hq]
  simp only [hs, Bool.or_eq_true, List.isEmpty_iff]
  rfl

end

/-- Settles O24. -/
theorem textJoinsItsFiling : Obligations.TextJoinsItsFiling := by
  refine ⟨?_, ?_, ?_, ?_, fun v bs x => Vol.buf_returnBufs v bs x⟩
  · intro s k tag bytes r q ses hk ht h1 h2 hr hq hs n fresh full
    have hexec : exec (.text k tag bytes) s = .next (s.finish (s.bat, s.vol.fileText s.bat r ses bytes)) := by
      rw [← Vol.takeText_reaches s.bat ht h1 h2 hr hq hs]
      exact exec_hears hk rfl
    rw [hexec]
    refine ⟨fun hn hfree => ?_, fun hn => ?_, fun hn hfresh hfull => ?_⟩
    · rw [Vol.fileText_taken s.bat hn hfree]
    · rw [Vol.fileText_tooLong s.bat hn, Vol.endWithOrder_eq .tooLong true hq]
    · rw [Vol.fileText_poolBusy s.bat hn ⟨hfresh, hfull⟩]
  · intro v r ses bytes hn length count room put
    refine ⟨fun hf x w ht => Vol.appendText_fresh hf ht, fun x hf => ⟨?_, ?_, ?_⟩⟩
    · exact fun hc => Vol.appendText_room hf hc
    · exact fun hc => Vol.appendText_full hf hc
    · exact fun hc y w ht => Vol.appendText_over hf hn hc ht
  · exact fun b v r q ses hq hs => Vol.formIfFull_eq b hq hs true
  · exact fun v r => ⟨Vol.takeBuf_eq_none v r, fun x w h =>
      ⟨(Vol.takeBuf_lowest h).1, (Vol.takeBuf_lowest h).2, Vol.takeBuf_some h⟩⟩

end Sys2Proof.Machine
end

section
/-! PROOFS. Preemption: the test of a queued order against the order in service, and the order preempted early. -/

namespace Sys2Proof.Machine

/-! ## The test (R65) -/

section
variable {b : Battery} {v : Vol} {d : DriveNo} {x y : Order}

theorem Vol.preempts_iff {a : Nat} (hx : (v.drive d).sched.service = some x)
    (hy : (v.drive d).sched.queue.find? (fun o => o.arrival == a) = some y) :
    v.preempts b d a = true ↔ v.eligible y = true ∧ x.cls.rank < y.cls.rank ∧ (b.settings.drives[d]).preempt = 1
      ∧ x.pass ≠ .verify := by
  simp [Vol.preempts, hx, hy, Battery.drive, and_assoc]

theorem Drive.early_iff {z : Drive} (hx : z.sched.service = some x) :
    z.early = true ↔ x.progress = 0 ∧ x.pass ≠ .verify ∧ z.seq.phase ≠ .transfer := by
  simp [Drive.early, hx, and_assoc]

/-! ## The preemption (R66) -/

/-- R66: an order preempted early leaves service for the queue, at its own arrival position. -/
def Drive.requeue (x : Order) (z : Drive) : Drive :=
  { z with seq := { z.seq with job := .none, phase := .idle, recal := none, idleDue := true },
           sched := { z.sched with service := none, pending := false, queue := insertByArrival x z.sched.queue } }

theorem Drive.preemptEarly_eq {z : Drive} (hx : z.sched.service = some x) : z.preemptEarly = z.requeue x := by
  unfold Drive.preemptEarly
  rw [hx]
  rfl

theorem Vol.preempt_early (hx : (v.drive d).sched.service = some x) (he : (v.drive d).early = true) :
    v.preempt b d = (v.modDrive d (Drive.requeue x)).select b d := by
  unfold Vol.preempt
  rw [if_pos he, Vol.modDrive_congr (Drive.preemptEarly_eq hx)]

theorem Vol.preempt_pending (he : (v.drive d).early = false) :
    v.preempt b d = v.modSched d (fun z => { z with pending := true }) := by
  unfold Vol.preempt
  rw [he]
  rfl

end

/-- R50, R66: an order put back stands after the older orders that the queue begins with and before the first younger
one. -/
theorem insertByArrival_split (o : Order) (queue : List Order) : ∃ older younger, queue = older ++ younger
    ∧ insertByArrival o queue = older ++ o :: younger ∧ (∀ p ∈ older, p.arrival ≤ o.arrival)
    ∧ ∀ p, younger.head? = some p → o.arrival < p.arrival := by
  induction queue with
  | nil => exact ⟨[], [], rfl, rfl, List.forall_mem_nil _, fun _ h => nomatch h⟩
  | cons x xs ih =>
    unfold insertByArrival
    by_cases hx : o.arrival < x.arrival
    · rw [if_pos hx]
      refine ⟨[], x :: xs, rfl, rfl, List.forall_mem_nil _, fun p hp => ?_⟩
      cases hp
      exact hx
    · obtain ⟨older, younger, hq, hins, hold, hyoung⟩ := ih
      rw [if_neg hx, hins, hq]
      exact ⟨x :: older, younger, rfl, rfl, List.forall_mem_cons.mpr ⟨Nat.le_of_not_lt hx, hold⟩, hyoung⟩

/-- Settles O54: in a queue in the order of arrival every order after the first younger one is younger too. -/
theorem thePreemptionTest : Obligations.ThePreemptionTest := by
  constructor
  · intro b v d a x y hx hy
    exact ⟨Vol.preempts_iff hx hy, Drive.early_iff hx, Vol.preempt_early hx, Vol.preempt_pending⟩
  · intro o queue
    obtain ⟨older, younger, hq, hins, hold, hyoung⟩ := insertByArrival_split o queue
    refine ⟨older, younger, hq, hins, hold, hyoung, fun hsorted => ?_⟩
    rw [hq] at hsorted
    have hsorted' := (List.pairwise_append.mp hsorted).2.1
    cases younger with
    | nil => exact List.forall_mem_nil _
    | cons z zs =>
      have hz := hyoung z rfl
      exact List.forall_mem_cons.mpr ⟨hz, fun p hp => hz.trans (List.rel_of_pairwise_cons hsorted' hp)⟩

end Sys2Proof.Machine
end

section
/-! PROOFS. Selection: the choice among orders, which orders are eligible, the placing of an order in service, and the
selection on a drive. -/

namespace Sys2Proof.Machine

/-! ## The choice (R57) -/

theorem leastCost_eq_none_iff (cost : Order → Nat) (os : List Order) : leastCost cost os = none ↔ os = [] := by
  cases os with
  | nil => exact iff_of_true rfl rfl
  | cons x xs =>
    refine iff_of_false (fun h => ?_) nofun
    unfold leastCost at h
    split at h
    · cases h
    · split at h <;> cases h

/-- R57: the order of least cost costs less than those before it and no more than those after it. -/
theorem leastCost_some {cost : Order → Nat} {os : List Order} : ∀ {o : Order}, leastCost cost os = some o →
    ∃ before after, os = before ++ o :: after ∧ (∀ p ∈ before, cost o < cost p) ∧ ∀ p ∈ after, cost o ≤ cost p := by
  induction os with
  | nil => exact fun h => nomatch h
  | cons x xs ih =>
    intro o h
    unfold leastCost at h
    cases hl : leastCost cost xs with
    | none =>
      rw [hl] at h
      cases h
      rw [(leastCost_eq_none_iff cost xs).mp hl]
      exact ⟨[], [], rfl, List.forall_mem_nil _, List.forall_mem_nil _⟩
    | some p =>
      obtain ⟨before, after, hxs, hbefore, hafter⟩ := ih hl
      rw [hl] at h
      dsimp only at h
      split at h
      · next hp =>
        cases h
        exact ⟨x :: before, after, congrArg (x :: ·) hxs, List.forall_mem_cons.mpr ⟨hp, hbefore⟩, hafter⟩
      · next hp =>
        cases h
        have hxp : cost x ≤ cost p := Nat.le_of_not_lt hp
        refine ⟨[], xs, rfl, List.forall_mem_nil _, fun z hz => ?_⟩
        rw [hxs] at hz
        rcases List.mem_append.mp hz with hz | hz
        · exact hxp.trans (hbefore z hz).le
        · rcases List.mem_cons.mp hz with rfl | hz
          · exact hxp
          · exact hxp.trans (hafter z hz)

theorem chooseOrder_eq_none_iff (cost : Order → Nat) (os : List Order) : chooseOrder cost os = none ↔ os = [] := by
  unfold chooseOrder
  cases hf : os.find? (fun o => o.bypass == Config.dueCount) with
  | none => exact leastCost_eq_none_iff cost os
  | some o => exact iff_of_false nofun (List.ne_nil_of_mem (List.mem_of_find?_eq_some hf))

/-- R57: the oldest due order, or where none is due the oldest of those of least cost. -/
theorem chooseOrder_some {cost : Order → Nat} {os : List Order} {o : Order} (h : chooseOrder cost os = some o) :
    ∃ before after, os = before ++ o :: after ∧ ((o.bypass = 8 ∧ ∀ p ∈ before, p.bypass ≠ 8)
      ∨ ((∀ p ∈ os, p.bypass ≠ 8) ∧ (∀ p ∈ before, cost o < cost p) ∧ ∀ p ∈ after, cost o ≤ cost p)) := by
  unfold chooseOrder at h
  cases hf : os.find? (fun o => o.bypass == Config.dueCount) with
  | none =>
    rw [hf] at h
    obtain ⟨before, after, hos, hbefore, hafter⟩ := leastCost_some h
    have hnone : ∀ p ∈ os, p.bypass ≠ 8 := fun p hp => by simpa [Config.dueCount] using List.find?_eq_none.mp hf p hp
    exact ⟨before, after, hos, .inr ⟨hnone, hbefore, hafter⟩⟩
  | some x =>
    rw [hf] at h
    cases h
    obtain ⟨hdue, before, after, hos, hbefore⟩ := List.find?_eq_some_iff_append.mp hf
    exact ⟨before, after, hos, .inl ⟨beq_iff_eq.mp hdue, fun p hp => by simpa [Config.dueCount] using hbefore p hp⟩⟩

/-! ## The orders passed over (R58) -/

theorem passedOver_eq (o : Order) (eligible queue : List Order) :
    passedOver o eligible queue = (queue.filter (fun x => decide (x.arrival ≠ o.arrival))).map (fun x =>
      if x ∈ eligible ∧ x.cls = o.cls then { x with bypass := min (x.bypass + 1) 8 } else x) := by
  unfold passedOver
  simp only [bne_eq_decide_ne, Bool.and_eq_true, List.contains_iff_mem, beq_iff_eq]
  rfl

/-! ## Eligibility (R54) -/

theorem Vol.freeBufs_eq (v : Vol) :
    v.freeBufs = ((List.finRange 40).filter (fun x => decide ((v.buf x).owner = none))).length := by
  simp only [Vol.freeBufs, allBufs, beq_eq_decide]

theorem Vol.heldBufs_eq (v : Vol) (r : ReqId) :
    v.heldBufs r = ((List.finRange 40).filter (fun x => decide ((v.buf x).owner = some r))).length := by
  simp only [Vol.heldBufs, allBufs, beq_eq_decide]

theorem Vol.eligible_read {o : Order} (v : Vol) (h : o.kind = .read) :
    v.eligible o = true
      ↔ o.buffers ≠ [] ∨ o.count ≤ v.freeBufs ∧ v.heldBufs o.req + o.count ≤ Config.requestBuffers := by
  simp [Vol.eligible, h]

theorem Vol.eligible_copyRead {o : Order} (v : Vol) (h : o.kind = .copyRead) :
    v.eligible o = true ↔ o.buffers ≠ [] ∨ Config.requestBuffers ≤ v.freeBufs := by
  simp [Vol.eligible, h]

theorem Vol.eligible_other {o : Order} (v : Vol) (h1 : o.kind ≠ .read) (h2 : o.kind ≠ .copyRead) :
    v.eligible o = true := by
  unfold Vol.eligible
  cases h : o.kind
  case read => exact absurd h h1
  case copyRead => exact absurd h h2
  all_goals rfl

/-! ## Into service (R54, R82, R85, R90, R92, R100, R181) -/

/-- R82, R90: an order put in service, its write-protect sample due, with no preemption pending and the unload count
stopped. -/
def Vol.serve (v : Vol) (d : DriveNo) (p : Order) : Vol :=
  (v.modSched d (fun s => { s with service := some { p with sampled := false }, pending := false })).modSeq d
    Sequencer.takeOrder

/-- R85, R92, R100: an order put in service and its positioning begun, with a recalibration where it is due. -/
def Vol.beginService (b : Battery) (d : DriveNo) (v : Vol) (p : Order) : Vol :=
  if p.kind = .recalibrate then ((v.serve d p).modSeq d Sequencer.beginRecal).go b d
  else if p.tries.attempt = 3 ∧ p.tries.recalBegun = false then
    ((v.serve d { p with tries := { p.tries with recalBegun := true } }).modSeq d Sequencer.beginRecal).go b d
  else (v.serve d p).go b d

theorem Vol.modService_serve (v : Vol) (d : DriveNo) (p : Order) :
    (v.serve d p).modService d (fun o => { o with tries := { o.tries with recalBegun := true } })
      = v.serve d { p with tries := { p.tries with recalBegun := true } } := by
  unfold Vol.modService Vol.serve Vol.modSched Vol.modSeq
  simp only [Vol.modDrive_modDrive]
  rfl

theorem Vol.startOrder_serve (b : Battery) (v : Vol) (d : DriveNo) (p : Order) :
    (v.serve d p).startOrder b d p = v.beginService b d p := by
  unfold Vol.startOrder Vol.beginService
  rw [Vol.modService_serve]

/-- R56, R57, R181: an order placed in service with what it has taken. -/
theorem Vol.placeInService_eq (b : Battery) (v : Vol) (d : DriveNo) (o : Order) :
    v.placeInService b d o = if o.kind = .copyRead ∧ o.count = 0 then
        ((v.takeFor o).2.serve d (v.takeFor o).1).orderEnd b d .done
      else (v.takeFor o).2.beginService b d (v.takeFor o).1 := by
  rw [← Vol.startOrder_serve]
  rfl

/-- The buffers that taking `n` takes: the lowest-numbered free ones (log 42). -/
def Vol.lowestFree (v : Vol) (n : Nat) : List BufNo :=
  ((List.finRange 40).filter (fun x => decide ((v.buf x).owner = none))).take n

theorem Vol.nodup_lowestFree (v : Vol) (n : Nat) : (v.lowestFree n).Nodup :=
  ((List.nodup_finRange 40).filter _).sublist (List.take_sublist ..)

theorem Vol.takeBufs_lowestFree (v : Vol) (r : ReqId) (n : Nat) :
    v.takeBufs r n = (v.lowestFree n, { v with pool := Vector.ofFn (fun x =>
      if x ∈ v.lowestFree n then { v.buf x with owner := some r } else v.buf x) }) := Vol.takeBufs_eq r n v

section
variable {o : Order} (v : Vol)

theorem Vol.takeFor_held (h : o.buffers ≠ []) : v.takeFor o = (o, v) := by
  have he : o.buffers.isEmpty = false := by simpa using h
  unfold Vol.takeFor
  cases o.kind <;> simp [he]

theorem Vol.takeFor_other (h1 : o.kind ≠ .read) (h2 : o.kind ≠ .copyRead) : v.takeFor o = (o, v) := by
  unfold Vol.takeFor
  cases h : o.kind
  case read => exact absurd h h1
  case copyRead => exact absurd h h2
  all_goals rfl

/-- R54: a READ takes its count, for its request to deliver. -/
theorem Vol.takeFor_read (hk : o.kind = .read) (h : o.buffers = []) :
    v.takeFor o = ({ o with buffers := v.lowestFree o.count },
      { v with pool := Vector.ofFn (fun x =>
          if x ∈ v.lowestFree o.count then { v.buf x with owner := some o.req } else v.buf x) }.modReq o.req (fun q =>
        { q with chain := q.chain ++ v.lowestFree o.count })) := by
  unfold Vol.takeFor
  simp only [hk, h, List.isEmpty_nil, if_true, Vol.takeBufs_lowestFree]

/-- R54, R181: a COPY READ takes 8, and zeros those of sectors it does not read. -/
theorem Vol.takeFor_copyRead (hk : o.kind = .copyRead) (h : o.buffers = []) :
    v.takeFor o = ({ o with buffers := v.lowestFree Config.requestBuffers },
      { v with pool := Vector.ofFn (fun x =>
          if x ∈ v.lowestFree Config.requestBuffers then
            { owner := some o.req,
              data := if (v.lowestFree Config.requestBuffers).idxOf x ∈ o.sectors then (v.buf x).data else zeroSector }
          else v.buf x) }) := by
  have hbuf : ∀ f : BufNo → Buffer, ∀ x, Vol.buf { v with pool := Vector.ofFn f } x = f x := by
    simp [Vol.buf]
  unfold Vol.takeFor
  simp only [hk, h, List.isEmpty_nil, if_true, Vol.takeBufs_lowestFree]
  rw [Vol.zeroFill_eq _ _ _ _ (v.nodup_lowestFree _)]
  refine Prod.ext rfl (Vol.pool_ofFn_congr v _ _ (fun x => ?_))
  rw [hbuf, Nat.zero_add]
  by_cases hx : x ∈ v.lowestFree Config.requestBuffers
  · by_cases hw : (v.lowestFree Config.requestBuffers).idxOf x ∈ o.sectors <;>
      simp only [hx, hw, if_true, if_false, not_true, not_false_eq_true, and_self, and_false]
  · simp only [hx, if_false, false_and]

end

/-! ## Selection (R54 to R58) -/

theorem topRank_le_iff (os : List Order) (n : Nat) : topRank os ≤ n ↔ ∀ o ∈ os, o.cls.rank ≤ n := by
  have hfold : ∀ m, os.foldl (fun n o => max n o.cls.rank) m ≤ n ↔ m ≤ n ∧ ∀ o ∈ os, o.cls.rank ≤ n := by
    induction os with
    | nil => simp
    | cons o os ih => simp [ih, and_assoc]
  rw [topRank, hfold]
  simp

theorem topRank_attained {os : List Order} (h : os ≠ []) : ∃ o ∈ os, o.cls.rank = topRank os := by
  by_contra hne
  push Not at hne
  have hlt : ∀ o ∈ os, o.cls.rank ≤ topRank os - 1 := fun o ho =>
    Nat.le_sub_one_of_lt (((topRank_le_iff os _).mp le_rfl o ho).lt_of_ne (hne o ho))
  obtain ⟨o, ho⟩ := List.exists_mem_of_ne_nil os h
  have h1 := (topRank_le_iff os _).mpr hlt
  have h2 := ((topRank_le_iff os _).mp le_rfl o ho).lt_of_ne (hne o ho)
  omega

/-- R56: the orders among some whose class none of them exceeds. -/
def topOrders (os : List Order) : List Order := os.filter (fun o => os.all (fun p => decide (p.cls.rank ≤ o.cls.rank)))

theorem filter_topRank (os : List Order) : os.filter (fun o => o.cls.rank == topRank os) = topOrders os := by
  refine List.filter_congr (fun o ho => ?_)
  rw [Bool.eq_iff_iff, beq_iff_eq, List.all_eq_true]
  simp only [decide_eq_true_iff]
  rw [← topRank_le_iff]
  have := (topRank_le_iff os _).mp le_rfl o ho
  omega

/-- R57, R58: the choice is made among the eligible orders of the highest class. -/
theorem Vol.choose_eq (b : Battery) (v : Vol) (d : DriveNo) (es : List Order) :
    v.choose b d es = match chooseOrder ((v.drive d).effectiveCost (b.timing d)) (topOrders es) with
      | none => v
      | some o => (v.modSched d (fun s => { s with queue := passedOver o es s.queue })).placeInService b d o := by
  rw [← filter_topRank]
  rfl

theorem topOrders_eq_nil_iff (es : List Order) : topOrders es = [] ↔ es = [] := by
  refine ⟨fun h => by_contra fun hne => ?_, fun h => by rw [h]; rfl⟩
  obtain ⟨o, ho, htop⟩ := topRank_attained hne
  rw [← filter_topRank, List.filter_eq_nil_iff] at h
  exact h o ho (beq_iff_eq.mpr htop)

section
variable {v : Vol} {d : DriveNo} {es : List Order} (b : Battery)

theorem Vol.select_empty (h : (v.drive d).sched.stack = []) : v.select b d = v.choose b d (v.eligibleOrders d) := by
  unfold Vol.select
  rw [h]
  rfl

/-- R56: with an order suspended, it is resumed where no eligible order is of a higher class. -/
theorem Vol.select_suspended {below : List Order} {top : Order} (h : (v.drive d).sched.stack = below ++ [top]) :
    v.select b d = if topRank (v.eligibleOrders d) ≤ top.cls.rank then
        (v.modSched d (fun s => { s with stack := below })).placeInService b d top
      else v.choose b d (v.eligibleOrders d) := by
  have hresume : v.resume b d top = (v.modSched d (fun s => { s with stack := below })).placeInService b d top := by
    have hdrop : v.modSched d (fun s => { s with stack := s.stack.dropLast })
        = v.modSched d (fun s => { s with stack := below }) :=
      Vol.modDrive_congr (by dsimp only; rw [h, List.dropLast_concat])
    unfold Vol.resume
    rw [hdrop]
  unfold Vol.select
  rw [h, List.getLast?_concat, ← hresume]
  cases v.eligibleOrders d <;> simp [topRank]

end

/-- Settles O53. -/
theorem theChoiceOfAnOrder : Obligations.TheChoiceOfAnOrder := by
  refine ⟨fun cost os => ⟨chooseOrder_eq_none_iff cost os, fun o h => chooseOrder_some h⟩, passedOver_eq, ?_, ?_, ?_⟩
  · intro v o free held
    have hfree : v.freeBufs = free.length := v.freeBufs_eq
    have hheld : v.heldBufs o.req = held.length := v.heldBufs_eq o.req
    rw [← hfree, ← hheld]
    exact ⟨v.eligible_read, v.eligible_copyRead, v.eligible_other⟩
  · intro b v d o served recalibrates begins taken story
    refine ⟨fun h1 h2 => ?_, fun hk => ⟨fun h => ?_, fun h => ?_⟩, fun hk => ⟨fun h => ?_, fun h => ?_⟩⟩
    · rw [Vol.placeInService_eq, if_neg (fun g => h2 g.1), v.takeFor_other h1 h2]
      rfl
    · rw [Vol.placeInService_eq, if_neg (by simp [hk]), v.takeFor_held h]
      rfl
    · rw [Vol.placeInService_eq, if_neg (by simp [hk]), v.takeFor_read hk h]
      rfl
    · rw [Vol.placeInService_eq, v.takeFor_held h]
      simp only [hk, true_and]
      rfl
    · rw [Vol.placeInService_eq, v.takeFor_copyRead hk h]
      simp only [hk, true_and, Order.mem_sectors]
      rfl
  · intro b v d x es highest chosen fresh
    have hfresh : v.choose b d (v.eligibleOrders d) = fresh := Vol.choose_eq b v d _
    refine ⟨(chooseOrder_eq_none_iff ..).trans (topOrders_eq_nil_iff es), fun h => ?_, fun below top h => ⟨fun hle => ?_, ?_⟩⟩
    · rw [Vol.select_empty b h, hfresh]
    · rw [Vol.select_suspended b h, if_pos ((topRank_le_iff (v.eligibleOrders d) _).mpr hle)]
    · rintro ⟨p, hp, hlt⟩
      rw [Vol.select_suspended b h, if_neg (fun g => hlt.not_ge ((topRank_le_iff (v.eligibleOrders d) _).mp g p hp)), hfresh]

end Sys2Proof.Machine
end

section
/-! PROOFS. A COPY's work: the ends of its units on the destination, its orders, the cursor, and the run of an order for a
set of sectors. -/

namespace Sys2Proof.Machine

/-! ## The ends of a COPY's units (R180, R183, R184, R186) -/

section
variable {v : Vol} {u : UnitWork} {q : Request} (b : Battery) (d : DriveNo)

theorem Vol.copyOpened_ending (hq : v.req u.req = some q) (he : q.stage = .ending) :
    v.copyOpened b d u = v.copyEnd b u.req q.decided false := by
  unfold Vol.copyOpened
  rw [if_pos ((Vol.endingUnit_iff hq).mpr he), Vol.unitOutcome_eq hq]

/-- R180: the invalidation unit puts the COPY in TRACKS, with its first COPY READ. -/
theorem Vol.copyOpened_tracks (hq : v.req u.req = some q) (he : q.stage ≠ .ending) :
    v.copyOpened b d u = ((v.modSeq d (fun x =>
      { x with job := .none, phase := .idle, recal := none, idleDue := true })).modReq u.req (fun p =>
        { p with stage := .tracks })).copyReadNext b u.req := by
  unfold Vol.copyOpened
  rw [if_neg (mt (Vol.endingUnit_iff hq).mp he)]
  rfl

theorem Vol.copyCatalogEnd_ending (half : Nat) (hq : v.req u.req = some q) (he : q.stage = .ending) :
    v.copyCatalogEnd b d u half = v.copyEnd b u.req q.decided false := by
  unfold Vol.copyCatalogEnd
  rw [hq]
  exact if_pos ((Vol.endingUnit_iff hq).mpr he)

theorem Vol.copyCatalogEnd_failed (half : Nat) (hq : v.req u.req = some q) (he : q.stage ≠ .ending)
    (hf : u.failed ≠ []) : v.copyCatalogEnd b d u half = v.copyEnd b u.req .writeFault false := by
  unfold Vol.copyCatalogEnd
  rw [hq]
  dsimp only
  rw [if_neg (mt (Vol.endingUnit_iff hq).mp he), if_pos hf]

theorem Vol.copyCatalogEnd_first (hq : v.req u.req = some q) (he : q.stage ≠ .ending) (hf : u.failed = []) :
    v.copyCatalogEnd b d u 0 = v.beginUnit b d u.req true (.catalog 1) := by
  unfold Vol.copyCatalogEnd
  rw [hq]
  dsimp only
  rw [if_neg (mt (Vol.endingUnit_iff hq).mp he), if_neg (not_not.mpr hf)]
  rfl

/-- R183: after the second catalog unit the source is released and the COPY is in LABEL. -/
theorem Vol.copyCatalogEnd_second (hq : v.req u.req = some q) (he : q.stage ≠ .ending) (hf : u.failed = []) :
    v.copyCatalogEnd b d u 1 = ((v.releaseSource q.drive).modReq u.req (fun p =>
      { p with stage := .label, copy := p.copy.map (fun c => { c with holdsSource := false }) })).beginUnit b d u.req true
        .label := by
  unfold Vol.copyCatalogEnd
  rw [hq]
  dsimp only
  rw [if_neg (mt (Vol.endingUnit_iff hq).mp he), if_neg (not_not.mpr hf)]
  rfl

theorem Vol.copyLabelEnd_eq (v : Vol) (u : UnitWork) :
    v.copyLabelEnd b u = v.copyEnd b u.req (if u.failed = [] then .done else .writeFault) false := by
  unfold Vol.copyLabelEnd
  rw [ite_not]

end

/-! ## The events of the units' ends -/

section
variable {s : State} {d : DriveNo} {u : UnitWork} (hlive : s.vol.live = true)
  (hp : (s.vol.drive d).seq.phase = .unitDone) (hj : (s.vol.drive d).seq.job = .unit u) (hc : u.copy = true)
include hlive hp hj hc

theorem exec_copyOpeningEnd (hk : u.kind = .invalidate) :
    exec (.copyOpeningEnd d) s = .next (s.finish (s.bat, s.vol.copyOpened s.bat d u)) := by
  have hdone : s.vol.copyOpeningDone s.bat d = s.vol.copyOpened s.bat d u := by
    simp [Vol.copyOpeningDone, Vol.unitFinished_eq hp hj, hc, hk]
  rw [← hdone]
  exact whenLive_live (fun b v => (b, v.copyOpeningDone b d)) hlive

theorem exec_copyCatalogUnitEnd {half : Nat} (hk : u.kind = .catalog half) :
    exec (.copyCatalogUnitEnd d) s = .next (s.finish (s.bat, s.vol.copyCatalogEnd s.bat d u half)) := by
  have hdone : s.vol.copyCatalogDone s.bat d = s.vol.copyCatalogEnd s.bat d u half := by
    simp [Vol.copyCatalogDone, Vol.unitFinished_eq hp hj, hc, hk]
  rw [← hdone]
  exact whenLive_live (fun b v => (b, v.copyCatalogDone b d)) hlive

theorem exec_copyLabelVerified (hk : u.kind = .label) :
    exec (.copyLabelVerified d) s = .next (s.finish (s.bat, s.vol.copyLabelEnd s.bat u)) := by
  have hdone : s.vol.copyLabelDone s.bat d = s.vol.copyLabelEnd s.bat u := by
    simp [Vol.copyLabelDone, Vol.unitFinished_eq hp hj, hc, hk]
  rw [← hdone]
  exact whenLive_live (fun b v => (b, v.copyLabelDone b d)) hlive

end

/-! ## The ends of a COPY's orders (R59, R182, R185) -/

section
variable {v : Vol} {o : Order} {q : Request} {c : CopyWork} (b : Battery)

theorem Vol.respond_copyRead (oc : OutcomeCode) (h : v.req o.req = some q) (hs : q.stage ≠ .ending)
    (hk : o.kind = .copyRead) :
    v.respond b o oc = if oc = .done then v.copyWriteNext b o.req o else v.copyEnd b o.req oc false := by
  unfold Vol.respond
  rw [h]
  simp only [if_neg hs, hk]

theorem Vol.respond_copyWrite (oc : OutcomeCode) (h : v.req o.req = some q) (hs : q.stage ≠ .ending)
    (hk : o.kind = .copyWrite) :
    v.respond b o oc
      = if oc = .done then (v.returnBufs o.buffers).copyAdvance b o.req else v.copyEnd b o.req oc false := by
  unfold Vol.respond
  rw [h]
  simp only [if_neg hs, hk]

theorem writeSectors_eq (bads : List Nat) (cyl side : Nat) :
    writeSectors bads cyl side = (List.range 8).filter (fun n => decide (dataIndex cyl side n ∉ bads)) := by
  simp [writeSectors]

/-- R182: after a COPY READ, the COPY WRITE of the sectors that are not bad, or with none the next track side. -/
theorem Vol.copyWriteNext_eq (h : v.req o.req = some q) (hc : q.copy = some c) :
    v.copyWriteNext b o.req o =
      if writeSectors c.bads o.cyl o.side = [] then (v.returnBufs o.buffers).copyAdvance b o.req
      else v.makeOrder b o.req q.dest .copyWrite
        (runOfSet o.cyl o.side (writeSectors c.bads o.cyl o.side) o.buffers) := by
  unfold Vol.copyWriteNext
  rw [h]
  simp only [hc, List.isEmpty_iff]

end

/-! ## The cursor (R181, R182) -/

section
variable {v : Vol} {r : ReqId} {q : Request} {c side : Nat} (b : Battery)

/-- R53: the copy cursor of a drive put on a track side. -/
def Vol.setCursor (v : Vol) (d : DriveNo) (p : Nat × Nat) : Vol := v.modSched d (fun s => { s with cursor := some p })

/-- R182: the cursor goes to side 1, to the next cylinder, or at the end of the diskette to cylinder 0 with the COPY in
CATALOG. -/
theorem Vol.copyAdvance_eq (h : v.req r = some q) (hc : (v.drive q.drive).sched.cursor = some (c, side)) :
    v.copyAdvance b r =
      if side = 0 then (v.setCursor q.drive (c, 1)).copyReadNext b r
      else if c < Config.lastCylinder then (v.setCursor q.drive (c + 1, 0)).copyReadNext b r
      else ((v.setCursor q.drive (0, 0)).modReq r (fun q => { q with stage := .catalog })).beginUnit b q.dest r true
        (.catalog 0) := by
  unfold Vol.copyAdvance
  rw [h]
  simp only [hc]
  rfl

theorem storySectors_eq (m : Mirror) (cyl side : Nat) :
    storySectors m cyl side = (List.range 8).filter (fun n => decide (dataIndex cyl side n ∈ filedSectors m.slots)) := by
  simp [storySectors]

/-- R181: the COPY READ of the track side the cursor names. -/
theorem Vol.copyReadNext_eq {m : Mirror} (h : v.req r = some q)
    (hc : (v.drive q.drive).sched.cursor = some (c, side)) (hm : v.mirror q.drive = some m) :
    v.copyReadNext b r = v.makeOrder b r q.drive .copyRead (runOfSet c side (storySectors m c side) []) := by
  unfold Vol.copyReadNext
  rw [h]
  simp only [hc, hm]

end

/-! ## The run of a set of sectors (R181, R182) -/

theorem runOfSet_nil (c side : Nat) (bufs : List BufNo) :
    runOfSet c side [] bufs = { cyl := c, side, first := 0, count := 0, skip := [], buffers := bufs } := rfl

theorem runOfSet_of_ends {c side lo hi : Nat} {xs : List Nat} (bufs : List BufNo) (hlo : xs.head? = some lo)
    (hhi : xs.getLast? = some hi) :
    runOfSet c side xs bufs =
      { cyl := c, side, first := lo, count := hi + 1 - lo,
        skip := (List.range 8).filter (fun n => lo ≤ n && n ≤ hi && !xs.contains n), buffers := bufs } := by
  unfold runOfSet
  rw [hlo, hhi]

theorem head_le_of_rising {xs : List Nat} {lo : Nat} (hs : xs.Pairwise (fun x y => x < y)) (h : xs.head? = some lo) :
    ∀ x ∈ xs, lo ≤ x := by
  cases xs with
  | nil => cases h
  | cons y ys =>
    cases h
    exact List.forall_mem_cons.mpr ⟨le_rfl, fun x hx => (List.rel_of_pairwise_cons hs hx).le⟩

theorem le_getLast_of_rising {xs : List Nat} {hi : Nat} (hs : xs.Pairwise (fun x y => x < y)) (h : xs.getLast? = some hi) :
    ∀ x ∈ xs, x ≤ hi := by
  obtain ⟨ys, rfl⟩ := List.getLast?_eq_some_iff.mp h
  intro x hx
  rcases List.mem_append.mp hx with hx | hx
  · exact ((List.pairwise_append.mp hs).2.2 x hx hi (List.mem_singleton_self hi)).le
  · exact (List.mem_singleton.mp hx).le

/-- R181, R182: the run goes from the lowest sector of the set to the highest, and skips what is not in the set. -/
theorem runOfSet_spec {xs : List Nat} (c side : Nat) (bufs : List BufNo) (hs : xs.Pairwise (fun x y => x < y))
    (h8 : ∀ x ∈ xs, x < 8) (hne : xs ≠ []) :
    let p := runOfSet c side xs bufs
    p.first ∈ xs ∧ p.first + p.count - 1 ∈ xs ∧ 1 ≤ p.count
      ∧ ∀ n, (n ∈ xs ↔ (p.first ≤ n ∧ n < p.first + p.count ∧ n ∉ p.skip))
        ∧ (n ∈ p.skip → p.first ≤ n ∧ n < p.first + p.count) := by
  intro p
  have hlo := List.head?_eq_some_head hne
  have hhi := List.getLast?_eq_some_getLast hne
  have hle := head_le_of_rising hs hlo
  have hge := le_getLast_of_rising hs hhi
  have hp : p = _ := runOfSet_of_ends bufs hlo hhi
  have hlast : xs.getLast hne ∈ xs := List.getLast_mem hne
  have hcount := hle _ hlast
  have hskip : ∀ n, n ∈ p.skip ↔ n < 8 ∧ (xs.head hne ≤ n ∧ n ≤ xs.getLast hne) ∧ n ∉ xs := by
    intro n
    rw [hp]
    simp
  have hend : p.first + p.count = xs.getLast hne + 1 := by
    rw [hp]
    dsimp only
    omega
  have hfirst : p.first = xs.head hne := by rw [hp]
  refine ⟨hfirst ▸ List.head_mem hne, ?_, ?_, fun n => ⟨⟨fun hn => ?_, ?_⟩, fun hn => ?_⟩⟩
  · rw [hend]
    exact hlast
  · omega
  · have h1 := hle n hn
    have h2 := hge n hn
    exact ⟨by omega, by omega, fun g => ((hskip n).mp g).2.2 hn⟩
  · rintro ⟨h1, h2, h3⟩
    by_contra hn
    have h4 := h8 _ hlast
    exact h3 ((hskip n).mpr ⟨by omega, ⟨by omega, by omega⟩, hn⟩)
  · obtain ⟨-, ⟨h1, h2⟩, -⟩ := (hskip n).mp hn
    omega

/-- Settles O49. -/
theorem copyUnitsFollowEachOther : Obligations.CopyUnitsFollowEachOther := by
  refine ⟨?_, ?_, ?_, ?_⟩
  · intro s d u q hlive hp hj hc hq
    refine ⟨fun hk he => ?_, fun hk he => ?_, fun hk he hf => ?_, fun hk he hf => ?_, fun half hk he hf => ?_,
      fun half hk he => ?_, fun hk => ?_⟩
    · rw [exec_copyOpeningEnd hlive hp hj hc hk, Vol.copyOpened_tracks s.bat d hq he]
    · rw [exec_copyOpeningEnd hlive hp hj hc hk, Vol.copyOpened_ending s.bat d hq he]
      rfl
    · rw [exec_copyCatalogUnitEnd hlive hp hj hc hk, Vol.copyCatalogEnd_first s.bat d hq he hf]
    · rw [exec_copyCatalogUnitEnd hlive hp hj hc hk, Vol.copyCatalogEnd_second s.bat d hq he hf]
      rfl
    · rw [exec_copyCatalogUnitEnd hlive hp hj hc hk, Vol.copyCatalogEnd_failed s.bat d half hq he hf]
    · rw [exec_copyCatalogUnitEnd hlive hp hj hc hk, Vol.copyCatalogEnd_ending s.bat d half hq he]
      rfl
    · rw [exec_copyLabelVerified hlive hp hj hc hk, Vol.copyLabelEnd_eq]
  · intro b v d o q c hserv hq hc he w sound
    have hend : ∀ oc, v.orderEnd b d oc = w.respond b o oc := fun oc => Vol.orderEnd_eq b oc hserv
    have hq' : w.req o.req = some q := hq
    have hsound : writeSectors c.bads o.cyl o.side = sound := writeSectors_eq ..
    refine ⟨fun hk hne => ?_, fun hk hnil => ?_, fun hk => ?_, fun oc hoc hk => ?_⟩
    · rw [hend, Vol.respond_copyRead b .done hq' he hk, if_pos rfl, Vol.copyWriteNext_eq b hq' hc, hsound, if_neg hne]
    · rw [hend, Vol.respond_copyRead b .done hq' he hk, if_pos rfl, Vol.copyWriteNext_eq b hq' hc, hsound, if_pos hnil]
    · rw [hend, Vol.respond_copyWrite b .done hq' he hk, if_pos rfl]
    · rw [hend]
      rcases hk with hk | hk
      · rw [Vol.respond_copyRead b oc hq' he hk, if_neg hoc]
      · rw [Vol.respond_copyWrite b oc hq' he hk, if_neg hoc]
  · intro b v r q c side hq hcur cursorAt
    refine ⟨fun hs => ?_, fun hs hc => ?_, fun hs hc => ?_, fun m hm => ?_⟩
    · rw [Vol.copyAdvance_eq b hq hcur, if_pos hs]
      rfl
    · rw [Vol.copyAdvance_eq b hq hcur, if_neg hs, if_pos (show c < Config.lastCylinder from hc)]
      rfl
    · rw [Vol.copyAdvance_eq b hq hcur, if_neg hs, if_neg (show ¬ c < Config.lastCylinder from Nat.not_lt.mpr hc)]
      rfl
    · rw [Vol.copyReadNext_eq b hq hcur hm, storySectors_eq]
  · intro c side xs bufs hs h8 p
    by_cases hne : xs = []
    · subst hne
      exact ⟨rfl, rfl, rfl, fun _ => rfl, fun h => absurd rfl h⟩
    · have hp : p = _ := runOfSet_of_ends bufs (List.head?_eq_some_head hne) (List.getLast?_eq_some_getLast hne)
      refine ⟨?_, ?_, ?_, fun h => absurd h hne, runOfSet_spec c side bufs hs h8⟩ <;> rw [hp]

end Sys2Proof.Machine
end

section
/-! PROOFS. Seconds and minutes: the end of a second, the editions that entered a state at a minute event, the notices it
sets on every line, and the queued orders a WARNING event raises. -/

namespace Sys2Proof.Machine

/-! ## The end of a second (R158, R170) -/

theorem exec_secondEnd (s : State) : exec .secondEnd s = .next (s.finish (secondEnd s.bat s.vol)) := rfl

theorem secondEnd_within {b : Battery} (v : Vol) (h : b.clock.ss ≠ 59) :
    secondEnd b v
      = ({ b with clock := { b.clock with ss := b.clock.ss + 1, prescaler := 0, secondLength := 32768 } }, v) := by
  simp [secondEnd, Clock.endSecond, h]

theorem secondEnd_minute {b : Battery} (v : Vol) (h : b.clock.ss = 59) :
    secondEnd b v = if v.live then minuteTick { b with clock := b.clock.carryMinute } v
      else ({ b with clock := b.clock.carryMinute }, v) := by
  simp [secondEnd, Clock.endSecond, h]

/-! ## The editions at a minute event (R164, R167) -/

theorem editions_minuteTick (b : Battery) (v : Vol) (i : Fin 8) :
    (minuteTick b v).1.editions[i] = if b.clock.valid && (b.editions[i]).enabled
      then { b.editions[i] with state := (b.editions[i]).arcState b.clock.minute } else b.editions[i] := by
  change b.minuteEvent.editions[i] = _
  rw [Battery.editions_minuteEvent]
  cases b.clock.valid
  · rfl
  · rfl

/-- R167: an edition is in a state after a minute event that it was not in before. -/
def hasEntered (st : EditionState) (before after : Battery) (i : Fin 8) : Bool :=
  after.editions[i].state == st && before.editions[i].state != st

theorem getLsbD_editionBit : ∀ i j : Fin 8, (editionBit (i.val + 1)).getLsbD j.val = decide (j = i) := by decide

theorem getLsbD_entered (st : EditionState) (before after : Battery) (j : Fin 8) :
    (entered st before after).getLsbD j.val = hasEntered st before after j := by
  have hfold : ∀ (l : List (Fin 8)) (acc : Byte), (l.foldl (fun acc i =>
      if (after.editions[i]).state = st ∧ (before.editions[i]).state ≠ st then acc ||| editionBit (i.val + 1)
      else acc) acc).getLsbD j.val = (acc.getLsbD j.val || (decide (j ∈ l) && hasEntered st before after j)) := by
    intro l
    induction l with
    | nil => simp
    | cons i l ih =>
      intro acc
      rw [List.foldl_cons, ih]
      by_cases hij : j = i
      · subst hij
        by_cases hst : (after.editions[j]).state = st ∧ (before.editions[j]).state ≠ st
        · have hin : hasEntered st before after j = true := by
            unfold hasEntered
            rw [hst.1, beq_self_eq_true, Bool.true_and, bne_iff_ne]
            exact hst.2
          rw [if_pos hst, BitVec.getLsbD_or, getLsbD_editionBit, hin]
          simp
        · have hnot : hasEntered st before after j = false := by simpa [hasEntered] using hst
          rw [if_neg hst, hnot]
          simp
      · have hbit : (if (after.editions[i]).state = st ∧ (before.editions[i]).state ≠ st
            then acc ||| editionBit (i.val + 1) else acc).getLsbD j.val = acc.getLsbD j.val := by
          split
          · rw [BitVec.getLsbD_or, getLsbD_editionBit, decide_eq_false hij, Bool.or_false]
          · rfl
        rw [hbit]
        simp [hij]
  unfold entered
  rw [hfold]
  simp [mem_allEditions]

/-! ## The notices (R137, R167) -/

theorem Vol.editionNotices_eq (v : Vol) (warned closed : Byte) : ∃ p, v.editionNotices warned closed = { v with ports := p }
    ∧ ∀ k : Line, p[k] = { v.port k with notice := { (v.port k).notice with
        warning := (v.port k).notice.warning ||| warned, closed := (v.port k).notice.closed ||| closed } } := by
  obtain ⟨p, hp⟩ := Vol.modPorts_eq (fun _ p => { p with notice := { p.notice with
    warning := p.notice.warning ||| warned, closed := p.notice.closed ||| closed } }) allLines v
  refine ⟨p, hp, fun k => ?_⟩
  have hport : p[k] = ({ v with ports := p } : Vol).port k := rfl
  rw [hport, ← hp, Vol.port_modPorts _ v (mem_allLines k) allLines_nodup]

/-! ## The orders raised (R71) -/

theorem Vol.raisable_of_reqs {v w : Vol} (h : w.reqs = v.reqs) : w.raisable = v.raisable := by
  funext warned o
  unfold Vol.raisable
  rw [Vol.req_of_reqs h]

/-- R71: a scheduler with its raisable orders at EDITION class, each in its place. -/
def Vol.raise (v : Vol) (warned : Byte) (s : Scheduler) : Scheduler :=
  { s with queue := s.queue.map (fun o => if v.raisable warned o then { o with cls := .edition } else o) }

/-- R65, R71: the preemption tests of the orders raised on a drive that has an order in service. -/
def Vol.raiseTests (v : Vol) (warned : Byte) (d : DriveNo) : List (DriveNo × Nat) :=
  if (v.drive d).sched.service.isSome then
    ((v.drive d).sched.queue.filter (v.raisable warned)).map (fun o => (d, o.arrival))
  else []

theorem Vol.promoteOn_eq (v : Vol) (warned : Byte) (d : DriveNo) :
    v.promoteOn warned d = { v.modSched d (v.raise warned) with tests := v.tests ++ v.raiseTests warned d } := by
  unfold Vol.promoteOn Vol.raiseTests
  dsimp only
  split
  · rfl
  · rw [List.append_nil]
    rfl

/-- R71: a WARNING event on some drives, one after the other. -/
theorem Vol.promoteOn_foldl (warned : Byte) (ds : List DriveNo) (hn : ds.Nodup) (v : Vol) :
    (∀ d, ((ds.foldl (Vol.promoteOn warned) v).drive d).sched
        = if d ∈ ds then v.raise warned (v.drive d).sched else (v.drive d).sched)
      ∧ (ds.foldl (Vol.promoteOn warned) v).tests = v.tests ++ ds.flatMap (v.raiseTests warned)
      ∧ (ds.foldl (Vol.promoteOn warned) v).ports = v.ports := by
  induction ds generalizing v with
  | nil => exact ⟨fun d => rfl, (List.append_nil _).symm, rfl⟩
  | cons e ds ih =>
    obtain ⟨he, hn⟩ := List.nodup_cons.mp hn
    have hw := v.promoteOn_eq warned e
    generalize hwv : v.promoteOn warned e = w at hw
    have hreqs : w.raisable = v.raisable := Vol.raisable_of_reqs (by rw [hw]; rfl)
    have hraise : w.raise warned = v.raise warned := by
      unfold Vol.raise
      rw [hreqs]
    have hother : ∀ d, d ≠ e → w.drive d = v.drive d := fun d hd => by
      rw [hw]
      exact Vol.drive_modSched_ne _ _ _ _ hd
    have hself : (w.drive e).sched = v.raise warned (v.drive e).sched := by
      rw [hw]
      exact congrArg Drive.sched (Vol.drive_modSched_self ..)
    have htests : ds.flatMap (w.raiseTests warned) = ds.flatMap (v.raiseTests warned) := by
      refine List.flatMap_congr (fun d hd => ?_)
      unfold Vol.raiseTests
      rw [hreqs, hother d (fun h => he (h ▸ hd))]
    obtain ⟨h1, h2, h3⟩ := ih hn w
    rw [List.foldl_cons, hwv]
    refine ⟨fun d => ?_, ?_, ?_⟩
    · rw [h1, hraise]
      by_cases hd : d = e
      · subst hd
        rw [if_neg he, if_pos List.mem_cons_self, hself]
      · simp only [hother d hd, List.mem_cons, hd, false_or]
    · rw [h2, htests, List.flatMap_cons, ← List.append_assoc, hw]
    · rw [h3, hw]
      rfl

theorem vol_minuteTick (b : Battery) (v : Vol) :
    (minuteTick b v).2 = allDrives.foldl (Vol.promoteOn (entered .warning b b.minuteEvent))
      (v.editionNotices (entered .warning b b.minuteEvent) (entered .closed b b.minuteEvent)) := by
  unfold minuteTick
  dsimp only

/-- R71: what a minute event leaves of the ports, the schedulers and the preemption tests. -/
theorem minuteTick_frame (b : Battery) (v : Vol) :
    let warned := entered .warning b b.minuteEvent
    (minuteTick b v).2.ports = (v.editionNotices warned (entered .closed b b.minuteEvent)).ports
      ∧ (∀ d, ((minuteTick b v).2.drive d).sched = v.raise warned (v.drive d).sched)
      ∧ (minuteTick b v).2.tests = v.tests ++ allDrives.flatMap (v.raiseTests warned) := by
  intro warned
  obtain ⟨p, hp, -⟩ := v.editionNotices_eq warned (entered .closed b b.minuteEvent)
  obtain ⟨h1, h2, h3⟩ := Vol.promoteOn_foldl warned allDrives (by decide) { v with ports := p }
  rw [vol_minuteTick, hp]
  exact ⟨h3, fun d => (h1 d).trans (if_pos (mem_allDrives d)), h2⟩

/-- R71: the set of the editions that entered a state, read at the number of a request's edition. -/
theorem getLsbD_of_number {set : Byte} {entered : Fin 8 → Bool} (h : ∀ i : Fin 8, set.getLsbD i.val = entered i) (n : Nat) :
    (decide (1 ≤ n) && set.getLsbD (n - 1)) = (List.finRange 8).any (fun i => n == i.val + 1 && entered i) := by
  rw [Bool.eq_iff_iff, List.any_eq_true]
  simp only [Bool.and_eq_true, decide_eq_true_iff, beq_iff_eq, ← h]
  constructor
  · rintro ⟨hn, hset⟩
    have hlt : n - 1 < 8 := BitVec.lt_of_getLsbD hset
    exact ⟨⟨n - 1, hlt⟩, List.mem_finRange _, (Nat.sub_add_cancel hn).symm, hset⟩
  · rintro ⟨i, -, rfl, hset⟩
    exact ⟨Nat.le_add_left 1 _, hset⟩

/-- R71: an order is raised where it is of ROUTINE class and its request carries an edition that entered WARNING. -/
theorem Vol.raisable_entered (v : Vol) (before after : Battery) (o : Order) :
    v.raisable (entered .warning before after) o = (o.cls == .routine && (v.req o.req).any (fun q =>
      (List.finRange 8).any (fun i => q.edition == i.val + 1 && hasEntered .warning before after i))) := by
  unfold Vol.raisable
  cases v.req o.req with
  | none => rfl
  | some q => exact congrArg (_ && ·) (getLsbD_of_number (getLsbD_entered .warning before after) q.edition)

/-- Settles O20. -/
theorem secondsAndMinutes : Obligations.SecondsAndMinutes := by
  refine ⟨fun s => ⟨fun h => ?_, fun h hlive => ?_, fun h hlive => ?_⟩, fun b v => ⟨?_, ?_, ?_, fun k i => ?_⟩, ?_⟩
  · rw [exec_secondEnd, secondEnd_within _ h]
  · rw [exec_secondEnd, secondEnd_minute _ h, if_pos hlive]
  · rw [exec_secondEnd, secondEnd_minute _ h, hlive]
    rfl
  · exact Battery.clock_minuteEvent b
  · exact Battery.settings_minuteEvent b
  · exact editions_minuteTick b v
  · obtain ⟨p, hp, hports⟩ := v.editionNotices_eq (entered .warning b b.minuteEvent) (entered .closed b b.minuteEvent)
    have hport : (minuteTick b v).2.port k = p[k] := by
      unfold Vol.port
      rw [(minuteTick_frame b v).1, hp]
    rw [hport, hports k]
    dsimp only
    rw [BitVec.getLsbD_or, BitVec.getLsbD_or, getLsbD_entered, getLsbD_entered]
    exact ⟨rfl, rfl⟩
  · intro b v warns raised
    have hraised : v.raisable (entered .warning b b.minuteEvent) = raised := by
      funext o
      rw [Vol.raisable_entered]
      simp only [raised]
      cases v.req o.req <;> rfl
    obtain ⟨-, hsched, htests⟩ := minuteTick_frame b v
    refine ⟨fun d => ?_, ?_⟩
    · rw [hsched, ← hraised]
      rfl
    · rw [htests, ← hraised]
      rfl

end Sys2Proof.Machine
end

section
/-! PROOFS. SET: the settings after a store, item by item; the battery domain and the answer of a SET taken; and the
unload count a SET starts again. -/

namespace Sys2Proof.Machine

/-! ## The settings after a store (R173, R174) -/

theorem LineSettings.field_store (t : LineSettings) (f g : Fin 5) (x : Nat) :
    (t.store f x).field g = if g = f then x else t.field g := by
  fin_cases f <;> fin_cases g <;> rfl

theorem DriveSettings.field_store (t : DriveSettings) (f g : Fin 6) (x : Nat) :
    (t.store f x).field g = if g = f then x else t.field g := by
  fin_cases f <;> fin_cases g <;> rfl

theorem Settings.lines_store_desk (t : Settings) (k j : Fin 8) (f : Fin 5) (x : Nat) :
    (t.store (.desk k f) x).lines[j] = if j = k then (t.lines[k]).store f x else t.lines[j] := by
  simp only [Settings.store, Fin.getElem_fin, Vector.getElem_set, Fin.val_inj, eq_comm (a := k)]

theorem Settings.drives_store_cabinet (t : Settings) (d e : DriveNo) (f : Fin 6) (x : Nat) :
    (t.store (.cabinet d f) x).drives[e] = if e = d then (t.drives[d]).store f x else t.drives[e] := by
  simp only [Settings.store, Fin.getElem_fin, Vector.getElem_set, Fin.val_inj, eq_comm (a := d)]

theorem Battery.itemBytes_storeItem_self (b : Battery) {i : Item} (value : Nat) (hi : i ≠ .trim) :
    (b.storeItem i value).itemBytes i = be16 (min value i.top) := by
  cases i with
  | desk k f =>
    change be16 (((b.settings.store (.desk k f) _).lines[k]).field f) = _
    rw [Settings.lines_store_desk, if_pos rfl, LineSettings.field_store, if_pos rfl]
  | cabinet d f =>
    change be16 (((b.settings.store (.cabinet d f) _).drives[d]).field f) = _
    rw [Settings.drives_store_cabinet, if_pos rfl, DriveSettings.field_store, if_pos rfl]
  | supervisorRate => rfl
  | trim => exact absurd rfl hi

/-- A store into a desk line's settings is seen by that line's item alone. -/
theorem Battery.itemBytes_storeDesk_ne (b : Battery) (k : Fin 8) (f : Fin 5) (value : Nat) {j : Item}
    (hj : j ≠ .desk k f) : (b.storeItem (.desk k f) value).itemBytes j = b.itemBytes j := by
  cases j with
  | desk l g =>
    change be16 (((b.settings.store (.desk k f) _).lines[l]).field g) = be16 ((b.settings.lines[l]).field g)
    rw [Settings.lines_store_desk]
    by_cases hl : l = k
    · subst hl
      have hg : g ≠ f := fun h => hj (h ▸ rfl)
      rw [if_pos rfl, LineSettings.field_store, if_neg hg]
    · rw [if_neg hl]
  | cabinet | supervisorRate | trim => rfl

/-- A store into a drive's settings is seen by that drive's item alone. -/
theorem Battery.itemBytes_storeCabinet_ne (b : Battery) (d : DriveNo) (f : Fin 6) (value : Nat) {j : Item}
    (hj : j ≠ .cabinet d f) : (b.storeItem (.cabinet d f) value).itemBytes j = b.itemBytes j := by
  cases j with
  | cabinet e g =>
    change be16 (((b.settings.store (.cabinet d f) _).drives[e]).field g) = be16 ((b.settings.drives[e]).field g)
    rw [Settings.drives_store_cabinet]
    by_cases he : e = d
    · subst he
      have hg : g ≠ f := fun h => hj (h ▸ rfl)
      rw [if_pos rfl, DriveSettings.field_store, if_neg hg]
    · rw [if_neg he]
  | desk | supervisorRate | trim => rfl

theorem Battery.itemBytes_storeItem_ne (b : Battery) {i j : Item} (value : Nat) (hj : j ≠ i) :
    (b.storeItem i value).itemBytes j = b.itemBytes j := by
  cases i with
  | desk k f => exact b.itemBytes_storeDesk_ne k f value hj
  | cabinet d f => exact b.itemBytes_storeCabinet_ne d f value hj
  | supervisorRate =>
    cases j with
    | supervisorRate => exact absurd rfl hj
    | desk | cabinet | trim => rfl
  | trim => rfl

/-! ## SET taken (R173, R176) -/

theorem takeSet_taken {tag item : Byte} {i : Item} (value : Word16) (b : Battery) (v : Vol) (ht : tag ≠ 0)
    (hp : parseItem item = some i) (hi : i ≠ .trim) :
    takeSet supervisorLine tag item value b v =
      (b.storeItem i value.toNat, (v.noteSet i value.toNat).addReply supervisorLine
        (.single (answerBody tag .done (item :: be16 (min value.toNat i.top)))) true i.mark) := by
  unfold takeSet
  rw [hp]
  dsimp only
  rw [tagOk_of ht, beq_eq_false_iff_ne.mpr hi, b.itemBytes_storeItem_self _ hi]
  rfl

/-! ## The unload count (R90, R177) -/

theorem Sequencer.restartUnload_eq (setting : Nat) (q : Sequencer) :
    q.restartUnload setting = { q with unload := if q.unload = none ∨ setting = 0 then none else some 0 } := by
  unfold Sequencer.restartUnload
  cases hu : q.unload with
  | none =>
    rw [if_pos (Or.inl rfl)]
    exact congrArg (fun u => { q with unload := u }) hu
  | some n => simp

theorem Vol.noteSet_unload (v : Vol) (d : DriveNo) (value : Nat) :
    v.noteSet (.cabinet d 3) value = v.modSeq d (Sequencer.restartUnload (min value 15)) := rfl

theorem Vol.noteSet_of_ne_unload (v : Vol) (value : Nat) {i : Item} (hi : ∀ d, i ≠ .cabinet d 3) :
    v.noteSet i value = v := by
  cases i with
  | cabinet d f =>
    have hf : f ≠ 3 := fun h => hi d (h ▸ rfl)
    exact if_neg hf
  | desk | supervisorRate | trim => rfl

/-- Settles O16. -/
theorem setStoresTheClampedValue : Obligations.SetStoresTheClampedValue := by
  refine ⟨fun s tag item i value hk ht hp hi => ?_, fun v value => ⟨fun i hi => ?_, fun d => ?_⟩⟩
  · have hexec : exec (.set supervisorLine tag item value) s
        = .next (s.finish (takeSet supervisorLine tag item value s.bat s.vol)) := exec_hears hk rfl
    rw [takeSet_taken value s.bat s.vol ht hp hi] at hexec
    exact ⟨_, hexec, s.bat.itemBytes_storeItem_self _ hi, fun j hj => s.bat.itemBytes_storeItem_ne _ hj, rfl, rfl, rfl⟩
  · exact v.noteSet_of_ne_unload value hi
  · rw [Vol.noteSet_unload, funext (Sequencer.restartUnload_eq (min value 15))]

end Sys2Proof.Machine
end

section
/-! PROOFS. What every step keeps of the outbound stores and of blocks that do not run, and what the follow-on work reaches
outside. -/

namespace Sys2Proof.Machine

/-- Settles O13: the follow-on work only places frames, and touches neither the battery domain nor the queue. -/
theorem followOnWorkOnlyPlacesFrames : Obligations.FollowOnWorkOnlyPlacesFrames :=
  fun s b v => ⟨rfl, rfl, s.placedOnly_finish (b, v)⟩

/-! ## The outbound stores (R134) -/

/-- R134, R135: frames placed only where there is room leave no store above six frames. -/
theorem Vol.storesWithin_of_placedOnly {v w : Vol} (h : v.placedOnly w)
    (hv : ∀ k, (v.port k).store.length ≤ Config.storeFrames) (k : Line) :
    (w.port k).store.length ≤ Config.storeFrames := by
  obtain ⟨-, -, -, hports⟩ := h
  obtain ⟨-, fs, hstore, hroom⟩ := hports k
  rcases hroom with rfl | hroom
  · rw [hstore, List.append_nil]
    exact hv k
  · exact hroom

/-- Settles O8: a command's own effects put no frame into a store, and the follow-on work places frames where there is
room. -/
theorem stepKeepsStoresWithinSix : Obligations.StepKeepsStoresWithinSix := by
  intro s t hs h
  rcases step_cases h with rfl | ⟨c, rest, -, he⟩
  · exact hs
  · rcases exec_cases he with rfl | ⟨-, rfl⟩
    · exact hs
    · exact Vol.storesWithin_of_placedOnly (State.placedOnly_finish _ _)
        (fun k => (storesFrom_ownEffect c s.bat s.vol k).trans (hs k))

/-! ## The blocks while they do not run (R170, R171) -/

theorem State.restsWhenStopped_iff (s : State) : s.restsWhenStopped ↔ restsIn s.bat s.vol := Iff.rfl

/-- A command that acts finds the blocks running, or acts whether they run or not. -/
theorem State.live_or_actsAlways {s : State} {c : Instr} (h : s.acts c = true) :
    s.vol.live = true ∨ actsAlways c = true := by
  unfold State.acts at h
  rw [Bool.or_eq_true, Bool.and_eq_true] at h
  exact h.symm.imp_left And.left

/-- Settles O11: a command's own effects keep stopped blocks at rest, and the follow-on work does nothing in them. -/
theorem stepKeepsStoppedBlocksAtRest : Obligations.StepKeepsStoppedBlocksAtRest := by
  intro s t hs h
  rcases step_cases h with rfl | ⟨c, rest, -, he⟩
  · exact hs
  · rcases exec_cases he with rfl | ⟨hacts, rfl⟩
    · exact hs
    · have hown := restsIn_own c s.bat s.vol (State.live_or_actsAlways hacts) (s.restsWhenStopped_iff.mp hs)
      exact restsIn_finish _ _ _ hown

/-! ## Frames that are not taken (R125, R130, R131, R133, R171) -/

/-- No whole-frame command acts while the blocks do not run. -/
theorem actsAlways_frame {i : Instr} {k : Line} (h : frameLineOf i = some k) : actsAlways i = false := by
  cases i
  case powerOn | resetHold | resetRelease | secondEnd | doorLineChange | mainPowerLoss | angleUnitTick => cases h
  all_goals rfl

/-- A whole-frame command acts exactly where its line is heard. -/
theorem State.acts_frame (s : State) {i : Instr} {k : Line} (h : frameLineOf i = some k) :
    s.acts i = true ↔ s.hears k := by
  unfold State.acts State.hears
  rw [actsAlways_frame h, h, Bool.false_or, Bool.and_eq_true]

theorem exec_unheard {i : Instr} {s : State} {k : Line} (h : ¬ s.hears k) (hi : frameLineOf i = some k) :
    exec i s = .next s := by
  rw [exec_eq, if_neg (mt (s.acts_frame hi).mp h)]

/-- Settles O3: each of the rows is a whole frame on the line. -/
theorem framesNotTakenChangeNothing : Obligations.FramesNotTakenChangeNothing := by
  intro s k h
  and_intros
  all_goals
    intros
    exact exec_unheard h rfl

end Sys2Proof.Machine
end

section
/-! PROOFS. The inbound side of a line: the assembler byte by byte, frames complete and faulted, whole envelopes, and what
a sent frame brings. -/

namespace Sys2Proof.Machine

/-! ## The assembler of a line changed -/

theorem Vol.port_assemble_self (k : Line) (a : Assembler) (gap silence : Bool) (v : Vol) :
    (v.assemble k a gap silence).port k = (v.port k).assemble a gap silence := Vol.port_modPort_self ..

@[simp] theorem Vol.assembler_assemble (k : Line) (a : Assembler) (gap silence : Bool) (v : Vol) :
    ((v.assemble k a gap silence).port k).assembler = a := by
  rw [Vol.port_assemble_self]
  rfl

@[simp] theorem Vol.detector_assemble (k : Line) (a : Assembler) (gap silence : Bool) (v : Vol) :
    ((v.assemble k a gap silence).port k).detector = (v.port k).detector := by
  rw [Vol.port_assemble_self]
  rfl

@[simp] theorem Vol.directCount_assemble (k : Line) (a : Assembler) (gap silence : Bool) (v : Vol) :
    (v.assemble k a gap silence).directCount k = v.directCount k := by
  unfold Vol.directCount
  rw [Vol.port_assemble_self]
  rfl

/-- Of two states an assembler goes to one after the other, the second stands. -/
@[simp] theorem Vol.assemble_assemble (k : Line) (a c : Assembler) (g t g' t' : Bool) (v : Vol) :
    (v.assemble k a g t).assemble k c g' t' = v.assemble k c g' t' := Vol.modPort_modPort ..

/-- R129, R130, R133: where the FRAME FAULT answer is made; the assembler's state has no part in it. -/
theorem Vol.frameFault_assemble (b : Battery) (k : Line) (a : Assembler) (gap silence : Bool) (v : Vol) :
    (v.assemble k a gap silence).frameFault b k
      = if b.lineEnabled k = true ∧ v.directCount k < 16
        then (v.assemble k a gap silence).answer k 0 .frameFault [] else v.assemble k a gap silence := by
  unfold Vol.frameFault Vol.say
  rw [Vol.directCount_assemble]
  simp only [Bool.and_eq_true, decide_eq_true_eq]
  rfl

/-! ## One byte, by the assembler's state (R127) -/

section
variable {v : Vol} {k : Line} (b : Battery) (hidle : (v.port k).detector = .idle)
include hidle

theorem takeByte_mark (ha : (v.port k).assembler = .hunt) :
    takeByte k markByte b v = (b, v.assemble k (.lengthField none) true false) := by
  simp [takeByte, hidle, ha]

theorem takeByte_noMark {x : Byte} (ha : (v.port k).assembler = .hunt) (hx : x ≠ markByte) :
    takeByte k x b v = (b, v) := by
  simp [takeByte, hidle, ha, hx]

theorem takeByte_lengthHigh (x : Byte) (ha : (v.port k).assembler = .lengthField none) :
    takeByte k x b v = (b, v.assemble k (.lengthField (some x)) true false) := by
  simp [takeByte, hidle, ha]

theorem takeByte_lengthLow {high x : Byte} (ha : (v.port k).assembler = .lengthField (some high))
    (hmin : 2 ≤ fromBe16 high x) (hmax : fromBe16 high x ≤ 260) :
    takeByte k x b v = (b, v.assemble k (.body high x []) true false) := by
  simp [takeByte, hidle, ha, Vol.lengthEnds, lengthOk, hmin, hmax]

theorem takeByte_body {high low x : Byte} {kept : List Byte} (ha : (v.port k).assembler = .body high low kept)
    (hn : kept.length + 1 < fromBe16 high low) :
    takeByte k x b v = (b, v.assemble k (.body high low (kept ++ [x])) true false) := by
  simp [takeByte, hidle, ha, Vol.bodyByte, hn]

theorem takeByte_bodyEnd {high low x : Byte} {kept : List Byte} (ha : (v.port k).assembler = .body high low kept)
    (hn : fromBe16 high low ≤ kept.length + 1) :
    takeByte k x b v = (b, v.assemble k (.check high low (kept ++ [x]) none) true false) := by
  simp [takeByte, hidle, ha, Vol.bodyByte, Nat.not_lt.mpr hn]

theorem takeByte_checkHigh {high low : Byte} (x : Byte) {kept : List Byte}
    (ha : (v.port k).assembler = .check high low kept none) :
    takeByte k x b v = (b, v.assemble k (.check high low kept (some x)) true false) := by
  simp [takeByte, hidle, ha]

theorem takeByte_checkLow {high low first : Byte} (second : Byte) {kept : List Byte}
    (ha : (v.port k).assembler = .check high low kept (some first)) :
    takeByte k second b v = frameEnds k high low kept first second b v := by
  simp [takeByte, hidle, ha]

theorem takeByte_discard (x : Byte) (ha : (v.port k).assembler = .discard) :
    takeByte k x b v = (b, v.assemble k .discard false true) := by
  simp [takeByte, hidle, ha]

end

/-- Settles O32: each byte as the assembler's state takes it. -/
theorem charactersBuildAFrame : Obligations.CharactersBuildAFrame := by
  intro s k x hlive hidle goes
  have hexec := exec_characterReceived hlive k x
  have hgoes : ∀ a gap silence, takeByte k x s.bat s.vol = (s.bat, s.vol.assemble k a gap silence) → goes a gap silence :=
    fun _ _ _ h => hexec.trans (congrArg (fun p => Host.Outcome.next (s.finish p)) h)
  refine ⟨fun ha hx => ?_, fun ha hx => ?_, fun ha => ?_, fun high ha hmin hmax => ?_, fun high low kept ha => ?_,
    fun high low kept ha => ?_, fun ha => ?_⟩
  · subst hx
    exact hgoes _ _ _ (takeByte_mark s.bat hidle ha)
  · rw [hexec, takeByte_noMark s.bat hidle ha hx]
  · exact hgoes _ _ _ (takeByte_lengthHigh s.bat hidle x ha)
  · exact hgoes _ _ _ (takeByte_lengthLow s.bat hidle ha hmin hmax)
  · exact ⟨fun hn => hgoes _ _ _ (takeByte_body s.bat hidle ha hn),
      fun hn => hgoes _ _ _ (takeByte_bodyEnd s.bat hidle ha hn)⟩
  · exact hgoes _ _ _ (takeByte_checkHigh s.bat hidle x ha)
  · exact hgoes _ _ _ (takeByte_discard s.bat hidle x ha)

/-! ## A frame's last byte (R127, R139, R188) -/

section
variable {v : Vol} {k : Line} {high low first second : Byte} {kept : List Byte} (b : Battery)

theorem frameEnds_good (hc : checkBytes (crc ([high, low] ++ kept)) = [first, second]) :
    frameEnds k high low kept first second b v
      = if (v.assemble k .hunt false false).passes b k then takeBody k kept b (v.assemble k .hunt false false)
        else (b, v.assemble k .hunt false false) := by
  unfold frameEnds
  exact if_pos hc

theorem frameEnds_bad (hc : checkBytes (crc ([high, low] ++ kept)) ≠ [first, second]) :
    frameEnds k high low kept first second b v = (b, (v.assemble k .hunt false false).frameFault b k) := by
  unfold frameEnds
  exact if_neg hc

theorem takeCompletion_good (hidle : (v.port k).detector = .idle)
    (ha : (v.port k).assembler = .check high low kept (some first))
    (hc : checkBytes (crc ([high, low] ++ kept)) = [first, second]) :
    takeCompletion k second b v = frameEnds k high low kept first second b v := by
  unfold takeCompletion
  rw [hidle, ha]
  exact if_pos hc

end

theorem takeBody_command {k : Line} {body : List Byte} {i : Instr} (b : Battery) (v : Vol)
    (h : Instr.ofBody k body = some i) : takeBody k body b v = takeCommand i b v := by
  unfold takeBody
  rw [h]

theorem takeBody_malformed {k : Line} {body : List Byte} (b : Battery) (v : Vol) (h : Instr.ofBody k body = none) :
    takeBody k body b v = (b, v.answer k (byteAt body 1) .malformed []) := by
  unfold takeBody
  rw [h]
  rfl

/-- R139: a body spells a whole-frame command of its own line. -/
theorem frameLineOf_ofBody {k : Line} {body : List Byte} {i : Instr} (h : Instr.ofBody k body = some i) :
    frameLineOf i = some k := by
  unfold Instr.ofBody at h
  split at h
  · dsimp only at h
    split at h
    case h_24 => cases h
    all_goals
      obtain ⟨-, h⟩ := Option.ite_none_right_eq_some.mp h
      cases h
      rfl
  · cases h

/-- The own effects of a whole-frame command are what intake does with it. -/
theorem ownEffect_frame {i : Instr} {k : Line} (b : Battery) (v : Vol) (h : frameLineOf i = some k) :
    ownEffect i b v = takeCommand i b v := by
  cases i
  case frameComplete | frameFault | frameGapExpiry | silenceTimerExpiry | lineBreak | frameSent | powerOn | resetHold
      | resetRelease | secondEnd | indexPulse | headUnload | indexStall | doorLineChange | doorOpening | doorClosing
      | stepDone | settleDone | headLoadDone | headerFound | searchLimit | sectorBoundary | verifySectorEnd
      | idleLimitExpiry | formatUnitEnd | copyOpeningEnd | copyCatalogUnitEnd | copyLabelVerified | characterReceived
      | lineReturnToMark | mainPowerLoss | angleUnitTick => cases h
  all_goals rfl

/-- Freed buffers are noted by the drives and the pool, which a port's change leaves as they were. -/
theorem State.finish_modPort (s : State) (k : Line) (f : Port → Port) (p : Battery × Vol) :
    State.finish { s with vol := s.vol.modPort k f } p = s.finish p := rfl

/-- Settles O33: a complete frame is its command, taken with the assembler back in HUNT. -/
theorem frameCompleteActsAsItsCommand : Obligations.FrameCompleteActsAsItsCommand := by
  intro s k high low first second kept hlive hidle ha hc v hpass
  have hexec : exec (.frameComplete k second) s = .next (s.finish (takeBody k kept s.bat v)) := by
    rw [exec_frameComplete hlive, takeCompletion_good s.bat hidle ha hc, frameEnds_good s.bat hc]
    exact congrArg (fun p => Host.Outcome.next (s.finish p)) (if_pos hpass)
  refine ⟨fun i hi => ?_, fun hi => ?_⟩
  · have hears : State.hears { s with vol := v } k := ⟨hlive, hpass⟩
    have hline := frameLineOf_ofBody hi
    rw [exec_hears hears hline, ownEffect_frame _ _ hline, State.finish_modPort, hexec, takeBody_command _ _ hi]
  · rw [hexec, takeBody_malformed _ _ hi]

/-! ## Faulted frames (R128 to R130, R133) -/

section
variable {v : Vol} {k : Line} (b : Battery)

theorem takeFault_badLength {high low : Byte} (hidle : (v.port k).detector = .idle)
    (ha : (v.port k).assembler = .lengthField (some high)) (hn : fromBe16 high low < 2 ∨ 260 < fromBe16 high low) :
    takeFault k (.badLength low) b v = (b, (v.assemble k .discard false true).frameFault b k) := by
  have hbad : lengthOk (fromBe16 high low) = false := by
    simp only [lengthOk, Bool.and_eq_false_iff, decide_eq_false_iff_not]
    omega
  simp [takeFault, hidle, ha, Vol.lengthEnds, hbad]

theorem takeFault_badCheck {high low first second : Byte} {kept : List Byte} (hidle : (v.port k).detector = .idle)
    (ha : (v.port k).assembler = .check high low kept (some first))
    (hc : checkBytes (crc ([high, low] ++ kept)) ≠ [first, second]) :
    takeFault k (.badCheck second) b v = (b, (v.assemble k .hunt false false).frameFault b k) := by
  unfold takeFault
  rw [hidle, ha, ← frameEnds_bad b hc]
  exact if_neg hc

theorem takeFault_framing (hidle : (v.port k).detector = .idle) (hhunt : (v.port k).assembler ≠ .hunt)
    (hdiscard : (v.port k).assembler ≠ .discard) :
    takeFault k .framingFault b v = (b, (v.assemble k .discard false true).frameFault b k) := by
  have hfault : v.framingFault b k = (v.assemble k .discard false true).frameFault b k := by
    unfold Vol.framingFault
    split
    · next h => exact absurd h hhunt
    · next h => exact absurd h hdiscard
    · rfl
  simp [takeFault, hidle, hfault]

theorem Vol.gapExpires_running (h : (v.port k).gapTimer = true) :
    v.gapExpires b k = (v.assemble k .hunt false false).frameFault b k := by
  unfold Vol.gapExpires
  exact if_pos h

end

/-- Settles O34: each fault sends the assembler on and asks for the FRAME FAULT answer. -/
theorem faultedFramesAreAnsweredFrameFault : Obligations.FaultedFramesAreAnsweredFrameFault := by
  intro s k hlive answered
  have hanswered : ∀ a silence,
      .next (s.finish (s.bat, (s.vol.assemble k a false silence).frameFault s.bat k)) = answered a silence := by
    intro a silence
    rw [Vol.frameFault_assemble]
    rfl
  refine ⟨fun hidle => ⟨fun high low ha hn => ?_, fun high low kept first second ha hc => ?_, fun hhunt hdiscard => ?_⟩,
    fun hgap => ?_⟩
  · rw [exec_frameFault hlive, takeFault_badLength s.bat hidle ha hn, hanswered]
  · rw [exec_frameFault hlive, takeFault_badCheck s.bat hidle ha hc, hanswered]
  · rw [exec_frameFault hlive, takeFault_framing s.bat hidle hhunt hdiscard, hanswered]
  · have hexec : exec (.frameGapExpiry k) s = .next (s.finish (s.bat, s.vol.gapExpires s.bat k)) := exec_live hlive rfl
    rw [hexec, Vol.gapExpires_running s.bat hgap, hanswered]

/-! ## Whole envelopes (R126, R127) -/

/-- Bytes taken one after another by the assembler of a line. -/
def takeBytes (k : Line) (xs : List Byte) (p : Battery × Vol) : Battery × Vol :=
  xs.foldl (fun p x => takeByte k x p.1 p.2) p

theorem takeBytes_cons (k : Line) (x : Byte) (xs : List Byte) (b : Battery) (v : Vol) :
    takeBytes k (x :: xs) (b, v) = takeBytes k xs (takeByte k x b v) := rfl

theorem takeBytes_append (k : Line) (xs ys : List Byte) (p : Battery × Vol) :
    takeBytes k (xs ++ ys) p = takeBytes k ys (takeBytes k xs p) := List.foldl_append ..

section
variable {v : Vol} {k : Line} (b : Battery) (hidle : (v.port k).detector = .idle)
include hidle

/-- R126: the mark byte and a length the receiver takes bring the assembler to the body. -/
theorem takeBytes_head {high low : Byte} (ha : (v.port k).assembler = .hunt) (hmin : 2 ≤ fromBe16 high low)
    (hmax : fromBe16 high low ≤ 260) :
    takeBytes k [markByte, high, low] (b, v) = (b, v.assemble k (.body high low []) true false) := by
  rw [takeBytes_cons, takeByte_mark b hidle ha,
    takeBytes_cons, takeByte_lengthHigh b (by simpa using hidle) high (by simp), Vol.assemble_assemble,
    takeBytes_cons, takeByte_lengthLow b (by simpa using hidle) (by simp) hmin hmax, Vol.assemble_assemble]
  rfl

/-- R127: the bytes still missing of a body are kept, and the check comes next. -/
theorem takeBytes_rest {high low : Byte} (x : Byte) (xs kept : List Byte)
    (hn : kept.length + (xs.length + 1) = fromBe16 high low) :
    takeBytes k (x :: xs) (b, v.assemble k (.body high low kept) true false)
      = (b, v.assemble k (.check high low (kept ++ x :: xs) none) true false) := by
  induction xs generalizing x kept with
  | nil =>
    rw [takeBytes_cons, takeByte_bodyEnd b (by simpa using hidle) (Vol.assembler_assemble ..) (by simp at hn; omega),
      Vol.assemble_assemble]
    rfl
  | cons y ys ih =>
    rw [List.length_cons] at hn
    rw [takeBytes_cons, takeByte_body b (by simpa using hidle) (Vol.assembler_assemble ..) (by omega),
      Vol.assemble_assemble, ih y (kept ++ [x]) (by rw [List.length_append, List.length_singleton]; omega),
      List.append_assoc]
    rfl

/-- R127: the two check bytes end the frame. -/
theorem takeBytes_check {high low first second : Byte} {kept : List Byte}
    (hc : checkBytes (crc ([high, low] ++ kept)) = [first, second]) :
    takeBytes k [first, second] (b, v.assemble k (.check high low kept none) true false)
      = if (v.assemble k .hunt false false).passes b k then takeBody k kept b (v.assemble k .hunt false false)
        else (b, v.assemble k .hunt false false) := by
  rw [takeBytes_cons, takeByte_checkHigh b (by simpa using hidle) first (Vol.assembler_assemble ..), Vol.assemble_assemble,
    takeBytes_cons, takeByte_checkLow b (by simpa using hidle) second (Vol.assembler_assemble ..), frameEnds_good b hc,
    Vol.assemble_assemble]
  rfl

/-- R126, R127: a length, the body it counts and the check over both are taken as the body. -/
theorem takeBytes_frame {high low : Byte} {body : List Byte} (ha : (v.port k).assembler = .hunt)
    (hn : fromBe16 high low = body.length) (hmin : 2 ≤ body.length) (hmax : body.length ≤ 260) :
    takeBytes k ([markByte, high, low] ++ body ++ checkBytes (crc ([high, low] ++ body))) (b, v)
      = if (v.assemble k .hunt false false).passes b k then takeBody k body b (v.assemble k .hunt false false)
        else (b, v.assemble k .hunt false false) := by
  rw [← hn] at hmin hmax
  rw [takeBytes_append, takeBytes_append, takeBytes_head b hidle ha hmin hmax]
  cases body with
  | nil =>
    rw [hn] at hmin
    cases hmin
  | cons x xs =>
    rw [takeBytes_rest b hidle x xs [] (by rw [hn, List.length_nil, List.length_cons, Nat.zero_add]), List.nil_append]
    exact takeBytes_check b hidle rfl

end

/-- Settles O60: an envelope is the mark byte and a frame whose two length bytes give its body's length. -/
theorem anEnvelopeIsTakenAsItsBody : Obligations.AnEnvelopeIsTakenAsItsBody := by
  intro k body b v hmin hmax hidle ha w
  exact takeBytes_frame b hidle ha (fromBe16_be16 body.length (by omega)) hmin hmax

/-! ## Sent frames (R132, R134, R156, R176) -/

theorem exec_frameSent {s : State} {k : Line} {f : Frame} {rest : List Frame} (h : s.vol.live = true)
    (hs : (s.vol.port k).store = f :: rest) :
    exec (.frameSent k) s
      = .next (s.finish (f.mark.act s.bat (s.vol.modPort k (fun p => { p with store := rest })))) := by
  have hsent : takeSent k s.bat s.vol = f.mark.act s.bat (s.vol.modPort k (fun p => { p with store := rest })) := by
    unfold takeSent
    rw [hs]
  rw [← hsent]
  exact exec_live h rfl

/-- Settles O36: the frame leaves the store, and its mark says what its last byte brings. -/
theorem sentFramesLeaveTheStore : Obligations.SentFramesLeaveTheStore := by
  intro s k f rest hlive hs v
  rw [exec_frameSent hlive hs]
  exact ⟨fun hm => by rw [hm]; rfl, fun hm => by rw [hm]; rfl, fun j hm => by rw [hm]; rfl⟩

end Sys2Proof.Machine
end

section
/-! PROOFS. Commands refused: the first check that fails, the checks that several commands share, and each command's own
checks in the order of R140. -/

namespace Sys2Proof.Machine

/-! ## Commands by what their own effects come to -/

section
variable {i : Instr} {s : State} {k : Line}

theorem exec_of_ownEffect {out : Battery × Vol} (h : s.hears k) (hi : frameLineOf i = some k)
    (hown : ownEffect i s.bat s.vol = out) : exec i s = .next (s.finish out) := by
  rw [exec_hears h hi, hown]

/-- A command that never reaches the battery domain. -/
theorem exec_of_ownVol {w t : Vol} (h : s.hears k) (hi : frameLineOf i = some k)
    (hown : ownEffect i s.bat s.vol = (s.bat, w)) (ht : w = t) : exec i s = .next (s.finish (s.bat, t)) := by
  rw [exec_hears h hi, hown, ht]

end

/-! ## The first failing check (R140) -/

/-- A value is the outcome of the first of the checks that fails, and none where all of them pass. -/
def Decides (checks : List (Prop × OutcomeCode)) (x : Option OutcomeCode) : Prop :=
  ∀ oc, firstFailure checks oc ↔ x = some oc

theorem Decides.nil : Decides [] none := fun _ => ⟨False.elim, nofun⟩

theorem Decides.cons {p c : Prop} [Decidable c] {oc : OutcomeCode} {rest : List (Prop × OutcomeCode)}
    {x : Option OutcomeCode} (hp : p ↔ c) (h : Decides rest x) :
    Decides ((p, oc) :: rest) (if c then some oc else x) := by
  intro y
  change (p ∧ y = oc) ∨ (¬ p ∧ firstFailure rest y) ↔ _
  rw [hp, h y]
  split
  · next hc => simp [hc, eq_comm]
  · next hc => simp [hc]

/-- The first failing check of a list is of its first part, or that passes and it is of the rest. -/
theorem firstFailure_append (xs ys : List (Prop × OutcomeCode)) (oc : OutcomeCode) : firstFailure (xs ++ ys) oc ↔
    firstFailure xs oc ∨ (∀ y, ¬ firstFailure xs y) ∧ firstFailure ys oc := by
  induction xs with
  | nil => simp [firstFailure]
  | cons c xs ih =>
    obtain ⟨p, x⟩ := c
    by_cases hp : p <;> simp [firstFailure, hp, ih]

theorem Decides.append {xs ys : List (Prop × OutcomeCode)} {x y : Option OutcomeCode} (hx : Decides xs x)
    (hy : Decides ys y) : Decides (xs ++ ys) (x.or y) := by
  intro oc
  rw [firstFailure_append, Option.or_eq_some_iff, Option.eq_none_iff_forall_ne_some, hx oc, hy oc]
  simp only [hx _, ne_eq]

theorem Decides.cases {xs ys : List (Prop × OutcomeCode)} {x : Option OutcomeCode} {oc : OutcomeCode} (hx : Decides xs x)
    (h : firstFailure (xs ++ ys) oc) : x = some oc ∨ x = none ∧ firstFailure ys oc := by
  rw [firstFailure_append, hx oc] at h
  refine h.imp_right fun ⟨hxs, h⟩ => ⟨?_, h⟩
  exact Option.eq_none_iff_forall_ne_some.mpr fun y hy => hxs y ((hx y).mpr hy)

/-! ## A free request slot and the tag (R101, R140) -/

/-- R140, check 4, as a list. -/
def slotChecks (v : Vol) (k : Line) (tag : Byte) : List (Prop × OutcomeCode) :=
  [(∀ r ∈ lineReqs k, v.req r ≠ none, .noSlot), (∃ r ∈ lineReqs k, ∃ q, v.req r = some q ∧ q.tag = tag, .badTag)]

theorem Vol.freeSlotOf_eq_none_iff (v : Vol) (k : Line) : v.freeSlotOf k = none ↔ ∀ r ∈ lineReqs k, v.req r ≠ none := by
  simp [Vol.freeSlotOf, List.find?_eq_none]

theorem Vol.tagInUse_iff (v : Vol) (k : Line) (tag : Byte) :
    v.tagInUse k tag = true ↔ ∃ r ∈ lineReqs k, ∃ q, v.req r = some q ∧ q.tag = tag := by
  unfold Vol.tagInUse
  rw [List.any_eq_true]
  refine exists_congr fun r => and_congr_right fun _ => ?_
  cases v.req r <;> simp

theorem Vol.slotCheck_cases {v : Vol} {k : Line} {tag : Byte} {rest : List (Prop × OutcomeCode)} {oc : OutcomeCode}
    (h : firstFailure (slotChecks v k tag ++ rest) oc) :
    v.slotCheck k tag = .error oc ∨ (∃ r, v.slotCheck k tag = .ok r) ∧ firstFailure rest oc := by
  unfold Vol.slotCheck
  obtain ⟨hfull, rfl⟩ | ⟨hfree, h⟩ := h
  · rw [(v.freeSlotOf_eq_none_iff k).mpr hfull]
    exact .inl rfl
  rw [← v.freeSlotOf_eq_none_iff k] at hfree
  obtain ⟨r, hr⟩ := Option.ne_none_iff_exists'.mp hfree
  rw [hr]
  obtain ⟨hused, rfl⟩ | ⟨hnew, h⟩ := h
  · exact .inl (if_pos ((v.tagInUse_iff k tag).mpr hused))
  · exact .inr ⟨⟨r, if_neg (mt (v.tagInUse_iff k tag).mp hnew)⟩, h⟩

/-! ## The gates (R10, R79, R99, R178) -/

theorem Vol.ready_iff (v : Vol) (d : DriveNo) : v.ready d = true ↔ v.mount d = .ready := beq_iff_eq

theorem Vol.not_ready_iff (v : Vol) (d : DriveNo) : v.mount d ≠ .ready ↔ (!v.ready d) = true := by
  rw [Bool.not_eq_true', ← Bool.not_eq_true, Vol.ready_iff]

/-- R79, R143: the gate of FILE and SPIKE, as a list. -/
def writeGateChecks (v : Vol) (d : DriveNo) : List (Prop × OutcomeCode) :=
  [(v.mount d ≠ .ready, .notReady), ((v.drive d).seq.writeProtected = true, .writeProtected),
    ((v.drive d).cat.fault = true, .catalogFault), ((v.drive d).cat.copySource = true, .copyRunning)]

theorem Vol.writeGate_decides (v : Vol) (d : DriveNo) : Decides (writeGateChecks v d) (v.writeGate d) :=
  .cons (v.not_ready_iff d) (.cons .rfl (.cons .rfl (.cons .rfl .nil)))

/-- R10, R178: the gate of FORMAT and of a COPY's destination, as a list. -/
def rebuildGateChecks (v : Vol) (d : DriveNo) : List (Prop × OutcomeCode) :=
  [(v.mount d = .empty ∨ v.mount d = .loading ∨ v.mount d = .faulted, .notReady),
    (v.mount d = .formatting ∨ v.mount d = .receiving, .inUse), ((v.drive d).seq.writeProtected = true, .writeProtected)]

theorem Vol.rebuildGate_decides (v : Vol) (d : DriveNo) : Decides (rebuildGateChecks v d) (v.rebuildGate d) := by
  have h : v.rebuildGate d = if v.mount d = .empty ∨ v.mount d = .loading ∨ v.mount d = .faulted then some .notReady
      else if v.mount d = .formatting ∨ v.mount d = .receiving then some .inUse
      else if (v.drive d).seq.writeProtected = true then some .writeProtected else none := by
    unfold Vol.rebuildGate
    cases v.mount d <;> rfl
  rw [h]
  exact .cons .rfl (.cons .rfl (.cons .rfl .nil))

theorem Vol.recalGate_decides (v : Vol) (d : DriveNo) :
    Decides [(v.mount d = .formatting ∨ v.mount d = .receiving, .inUse), (v.mount d ≠ .ready, .notReady)]
      (v.recalGate d) := by
  have h : v.recalGate d = if v.mount d = .formatting ∨ v.mount d = .receiving then some .inUse
      else if v.mount d ≠ .ready then some .notReady else none := by
    unfold Vol.recalGate
    cases v.mount d <;> rfl
  rw [h]
  exact .cons .rfl (.cons .rfl .nil)

section
variable {b : Battery} {v : Vol} {k : Line} {tag drive cls edition : Byte} {slug : List Byte} {f : StoryFields} {r : ReqId}
  {rest : List (Prop × OutcomeCode)} {oc : OutcomeCode} {go : StoryFields → ReqId → Vol → Vol}

/-! ## FETCH, DRAW, FILE, SPIKE -/

/-- R140: FETCH and DRAW refused by a check they share, or by one of their own. -/
theorem Vol.readChecks_refused (hp : parseStory tag drive cls edition slug = some f)
    (h : firstFailure ((b.mayRead k f.drive = false, .notPermitted) ::
      (slotChecks v k tag ++ (v.mount f.drive ≠ .ready, .notReady) :: rest)) oc)
    (hgo : ∀ r, firstFailure rest oc → go f r v = v.answer k tag oc []) :
    v.readChecks b k tag drive cls edition slug go = v.answer k tag oc [] := by
  unfold Vol.readChecks
  rw [hp]
  dsimp only
  obtain ⟨hmay, rfl⟩ | ⟨hmay, h⟩ := h
  · rw [hmay]
    rfl
  rw [Bool.eq_true_of_not_eq_false hmay]
  obtain hs | ⟨⟨r, hs⟩, h⟩ := Vol.slotCheck_cases h
  · rw [hs]
    rfl
  rw [hs]
  obtain ⟨hready, rfl⟩ | ⟨hready, h⟩ := h
  · exact if_neg (mt (v.ready_iff f.drive).mp hready)
  · exact (if_pos (Vol.ready_of (not_not.mp hready))).trans (hgo r h)

/-- R140: FILE and SPIKE refused by a check they share, or by one of their own. -/
theorem Vol.writeChecks_refused {fields : Option StoryFields} (hp : fields = some f)
    (h : firstFailure ((b.mayFile k f.drive = false, .notPermitted) ::
      (slotChecks v k tag ++ (writeGateChecks v f.drive ++ rest))) oc)
    (hgo : ∀ r, firstFailure rest oc → go f r v = v.answer k tag oc []) :
    v.writeChecks b k tag fields go = v.answer k tag oc [] := by
  unfold Vol.writeChecks
  rw [hp]
  dsimp only
  obtain ⟨hmay, rfl⟩ | ⟨hmay, h⟩ := h
  · rw [hmay]
    rfl
  rw [Bool.eq_true_of_not_eq_false hmay]
  obtain hs | ⟨⟨r, hs⟩, h⟩ := Vol.slotCheck_cases h
  · rw [hs]
    rfl
  rw [hs]
  obtain hg | ⟨hg, h⟩ := (v.writeGate_decides f.drive).cases h
  · rw [hg]
    rfl
  · rw [hg]
    exact hgo r h

/-- R19: the entry that a slug names in a drive's mirror. -/
def Vol.named (v : Vol) (d : DriveNo) (g : List Byte) : Option Entry :=
  ((v.mirror d).bind (fun m => m.lookup g)).bind (v.entry d)

theorem Vol.named_eq_some_iff {d : DriveNo} {g : List Byte} {e : Entry} : v.named d g = some e ↔
    ∃ slot, (v.mirror d).bind (fun m => m.lookup g) = some slot ∧ v.entry d slot = some e := Option.bind_eq_some_iff

theorem Vol.named_of_lookup {d : DriveNo} {g : List Byte} {slot : Nat}
    (h : (v.mirror d).bind (fun m => m.lookup g) = some slot) : v.named d g = v.entry d slot := by
  rw [Vol.named, h, Option.bind_some]

/-- R44: FETCH refused by its own checks. -/
theorem Vol.fetchLookup_refused (h : firstFailure [(v.named f.drive f.slug = none, .notFound),
      (∃ e, v.named f.drive f.slug = some e ∧ e.image.state = .damaged, .catalogFault)] oc) :
    v.fetchLookup b k tag f r = v.answer k tag oc [] := by
  unfold Vol.fetchLookup
  obtain ⟨hn, rfl⟩ | ⟨-, ⟨⟨e, he, hd⟩, rfl⟩ | ⟨-, ⟨⟩⟩⟩ := h
  · split
    · rfl
    · next slot hl =>
      rw [← Vol.named_of_lookup hl, hn]
      rfl
  · obtain ⟨slot, hl, he⟩ := Vol.named_eq_some_iff.mp he
    simp only [hl, he, if_pos hd]
    rfl

/-- R28: the checks of DRAW on the entry found. -/
theorem Vol.drawCheck_decides {o : Option Entry} {e : Entry} (ho : o = some e) :
    Decides [(∃ e, o = some e ∧ e.image.state = .damaged, .catalogFault),
      (∃ e, o = some e ∧ e.holder ≠ none ∧ e.holder ≠ some k, .held),
      (∃ e r, o = some e ∧ (e.filing = some r ∨ e.spike = some r) ∧ reqLine r ≠ k, .inUse),
      (∃ e, o = some e ∧ e.holder ≠ some k ∧ 8 ≤ v.holdCount k, .noSlot)] (v.drawCheck k e) := by
  have hforeign : ∀ o, foreign k o = true ↔ ∃ r, o = some r ∧ reqLine r ≠ k := fun o => by
    cases o <;> simp [foreign]
  subst ho
  refine .cons (by simp) (.cons ?_ (.cons ?_ (.cons ?_ .nil)))
  · simp [Option.isSome_iff_ne_none]
  · simp only [Option.some.injEq, exists_and_left, exists_eq_left', Bool.or_eq_true, hforeign, or_and_right, exists_or]
  · simp only [Option.some.injEq, exists_eq_left', Bool.and_eq_true, bne_iff_ne, decide_eq_true_eq]
    rfl

/-- R28: DRAW refused by its own checks. -/
theorem Vol.drawLookup_refused (h : firstFailure [(v.named f.drive f.slug = none, .notFound),
      (∃ e, v.named f.drive f.slug = some e ∧ e.image.state = .damaged, .catalogFault),
      (∃ e, v.named f.drive f.slug = some e ∧ e.holder ≠ none ∧ e.holder ≠ some k, .held),
      (∃ e r, v.named f.drive f.slug = some e ∧ (e.filing = some r ∨ e.spike = some r) ∧ reqLine r ≠ k, .inUse),
      (∃ e, v.named f.drive f.slug = some e ∧ e.holder ≠ some k ∧ 8 ≤ v.holdCount k, .noSlot)] oc) :
    v.drawLookup b k tag f r = v.answer k tag oc [] := by
  unfold Vol.drawLookup
  obtain ⟨hn, rfl⟩ | ⟨hn, h⟩ := h
  · split
    · rfl
    · next slot hl =>
      rw [← Vol.named_of_lookup hl, hn]
      rfl
  · obtain ⟨e, he⟩ := Option.ne_none_iff_exists'.mp hn
    have hc : v.drawCheck k e = some oc := (Vol.drawCheck_decides he oc).mp h
    obtain ⟨slot, hl, he⟩ := Vol.named_eq_some_iff.mp he
    simp only [hl, he, hc]
    rfl

/-- R34, R41, R147: the checks of FILE and SPIKE on the entry found, if any. -/
theorem writeRefusal_decides (k : Line) (o : Option Entry) :
    Decides [(∃ e, o = some e ∧ e.holder ≠ none ∧ e.holder ≠ some k, .held),
      (∃ e, o = some e ∧ (e.filing ≠ none ∨ e.spike ≠ none ∨ e.catWrite ≠ none), .inUse)]
      (o.bind (writeRefusal k)) := by
  cases o with
  | none => exact fun oc => by simp [firstFailure]
  | some e =>
    refine .cons ?_ (.cons ?_ .nil)
    · simp [Option.isSome_iff_ne_none]
    · simp [Option.isSome_iff_ne_none, or_assoc]

/-- R147, R34: FILE refused by its own checks. -/
theorem Vol.fileLookup_refused (h : firstFailure [(b.editionState f.edition = .closed, .editionClosed),
      (∃ e, v.named f.drive f.slug = some e ∧ e.holder ≠ none ∧ e.holder ≠ some k, .held),
      (∃ e, v.named f.drive f.slug = some e ∧ (e.filing ≠ none ∨ e.spike ≠ none ∨ e.catWrite ≠ none), .inUse),
      (∃ m, v.mirror f.drive = some m ∧ m.lookup f.slug = none ∧ m.reservedFor f.slug = true, .inUse),
      (∃ m, v.mirror f.drive = some m ∧ m.lookup f.slug = none ∧ m.freeSlot = none, .catalogFull)] oc) :
    v.fileLookup b k tag f r = v.answer k tag oc [] := by
  unfold Vol.fileLookup
  obtain ⟨hed, rfl⟩ | ⟨hed, h⟩ := h
  · exact if_pos hed
  rw [if_neg hed]
  obtain he | ⟨-, ⟨⟨m, hm, hl, hres⟩, rfl⟩ | ⟨hres, ⟨⟨m, hm, hl, hfree⟩, rfl⟩ | ⟨-, ⟨⟩⟩⟩⟩ :=
    (writeRefusal_decides k (v.named f.drive f.slug)).cases h
  · obtain ⟨e, hn, hw⟩ := Option.bind_eq_some_iff.mp he
    obtain ⟨slot, hl, he⟩ := Vol.named_eq_some_iff.mp hn
    obtain ⟨m, hm, hl⟩ := Option.bind_eq_some_iff.mp hl
    rw [Vol.entry_of_mirror hm] at he
    simp only [hm, hl, he, Option.bind_some, hw]
    rfl
  · simp only [hm, hl, if_pos hres]
    rfl
  · have hres : ¬ m.reservedFor f.slug = true := fun h => hres ⟨m, hm, hl, h⟩
    simp only [hm, hl, if_neg hres, hfree]
    rfl

/-- R41: SPIKE refused by its own checks. -/
theorem Vol.spikeLookup_refused
    (h : firstFailure [((v.mirror f.drive).bind (fun m => m.lookup f.slug) = none, .notFound),
      (∃ e, v.named f.drive f.slug = some e ∧ e.holder ≠ none ∧ e.holder ≠ some k, .held),
      (∃ e, v.named f.drive f.slug = some e ∧ (e.filing ≠ none ∨ e.spike ≠ none ∨ e.catWrite ≠ none), .inUse)] oc) :
    v.spikeLookup b k tag f r = v.answer k tag oc [] := by
  unfold Vol.spikeLookup
  obtain ⟨hl, rfl⟩ | ⟨hl, h⟩ := h
  · rw [hl]
    rfl
  · obtain ⟨slot, hl⟩ := Option.ne_none_iff_exists'.mp hl
    have hw := (writeRefusal_decides k (v.named f.drive f.slug) oc).mp h
    rw [Vol.named_of_lookup hl] at hw
    simp only [hl, hw]
    rfl

/-! ## TEXT, CLOSE, CANCEL, RELEASE, LIST, DRIVE -/

theorem not_tagOk_iff : (!tagOk tag) = true ↔ tag = 0 := by simp [tagOk]

/-- R113, R148: TEXT refused. -/
theorem Vol.takeText_refused {bytes : List Byte}
    (h : firstFailure [(tag = 0 ∨ bytes.length = 0 ∨ 256 < bytes.length, .malformed),
      (v.openFiling k tag = none, .badTag)] oc) : v.takeText b k tag bytes = v.answer k tag oc [] := by
  have hbody : (!tagOk tag || bytes.length == 0 || 256 < bytes.length) = true
      ↔ tag = 0 ∨ bytes.length = 0 ∨ 256 < bytes.length := by simp [tagOk, or_assoc]
  unfold Vol.takeText
  obtain ⟨hm, rfl⟩ | ⟨hm, ⟨hn, rfl⟩ | ⟨-, ⟨⟩⟩⟩ := h
  · exact if_pos (hbody.mpr hm)
  · rw [if_neg (mt hbody.mp hm), hn]
    rfl

/-- R116, R148: CLOSE refused. -/
theorem Vol.takeClose_refused {keep : Byte} (h : firstFailure [(tag = 0 ∨ parseFlag keep = none, .malformed),
      (v.openFiling k tag = none, .badTag)] oc) : v.takeClose b k tag keep = v.answer k tag oc [] := by
  unfold Vol.takeClose
  obtain ⟨hm, rfl⟩ | ⟨hm, ⟨hn, rfl⟩ | ⟨-, ⟨⟩⟩⟩ := h
  · split
    · rfl
    · next on hp => exact if_pos (not_tagOk_iff.mpr (hm.resolve_right (by simp [hp])))
  · rw [not_or] at hm
    obtain ⟨on, hp⟩ := Option.ne_none_iff_exists'.mp hm.2
    simp only [hp, if_neg (mt not_tagOk_iff.mp hm.1), hn]
    rfl

/-- R119: CANCEL refused. -/
theorem Vol.takeCancel_refused {target : Byte}
    (h : firstFailure [(tag = 0, .malformed), (v.tagged k target = none, .badTag)] oc) :
    v.takeCancel b k tag target = v.answer k tag oc [] := by
  unfold Vol.takeCancel
  obtain ⟨ht, rfl⟩ | ⟨ht, ⟨hn, rfl⟩ | ⟨-, ⟨⟩⟩⟩ := h
  · exact if_pos (not_tagOk_iff.mpr ht)
  · rw [if_neg (mt not_tagOk_iff.mp ht), hn]
    rfl

/-- R30: RELEASE refused. -/
theorem Vol.takeRelease_refused {d : DriveNo} {g : List Byte} (hp : parseNamed tag drive slug = some (d, g))
    (h : firstFailure [(v.mount d ≠ .ready, .notReady), ((v.named d g).bind Entry.holder ≠ some k, .notFound)] oc) :
    v.takeRelease k tag drive slug = v.answer k tag oc [] := by
  unfold Vol.takeRelease
  rw [hp]
  dsimp only
  obtain ⟨hready, rfl⟩ | ⟨hready, ⟨hh, rfl⟩ | ⟨-, ⟨⟩⟩⟩ := h
  · exact if_pos ((v.not_ready_iff d).mp hready)
  · rw [if_neg (mt (v.not_ready_iff d).mpr hready)]
    split
    · rfl
    · next slot hl => exact if_neg (Vol.named_of_lookup hl ▸ hh)

/-- R43: LIST refused. -/
theorem Vol.takeList_refused {count : Byte} {d : DriveNo} {g : List Byte} (hp : parseList tag drive count slug = some (d, g))
    (h : firstFailure [(b.mayRead k d = false, .notPermitted), (v.mount d ≠ .ready, .notReady)] oc) :
    v.takeList b k tag drive count slug = v.answer k tag oc [] := by
  unfold Vol.takeList
  rw [hp]
  dsimp only
  obtain ⟨hmay, rfl⟩ | ⟨hmay, ⟨hready, rfl⟩ | ⟨-, ⟨⟩⟩⟩ := h
  · rw [hmay]
    rfl
  · rw [Bool.eq_true_of_not_eq_false hmay, Bool.eq_false_iff.mpr (mt (v.ready_iff d).mp hready)]
    rfl

/-- R151: DRIVE refused. -/
theorem Vol.takeDrive_refused {d : DriveNo} (hp : parseOnlyDrive tag drive = some d)
    (h : firstFailure [(b.mayRead k d = false, .notPermitted)] oc) :
    v.takeDrive b k tag drive = v.answer k tag oc [] := by
  unfold Vol.takeDrive
  rw [hp]
  dsimp only
  obtain ⟨hmay, rfl⟩ | ⟨-, ⟨⟩⟩ := h
  rw [hmay]
  rfl

/-! ## The supervisor commands -/

/-- R140, check 2: a supervisor command refused by its line's permission, or by a check after it. -/
theorem onlySupervisor_refused {act : Battery × Vol} (h : firstFailure ((k ≠ supervisorLine, .notPermitted) :: rest) oc)
    (hact : firstFailure rest oc → act = (b, v.answer k tag oc [])) :
    onlySupervisor k tag b v act = (b, v.answer k tag oc []) := by
  have hsup : isSupervisor k = true ↔ k = supervisorLine := beq_iff_eq
  obtain ⟨hk, rfl⟩ | ⟨hk, h⟩ := h
  · exact if_neg (mt hsup.mp hk)
  · exact (if_pos (hsup.mpr (not_not.mp hk))).trans (hact h)

/-- R140: a supervisor command whose body is well formed but for its tag, refused. -/
theorem tagThenSupervisor_refused (act : Battery × Vol)
    (h : firstFailure [(tag = 0, .malformed), (k ≠ supervisorLine, .notPermitted)] oc) :
    (if !tagOk tag then (b, v.say k tag .malformed) else onlySupervisor k tag b v act) = (b, v.answer k tag oc []) := by
  obtain ⟨ht, rfl⟩ | ⟨ht, h⟩ := h
  · exact if_pos (not_tagOk_iff.mpr ht)
  · exact (if_neg (mt not_tagOk_iff.mp ht)).trans (onlySupervisor_refused h False.elim)

/-- R154: BREAK refused. -/
theorem takeBreak_refused {d : DriveNo} {g : List Byte} (hp : parseNamed tag drive slug = some (d, g))
    (h : firstFailure [(k ≠ supervisorLine, .notPermitted), (v.mount d ≠ .ready, .notReady),
      ((v.named d g).bind Entry.holder = none, .notFound)] oc) :
    takeBreak k tag drive slug b v = (b, v.answer k tag oc []) := by
  unfold takeBreak
  rw [hp]
  dsimp only
  refine onlySupervisor_refused h fun h => ?_
  obtain ⟨hready, rfl⟩ | ⟨hready, ⟨hh, rfl⟩ | ⟨-, ⟨⟩⟩⟩ := h
  · rw [if_neg (mt (v.ready_iff d).mp hready)]
    rfl
  · rw [if_pos (Vol.ready_of (not_not.mp hready)), Vol.breakHold]
    split
    · rfl
    · next slot hl =>
      rw [← Vol.named_of_lookup hl, hh]
      rfl

/-- R10: FORMAT refused. -/
theorem takeFormat_refused {d : DriveNo} {g : List Byte} (hp : parseFormat tag drive slug = some (d, g))
    (h : firstFailure ((k ≠ supervisorLine, .notPermitted) ::
      (slotChecks v k tag ++ (rebuildGateChecks v d ++ [(v.inUse d = true, .inUse)]))) oc) :
    takeFormat k tag drive slug b v = (b, v.answer k tag oc []) := by
  unfold takeFormat
  rw [hp]
  dsimp only
  refine onlySupervisor_refused h fun h => ?_
  obtain hs | ⟨⟨r, hs⟩, h⟩ := Vol.slotCheck_cases h
  · rw [hs]
    rfl
  rw [hs]
  obtain hg | ⟨hg, ⟨hu, rfl⟩ | ⟨-, ⟨⟩⟩⟩ := (v.rebuildGate_decides d).cases h
  · simp only [hg]
    rfl
  · simp only [hg, hu, if_true]
    rfl

/-- R178: the gate and the command-specific checks of COPY. -/
theorem Vol.copyCheck_decides (v : Vol) (a d : DriveNo) :
    Decides ((v.mount a ≠ .ready, .notReady) :: (rebuildGateChecks v d
      ++ [(v.sourceInUse a = true ∨ v.inUse d = true, .inUse), (v.destinationBad a d = true, .destinationBad)]))
      (v.copyCheck a d) := by
  have h : v.copyCheck a d = if (!v.ready a) = true then some .notReady
      else (v.rebuildGate d).or (if (v.sourceInUse a || v.inUse d) = true then some .inUse
        else if v.destinationBad a d = true then some .destinationBad else none) := by
    unfold Vol.copyCheck
    cases v.rebuildGate d <;> rfl
  rw [h]
  refine .cons (v.not_ready_iff a) ((v.rebuildGate_decides d).append (.cons ?_ (.cons .rfl .nil)))
  rw [Bool.or_eq_true]

/-- R155, R178: COPY refused. -/
theorem takeCopy_refused {source dest : Byte} {a d : DriveNo} (hp : parseCopy tag source dest = some (a, d))
    (h : firstFailure ((k ≠ supervisorLine, .notPermitted) :: (slotChecks v k tag
      ++ ((v.mount a ≠ .ready, .notReady) :: (rebuildGateChecks v d
        ++ [(v.sourceInUse a = true ∨ v.inUse d = true, .inUse), (v.destinationBad a d = true, .destinationBad)])))) oc) :
    takeCopy k tag source dest b v = (b, v.answer k tag oc []) := by
  unfold takeCopy
  rw [hp]
  dsimp only
  refine onlySupervisor_refused h fun h => ?_
  obtain hs | ⟨⟨r, hs⟩, h⟩ := Vol.slotCheck_cases h
  · rw [hs]
    rfl
  rw [hs]
  simp only [(v.copyCheck_decides a d oc).mp h]
  rfl

/-- R99: RECAL refused. -/
theorem takeRecal_refused {d : DriveNo} (hp : parseOnlyDrive tag drive = some d)
    (h : firstFailure ((k ≠ supervisorLine, .notPermitted) :: (slotChecks v k tag
      ++ [(v.mount d = .formatting ∨ v.mount d = .receiving, .inUse), (v.mount d ≠ .ready, .notReady)])) oc) :
    takeRecal k tag drive b v = (b, v.answer k tag oc []) := by
  unfold takeRecal
  rw [hp]
  dsimp only
  refine onlySupervisor_refused h fun h => ?_
  obtain hs | ⟨⟨r, hs⟩, h⟩ := Vol.slotCheck_cases h
  · rw [hs]
    rfl
  rw [hs]
  simp only [(v.recalGate_decides d oc).mp h]
  rfl

/-- R173: SET refused. -/
theorem takeSet_refused {item : Byte} {i : Item} (value : Word16) (hp : parseItem item = some i) (hi : i ≠ .trim)
    (h : firstFailure [(tag = 0, .malformed), (k ≠ supervisorLine, .notPermitted)] oc) :
    takeSet k tag item value b v = (b, v.answer k tag oc []) := by
  unfold takeSet
  rw [hp]
  dsimp only
  rw [beq_eq_false_iff_ne.mpr hi, Bool.or_false]
  exact tagThenSupervisor_refused _ h

/-- R152: GET refused. -/
theorem takeGet_refused {item : Byte} {i : Item} (hp : parseItem item = some i)
    (h : firstFailure [(tag = 0, .malformed), (k ≠ supervisorLine, .notPermitted)] oc) :
    takeGet k tag item b v = (b, v.answer k tag oc []) := by
  unfold takeGet
  rw [hp]
  exact tagThenSupervisor_refused _ h

/-- R162: SETTIME refused. -/
theorem takeSettime_refused {yy mm dd hh mi ss : Byte} {c : Clock} (hp : b.clock.ofBytes yy mm dd hh mi ss = some c)
    (h : firstFailure [(tag = 0, .malformed), (k ≠ supervisorLine, .notPermitted)] oc) :
    takeSettime k tag yy mm dd hh mi ss b v = (b, v.answer k tag oc []) := by
  unfold takeSettime
  rw [hp]
  exact tagThenSupervisor_refused _ h

/-- R166: EDITION refused. -/
theorem takeEdition_refused {n en oh om ch cm l : Byte} {x : Fin 8 × Bool × Nat × Nat × Nat}
    (hp : parseEditionCommand n en oh om ch cm l = some x)
    (h : firstFailure [(tag = 0, .malformed), (k ≠ supervisorLine, .notPermitted)] oc) :
    takeEdition k tag n en oh om ch cm l b v = (b, v.answer k tag oc []) := by
  unfold takeEdition
  rw [hp]
  exact tagThenSupervisor_refused _ h

/-! ## Bodies that are not well formed (R141) -/

theorem Vol.readChecks_malformed (hp : parseStory tag drive cls edition slug = none) :
    v.readChecks b k tag drive cls edition slug go = v.answer k tag .malformed [] := by
  rw [Vol.readChecks, hp]
  rfl

theorem Vol.writeChecks_malformed {fields : Option StoryFields} (hp : fields = none) :
    v.writeChecks b k tag fields go = v.answer k tag .malformed [] := by
  rw [hp]
  rfl

theorem Vol.takeRelease_malformed (hp : parseNamed tag drive slug = none) :
    v.takeRelease k tag drive slug = v.answer k tag .malformed [] := by
  rw [Vol.takeRelease, hp]
  rfl

theorem takeBreak_malformed (hp : parseNamed tag drive slug = none) :
    takeBreak k tag drive slug b v = (b, v.answer k tag .malformed []) := by
  rw [takeBreak, hp]
  rfl

theorem Vol.takeList_malformed {count : Byte} (hp : parseList tag drive count slug = none) :
    v.takeList b k tag drive count slug = v.answer k tag .malformed [] := by
  rw [Vol.takeList, hp]
  rfl

theorem Vol.takeDrive_malformed (hp : parseOnlyDrive tag drive = none) :
    v.takeDrive b k tag drive = v.answer k tag .malformed [] := by
  rw [Vol.takeDrive, hp]
  rfl

theorem takeRecal_malformed (hp : parseOnlyDrive tag drive = none) :
    takeRecal k tag drive b v = (b, v.answer k tag .malformed []) := by
  rw [takeRecal, hp]
  rfl

theorem Vol.takeStatus_malformed (ht : tag = 0) : v.takeStatus k tag = v.answer k tag .malformed [] := by
  subst ht
  rfl

theorem Vol.takeTime_malformed (ht : tag = 0) : v.takeTime b k tag = v.answer k tag .malformed [] := by
  subst ht
  rfl

theorem takeFormat_malformed (hp : parseFormat tag drive slug = none) :
    takeFormat k tag drive slug b v = (b, v.answer k tag .malformed []) := by
  rw [takeFormat, hp]
  rfl

theorem takeCopy_malformed {source dest : Byte} (hp : parseCopy tag source dest = none) :
    takeCopy k tag source dest b v = (b, v.answer k tag .malformed []) := by
  rw [takeCopy, hp]
  rfl

/-- R173: SET of an item that is none, or of the trim. -/
theorem takeSet_malformed {item : Byte} (value : Word16) (hp : parseItem item = none ∨ parseItem item = some .trim) :
    takeSet k tag item value b v = (b, v.answer k tag .malformed []) := by
  unfold takeSet
  obtain hp | hp := hp
  · rw [hp]
    rfl
  · rw [hp]
    exact if_pos (Bool.or_true _)

theorem takeGet_malformed {item : Byte} (hp : parseItem item = none) :
    takeGet k tag item b v = (b, v.answer k tag .malformed []) := by
  rw [takeGet, hp]
  rfl

theorem takeSettime_malformed {yy mm dd hh mi ss : Byte} (hp : b.clock.ofBytes yy mm dd hh mi ss = none) :
    takeSettime k tag yy mm dd hh mi ss b v = (b, v.answer k tag .malformed []) := by
  rw [takeSettime, hp]
  rfl

theorem takeEdition_malformed {n en oh om ch cm l : Byte} (hp : parseEditionCommand n en oh om ch cm l = none) :
    takeEdition k tag n en oh om ch cm l b v = (b, v.answer k tag .malformed []) := by
  rw [takeEdition, hp]
  rfl

end

/-- Settles O31: each command walks its checks in the order of its list. -/
theorem refusedCommandsAreOnlyAnswered : Obligations.RefusedCommandsAreOnlyAnswered := by
  intro s k tag drive slug hk v refused desk slots notReady found entry held fileGate rebuildGate malformed
  refine ⟨fun cls edition => ⟨fun hp => ⟨?_, ?_, ?_⟩, fun f hp => ⟨fun oc h => ?_, fun oc h => ?_, fun oc h => ?_⟩⟩,
    fun cls => ⟨fun hp => ?_, fun f hp oc h => ?_⟩, fun bytes oc h => ?_, fun keep oc h => ?_, fun target oc h => ?_,
    fun hp => ⟨?_, ?_⟩, fun d g hp => ⟨fun oc h => ?_, fun oc h => ?_⟩,
    fun count => ⟨fun hp => ?_, fun d g hp oc h => ?_⟩, fun hp => ⟨?_, ?_⟩, fun d hp oc h => ?_, fun ht => ⟨?_, ?_⟩,
    ⟨fun hp => ?_, fun d g hp oc h => ?_⟩, fun dest => ⟨fun hp => ?_, fun a d hp oc h => ?_⟩, fun d hp oc h => ?_,
    fun item value hp => ?_, fun item i value hp hi oc h => ?_, fun item hp => ?_, fun item i hp oc h => ?_,
    fun yy mm dd hh mi ss hp => ?_, fun yy mm dd hh mi ss c hp oc h => ?_, fun value oc h => ?_, fun oc h => ?_,
    fun n en oh om ch cm l hp => ?_, fun n en oh om ch cm l x hp oc h => ?_, fun oc h => ?_⟩
  -- FETCH, DRAW, FILE, SPIKE
  · exact exec_of_ownVol hk rfl rfl (Vol.readChecks_malformed hp)
  · exact exec_of_ownVol hk rfl rfl (Vol.readChecks_malformed hp)
  · exact exec_of_ownVol hk rfl rfl (Vol.writeChecks_malformed hp)
  · exact exec_of_ownVol hk rfl rfl (Vol.readChecks_refused hp h fun _ => Vol.fetchLookup_refused)
  · exact exec_of_ownVol hk rfl rfl (Vol.readChecks_refused hp h fun _ => Vol.drawLookup_refused)
  · exact exec_of_ownVol hk rfl rfl (Vol.writeChecks_refused hp h fun _ => Vol.fileLookup_refused)
  · exact exec_of_ownVol hk rfl rfl (Vol.writeChecks_malformed hp)
  · exact exec_of_ownVol hk rfl rfl (Vol.writeChecks_refused hp h fun _ => Vol.spikeLookup_refused)
  -- TEXT, CLOSE, CANCEL, RELEASE, LIST, DRIVE, STATUS, TIME
  · exact exec_of_ownVol hk rfl rfl (Vol.takeText_refused h)
  · exact exec_of_ownVol hk rfl rfl (Vol.takeClose_refused h)
  · exact exec_of_ownVol hk rfl rfl (Vol.takeCancel_refused h)
  · exact exec_of_ownVol hk rfl rfl (Vol.takeRelease_malformed hp)
  · exact exec_of_ownEffect hk rfl (takeBreak_malformed hp)
  · exact exec_of_ownVol hk rfl rfl (Vol.takeRelease_refused hp h)
  · exact exec_of_ownEffect hk rfl (takeBreak_refused hp h)
  · exact exec_of_ownVol hk rfl rfl (Vol.takeList_malformed hp)
  · exact exec_of_ownVol hk rfl rfl (Vol.takeList_refused hp h)
  · exact exec_of_ownVol hk rfl rfl (Vol.takeDrive_malformed hp)
  · exact exec_of_ownEffect hk rfl (takeRecal_malformed hp)
  · exact exec_of_ownVol hk rfl rfl (Vol.takeDrive_refused hp h)
  · exact exec_of_ownVol hk rfl rfl (Vol.takeStatus_malformed ht)
  · exact exec_of_ownVol hk rfl rfl (Vol.takeTime_malformed ht)
  -- FORMAT, COPY, RECAL
  · exact exec_of_ownEffect hk rfl (takeFormat_malformed hp)
  · exact exec_of_ownEffect hk rfl (takeFormat_refused hp h)
  · exact exec_of_ownEffect hk rfl (takeCopy_malformed hp)
  · exact exec_of_ownEffect hk rfl (takeCopy_refused hp h)
  · exact exec_of_ownEffect hk rfl (takeRecal_refused hp h)
  -- the configuration, the clock and RESTART
  · exact exec_of_ownEffect hk rfl (takeSet_malformed value hp)
  · exact exec_of_ownEffect hk rfl (takeSet_refused value hp hi h)
  · exact exec_of_ownEffect hk rfl (takeGet_malformed hp)
  · exact exec_of_ownEffect hk rfl (takeGet_refused hp h)
  · exact exec_of_ownEffect hk rfl (takeSettime_malformed hp)
  · exact exec_of_ownEffect hk rfl (takeSettime_refused hp h)
  · exact exec_of_ownEffect hk rfl (tagThenSupervisor_refused _ h)
  · exact exec_of_ownEffect hk rfl (tagThenSupervisor_refused _ h)
  · exact exec_of_ownEffect hk rfl (takeEdition_malformed hp)
  · exact exec_of_ownEffect hk rfl (takeEdition_refused hp h)
  · exact exec_of_ownEffect hk rfl (tagThenSupervisor_refused _ h)

end Sys2Proof.Machine
end

section
/-! PROOFS. Reports, the clock's trim and ROUND, and an edition rewritten: STATUS, TIME, DRIVE, GET, TRIM, ROUND and EDITION
where their checks pass. -/

namespace Sys2Proof.Machine

/-! ## Reports (R149 to R152) -/

section
variable {b : Battery} {v : Vol} {k : Line} {tag : Byte}

/-- R149: STATUS taken. -/
theorem Vol.takeStatus_taken (ht : tag ≠ 0) : v.takeStatus k tag = v.answer k tag .done (v.statusData k) :=
  if_pos (tagOk_of ht)

/-- R150: TIME taken. -/
theorem Vol.takeTime_taken (ht : tag ≠ 0) : v.takeTime b k tag = v.answer k tag .done b.clock.report :=
  if_pos (tagOk_of ht)

theorem parseOnlyDrive_of {drive : Byte} {d : DriveNo} (ht : tag ≠ 0) (hd : drive.toNat = d.val) :
    parseOnlyDrive tag drive = some d := by
  have hp : parseDrive drive = some d := by simp [parseDrive, hd]
  rw [parseOnlyDrive, hp]
  exact if_pos (tagOk_of ht)

/-- R151: DRIVE taken. -/
theorem Vol.takeDrive_taken {drive : Byte} {d : DriveNo} (hp : parseOnlyDrive tag drive = some d)
    (hmay : b.mayRead k d = true) : v.takeDrive b k tag drive = v.answer k tag .done (v.drive d).report := by
  rw [Vol.takeDrive, hp]
  exact if_pos hmay

/-- R152: GET taken. -/
theorem takeGet_taken {item : Byte} {i : Item} (ht : tag ≠ 0) (hp : parseItem item = some i) :
    takeGet supervisorLine tag item b v
      = (b, v.answer supervisorLine tag .done (item :: b.itemBytes i)) := by
  rw [takeGet, hp]
  dsimp only
  rw [tagOk_of ht]
  rfl

end

/-- Settles O15: each report is its answer alone. -/
theorem reportsAreAnsweredAndChangeNothing : Obligations.ReportsAreAnsweredAndChangeNothing := by
  intro s k tag hk ht
  refine ⟨?_, ?_, fun x d hx hmay => ?_, fun item i hsup hp => ?_⟩
  · exact exec_of_ownVol hk rfl rfl (Vol.takeStatus_taken ht)
  · exact exec_of_ownVol hk rfl rfl (Vol.takeTime_taken ht)
  · exact exec_of_ownVol hk rfl rfl (Vol.takeDrive_taken (parseOnlyDrive_of ht hx) hmay)
  · subst hsup
    exact exec_of_ownEffect hk rfl (takeGet_taken ht hp)

/-! ## TRIM and ROUND (R160, R163) -/

theorem clampTrim_eq (n : Int) : clampTrim n = max (-2048) (min 2047 n) := by
  unfold clampTrim
  split
  · omega
  · split <;> omega

theorem Clock.rounded_down {c : Clock} (h : c.ss < 30) :
    c.rounded = { c with ss := 0, prescaler := 0, secondLength := 32768 } := if_pos h

theorem Clock.rounded_up {c : Clock} (h : 30 ≤ c.ss) : c.rounded = c.carryMinute := if_neg (Nat.not_lt.mpr h)

/-- R159: a minute carried begins at its second 0, with the prescaler at 0. -/
theorem Clock.carryMinute_begins (c : Clock) : c.carryMinute.ss = 0 ∧ c.carryMinute.prescaler = 0 := by
  unfold Clock.carryMinute
  split <;> exact ⟨rfl, rfl⟩

section
variable {b : Battery} {v : Vol} {tag : Byte}

/-- R160: TRIM taken. -/
theorem takeTrim_taken (value : Word16) (ht : tag ≠ 0) :
    takeTrim supervisorLine tag value b v =
      ({ b with clock := { b.clock with trim := clampTrim value.toInt } },
        v.answer supervisorLine tag .done (be16 (BitVec.ofInt 16 (clampTrim value.toInt)).toNat)) := by
  rw [takeTrim, tagOk_of ht]
  rfl

/-- R163: ROUND taken. -/
theorem takeRound_taken (ht : tag ≠ 0) : takeRound supervisorLine tag b v =
    if b.clock.ss < 30 then ({ b with clock := b.clock.rounded },
      v.answer supervisorLine tag .done b.clock.rounded.report)
    else minuteTick { b with clock := b.clock.rounded } (v.answer supervisorLine tag .done b.clock.rounded.report) := by
  rw [takeRound, tagOk_of ht]
  rfl

end

/-- Settles O18. -/
theorem trimAndRoundSetTheClock : Obligations.TrimAndRoundSetTheClock := by
  refine ⟨?_, fun s tag hk ht => ⟨?_, ?_⟩⟩
  · intro s tag value hk ht n
    have hn : clampTrim value.toInt = n := clampTrim_eq _
    rw [← hn]
    exact exec_of_ownEffect hk rfl (takeTrim_taken value ht)
  · intro hss c
    have hc : s.bat.clock.rounded = c := Clock.rounded_down hss
    rw [← hc]
    exact exec_of_ownEffect hk rfl ((takeRound_taken ht).trans (if_pos hss))
  · intro hss c
    have hc : s.bat.clock.rounded = c := Clock.rounded_up hss
    obtain ⟨hsec, hpre⟩ := s.bat.clock.carryMinute_begins
    refine ⟨hsec, hpre, ?_⟩
    rw [← hc]
    exact exec_of_ownEffect hk rfl ((takeRound_taken ht).trans (if_neg (Nat.not_lt.mpr hss)))

/-! ## EDITION (R153, R165, R166) -/

theorem parseTime_bcd {n : Nat} (h : n < 1440) : parseTime (bcd (n / 60)) (bcd (n % 60)) = some n := by
  have hh : n / 60 ≤ 23 := by omega
  have hm : n % 60 ≤ 59 := by omega
  simp only [parseTime, fromBcd_bcd _ (hh.trans (by decide)), fromBcd_bcd _ (hm.trans (by decide)), hh, hm, and_self,
    if_true, Nat.div_add_mod]

/-- R153: the body of an EDITION with its number, flag, times and lead in range. -/
theorem parseEditionCommand_of (i : Fin 8) (on : Bool) {o c lead : Nat} (ho : o < 1440) (hc : c < 1440) (hoc : o ≠ c)
    (hl : lead ≤ 59) :
    parseEditionCommand (BitVec.ofNat 8 (i.val + 1)) (if on then 1 else 0) (bcd (o / 60)) (bcd (o % 60)) (bcd (c / 60))
      (bcd (c % 60)) (BitVec.ofNat 8 lead) = some (i, on, o, c, lead) := by
  have hflag : parseFlag (if on then 1 else 0) = some on := by cases on <;> rfl
  have hnum : (BitVec.ofNat 8 (i.val + 1)).toNat = i.val + 1 := by rw [BitVec.toNat_ofNat]; omega
  have hlead : (BitVec.ofNat 8 lead).toNat = lead := by rw [BitVec.toNat_ofNat]; omega
  unfold parseEditionCommand
  rw [hflag, parseTime_bcd ho, parseTime_bcd hc]
  simp [hnum, hlead, hoc, hl]

/-- R166: EDITION taken. -/
theorem takeEdition_taken {tag number enabled openHH openMM closeHH closeMM lead : Byte} {i : Fin 8} {on : Bool} {o c l : Nat}
    (b : Battery) (v : Vol) (ht : tag ≠ 0)
    (hp : parseEditionCommand number enabled openHH openMM closeHH closeMM lead = some (i, on, o, c, l)) :
    takeEdition supervisorLine tag number enabled openHH openMM closeHH closeMM lead b v =
      (b.setEdition i (Edition.stored on o c l b.clock.minute), v.answer supervisorLine tag .done
        ((Edition.stored on o c l b.clock.minute).report number)) := by
  rw [takeEdition, hp]
  dsimp only
  rw [tagOk_of ht]
  rfl

/-- Settles O19. -/
theorem editionRewritesItsEntry : Obligations.EditionRewritesItsEntry := by
  intro s tag i on o c lead hk ht ho hc hoc hl span stored m st e
  have he : Edition.stored on o c lead s.bat.clock.minute = e := rfl
  have htaken := takeEdition_taken s.bat s.vol ht (parseEditionCommand_of i on ho hc hoc hl)
  rw [he] at htaken
  exact exec_of_ownEffect hk rfl htaken

end Sys2Proof.Machine
end

section
/-! PROOFS. The edition clock: the carries of the calendar, the arcs of an edition, SETTIME, and the battery domain under
every command: what leaves it alone, and that its ranges and its editions' states are kept. -/

namespace Sys2Proof.Machine

/-! ## The battery domain under every step -/

/-- Settles O6: a command's own effects keep the ranges, and the follow-on work leaves the battery domain as it was. -/
theorem stepKeepsTheBatteryInRange : Obligations.StepKeepsTheBatteryInRange := by
  intro s t hs h
  rcases step_cases h with rfl | ⟨c, rest, -, he⟩
  · exact hs
  · rcases exec_cases he with rfl | ⟨-, rfl⟩
    · exact hs
    · exact Battery.ok_ownEffect c hs

/-- The ranges and the editions' states are what a battery domain keeps with its blocks running or not. -/
theorem State.kept_iff (s : State) : s.bat.kept s.vol.live ↔ s.bat.ok ∧ s.editionsCurrent := Iff.rfl

/-- The end of a command changes neither the battery domain nor whether the blocks run. -/
theorem State.editionsCurrent_finish (s : State) {p : Battery × Vol} (h : p.1.kept p.2.live) :
    (s.finish p).editionsCurrent := by
  have hlive : (s.finish p).vol.live = p.2.live := Vol.live_of_placedOnly (s.placedOnly_finish p)
  have hkept : (s.finish p).bat.kept (s.finish p).vol.live := by rwa [State.bat_finish, hlive]
  exact ((s.finish p).kept_iff.mp hkept).2

/-- Settles O7: a command's own effects keep the ranges and the editions' states together. -/
theorem stepKeepsEditionsCurrent : Obligations.StepKeepsEditionsCurrent := by
  intro s t hok hcur h
  rcases step_cases h with rfl | ⟨c, rest, -, he⟩
  · exact hcur
  · rcases exec_cases he with rfl | ⟨-, rfl⟩
    · exact hcur
    · have hown : (ownEffect c s.bat s.vol).1.kept (ownEffect c s.bat s.vol).2.live :=
        Battery.kept_ownEffect c (s.kept_iff.mpr ⟨hok, hcur⟩)
      exact State.editionsCurrent_finish _ hown

/-! ## The commands that leave the battery domain alone -/

theorem reachesBattery_eq_false {c : Instr}
    (h : match c with
      | .set .. => False
      | .settime .. => False
      | .trim .. => False
      | .round .. => False
      | .edition .. => False
      | .characterReceived .. => False
      | .frameComplete .. => False
      | .frameFault .. => False
      | .frameSent _ => False
      | .secondEnd => False
      | .powerOn _ => False
      | .resetRelease => False
      | _ => True) : reachesBattery c = false := by
  cases c
  case set | settime | trim | round | edition | characterReceived | frameComplete | frameFault | frameSent | secondEnd
      | powerOn | resetRelease => exact h.elim
  all_goals rfl

/-- Settles O12: none of these commands reaches the battery domain with its own effects, and the follow-on work never does. -/
theorem batteryDomainStandsUnderOtherCommands : Obligations.BatteryDomainStandsUnderOtherCommands := by
  intro c s t hc h
  rcases exec_cases h with rfl | ⟨-, rfl⟩
  · rfl
  · exact ownEffect_bat c s.bat s.vol (reachesBattery_eq_false hc)

/-! ## SETTIME (R162, R168) -/

/-- R168: the silent recomputation changes the table alone, every entry by itself. -/
theorem Battery.recomputeAll_eq (b : Battery) :
    b.recomputeAll = { b with editions := b.editions.map (fun e => e.recompute b.clock.minute) } := by
  have heditions : b.recomputeAll.editions = b.editions.map (fun e => e.recompute b.clock.minute) := by
    ext1 i hi
    rw [Vector.getElem_map]
    exact b.editions_recomputeAll ⟨i, hi⟩
  rw [← heditions, ← b.settings_recomputeAll, ← b.clock_recomputeAll]

/-- R162: the clock that SETTIME sets from a date and time, the trim kept. -/
def Clock.setTo (c : Clock) (y m d h n x : Nat) : Clock :=
  { yy := y, mm := m, dd := d, hh := h, mi := n, ss := x, prescaler := 0, secondLength := 32768, trim := c.trim,
    valid := true }

/-- R162: the bytes of a date and time of the calendar are read as the clock they set. -/
theorem Clock.ofBytes_bcd (c : Clock) {y m d h n x : Nat} (hv : (c.setTo y m d h n x).validDate = true) :
    c.ofBytes (bcd y) (bcd m) (bcd d) (bcd h) (bcd n) (bcd x) = some (c.setTo y m d h n x) := by
  obtain ⟨hy, -, hm, -, hd, hh, hn, hx⟩ := (Clock.validDate_iff _).mp hv
  have hd31 : d ≤ 31 := hd.trans (monthDays_le _ _)
  simp only [Clock.setTo] at hy hm hh hn hx
  rw [Clock.ofBytes, fromBcd_bcd y hy, fromBcd_bcd m (by omega), fromBcd_bcd d (by omega), fromBcd_bcd h (by omega),
    fromBcd_bcd n (by omega), fromBcd_bcd x (by omega)]
  exact if_pos hv

/-- R162: SETTIME taken. -/
theorem takeSettime_taken {tag yy mm dd hh mi ss : Byte} {b : Battery} {c : Clock} (v : Vol) (ht : tag ≠ 0)
    (hp : b.clock.ofBytes yy mm dd hh mi ss = some c) :
    takeSettime supervisorLine tag yy mm dd hh mi ss b v =
      (({ b with clock := c } : Battery).recomputeAll, v.answer supervisorLine tag .done c.report) := by
  rw [takeSettime, hp]
  dsimp only
  rw [tagOk_of ht]
  rfl

/-- Settles O17: the bytes spell the clock that is set, and the table is recomputed entry by entry. -/
theorem settimeSetsTheClock : Obligations.SettimeSetsTheClock := by
  intro s tag y m d h n x hk ht hy hm1 hm hd1 hd hh hn hx c
  have hvalid : (s.bat.clock.setTo y m d h n x).validDate = true :=
    (Clock.validDate_iff _).mpr ⟨hy, hm1, hm, hd1, hd, hh, hn, hx⟩
  have htaken := takeSettime_taken s.vol ht (s.bat.clock.ofBytes_bcd hvalid)
  rw [Battery.recomputeAll_eq] at htaken
  exact exec_of_ownEffect hk rfl htaken

/-! ## The arcs of an edition (R165) -/

/-- The minutes from the open time to the minute `i` later, round the day. -/
theorem minutesSince_opens {o i : Nat} (ho : o < 1440) (hi : i < 1440) : ((o + i) % 1440 + 1440 - o) % 1440 = i := by
  omega

/-- R165: the arc state `i` minutes after the open time. -/
theorem Edition.arcState_after {e : Edition} (ho : e.opens < 1440) {i : Nat} (hi : i < 1440) :
    e.arcState ((e.opens + i) % 1440)
      = if i < e.span - e.lead then .opened else if i < e.span then .warning else .closed := by
  unfold Edition.arcState
  rw [minutesSince_opens ho hi]

/-- R165: the span leads from the open time to the close time. -/
theorem Edition.opens_add_span {e : Edition} (ho : e.opens < 1440) (hc : e.closes < 1440) :
    (e.opens + e.span) % 1440 = e.closes := by
  unfold Edition.span
  omega

/-- Settles O58: each minute is told by its distance from the open time. -/
theorem theArcsOfAnEdition : Obligations.TheArcsOfAnEdition := by
  intro e he
  obtain ⟨ho, hc, hne, -, hlead, -⟩ := e.ok_iff.mp he
  obtain ⟨-, hspan⟩ := Edition.span_pos ho hc hne
  refine ⟨fun i hi => ?_, fun i hlo hi => ?_, fun i hlo hi => ?_, Edition.opens_add_span ho hc, by omega, hspan⟩
  · rw [Edition.arcState_after ho (by omega), if_pos hi]
  · rw [Edition.arcState_after ho (by omega), if_neg (by omega), if_pos hi]
  · rw [Edition.arcState_after ho hi, if_neg (by omega), if_neg (by omega)]

/-! ## The carries of the calendar (R158, R159) -/

section
variable {c : Clock}

theorem Clock.carryMinute_within (h : c.mi ≠ 59) :
    c.carryMinute = { c with mi := c.mi + 1, ss := 0, prescaler := 0, secondLength := 32768 } := if_neg h

/-- R158, R159: a carry into the hour fixes the length of the second that begins. -/
theorem Clock.carryMinute_hour (h : c.mi = 59) :
    c.carryMinute = { c.carryHour with mi := 0, ss := 0, prescaler := 0, secondLength := (32768 - c.trim).toNat } :=
  if_pos h

theorem Clock.carryHour_within (h : c.hh ≠ 23) : c.carryHour = { c with hh := c.hh + 1 } := if_neg h

theorem Clock.carryHour_day (h : c.hh = 23) : c.carryHour = { c.carryDay with hh := 0 } := if_pos h

theorem Clock.carryDay_within (h : c.dd ≠ monthDays c.yy c.mm) : c.carryDay = { c with dd := c.dd + 1 } := if_neg h

theorem Clock.carryDay_month (h : c.dd = monthDays c.yy c.mm) : c.carryDay = { c.carryMonth with dd := 1 } := if_pos h

theorem Clock.carryMonth_within (h : c.mm ≠ 12) : c.carryMonth = { c with mm := c.mm + 1 } := if_neg h

theorem Clock.carryMonth_year (h : c.mm = 12) :
    c.carryMonth = { c with yy := if c.yy = 99 then 0 else c.yy + 1, mm := 1 } := if_pos h

end

/-- R159: the month lengths of a year, February by the leap year. -/
theorem monthDays_year (yy : Nat) : (List.range 12).map (fun i => monthDays yy (i + 1))
    = [31, if yy % 4 = 0 then 29 else 28, 31, 30, 31, 30, 31, 31, 30, 31, 30, 31] := rfl

/-- Settles O59: the carry runs on into the next field where a field stands at its last value. -/
theorem carriesThroughTheCalendar : Obligations.CarriesThroughTheCalendar := by
  refine ⟨fun c hmi => Clock.carryMinute_within hmi, fun c hmi hhh => ?_, fun c hmi hhh hdd => ?_,
    fun c hmi hhh hdd hmm => ?_, fun c hmi hhh hdd hmm => ?_, fun yy _ => monthDays_year yy, by decide⟩
  · rw [Clock.carryMinute_hour hmi, Clock.carryHour_within hhh]
  · rw [Clock.carryMinute_hour hmi, Clock.carryHour_day hhh, Clock.carryDay_within hdd]
  · rw [Clock.carryMinute_hour hmi, Clock.carryHour_day hhh, Clock.carryDay_month hdd, Clock.carryMonth_within hmm]
  · rw [Clock.carryMinute_hour hmi, Clock.carryHour_day hhh, Clock.carryDay_month hdd, Clock.carryMonth_year hmm]

end Sys2Proof.Machine
end

section
/-! PROOFS. The queue of commands: what a step takes from it, and that every command answers and leaves it. -/

namespace Sys2Proof.Machine

/-- With an empty queue the block idles (log 6). -/
theorem step_of_pending_nil {s : State} (h : s.pending = []) : step s = .next s := by
  rw [step, h]

/-- The other case of a step: the command at the front runs on the queue's rest. -/
theorem step_of_pending_cons {s : State} {c : Instr} {rest : List Instr} (h : s.pending = c :: rest) :
    step s = exec c { s with pending := rest } := by
  rw [step, h]

/-- No command ends in a fault or a refusal: by `exec_eq` it acts or changes nothing. -/
theorem exec_answers (c : Instr) (s : State) : ∃ t, exec c s = .next t :=
  ⟨_, exec_eq c s⟩

/-- A command leaves the queue: one that acts ends in `State.finish`, which leaves it. -/
theorem pending_exec {c : Instr} {s t : State} (h : exec c s = .next t) : t.pending = s.pending := by
  rcases exec_cases h with rfl | ⟨-, rfl⟩
  · rfl
  · exact s.pending_finish _

/-- Settles O1. -/
theorem stepRunsTheFrontCommand : Obligations.StepRunsTheFrontCommand :=
  fun _ _ _ h => step_of_pending_cons h

/-- Settles O2: an empty queue idles, and each command answers and leaves the queue. -/
theorem everyStepAnswers : Obligations.EveryStepAnswers := by
  refine ⟨fun _ h => step_of_pending_nil h, fun c s => ?_⟩
  obtain ⟨t, ht⟩ := exec_answers c s
  exact ⟨t, ht, pending_exec ht⟩

end Sys2Proof.Machine
end
